-- ==== Sys2Proof/Word.lean ====
section
/-! DEFINITION. The word types and the sparse table (R6, R7). Everything wider than a byte is built from these; byte order is
decided once, in Machine/Ops.lean. -/

namespace Sys2Proof

/-- A general register of the control processor (R205): 64 bits. -/
abbrev Word := BitVec 64

/-- A byte of memory (R7). -/
abbrev Byte := BitVec 8

/-- A 32-bit lane word of the fabric (R237) or an FP32 tile element (R293). -/
abbrev Lane := BitVec 32

/-- Sparse data by key: strictly the pairs that were written, in ascending key order when built by `Tab.set`. An unlisted key
reads as the default that the reader names. -/
abbrev Tab (α : Type) := List (Nat × α)

namespace Tab

/-- The value at key `k`, `d` when the table does not list it. -/
def get {α : Type} (d : α) : Tab α → Nat → α
  | [], _ => d
  | (j, v) :: t, k => if k = j then v else get d t k

/-- The table with key `k` holding `v`. -/
def set {α : Type} : Tab α → Nat → α → Tab α
  | [], k, v => [(k, v)]
  | (j, w) :: t, k, v =>
    if k < j then (k, v) :: (j, w) :: t
    else if k = j then (k, v) :: t
    else (j, w) :: set t k v

/-- The table without key `k`. -/
def erase {α : Type} : Tab α → Nat → Tab α
  | [], _ => []
  | (j, w) :: t, k => if k = j then erase t k else (j, w) :: erase t k

/-- What key `k` holds, if the table lists it. -/
def find? {α : Type} : Tab α → Nat → Option α
  | [], _ => none
  | (j, v) :: t, k => if k = j then some v else find? t k

/-- The table with the value at `k` (the default `d` when unlisted) replaced by its image under `f`. -/
def upd {α : Type} (d : α) (t : Tab α) (k : Nat) (f : α → α) : Tab α :=
  t.set k (f (t.get d k))

end Tab

end Sys2Proof
end

