-- ==== Sys2Proof/Config.lean ====
section
/-! DEFINITION. What the hardware fixes (counts, widths, page sizes) and the free values: constants with no body, which stand for
what the specification leaves open. -/

namespace Sys2Proof.Config

/-- R24: the mesh is 48 wide and 8 tall. -/
def meshW : Nat := 48
def meshH : Nat := 8
/-- R19: 384 cores. -/
def numCores : Nat := 384
/-- R20: sixteen panels. -/
def numDies : Nat := 16
/-- R23: hem die h owns queues 16,384 h to 16,384 h + 16,383. -/
def queuesPerHem : Nat := 16384
/-- R36: sixteen task slots. -/
def numSlots : Nat := 16
/-- R46: channel FIFOs of sixteen messages. -/
def fifoDepth : Nat := 16
/-- R55: 256 continuation records. -/
def numConts : Nat := 256
/-- R402: 64 fault records. -/
def numFrecs : Nat := 64
/-- R217: four loop entries. -/
def loopDepth : Nat := 4
/-- R228: thirty-two queued speculative stores. -/
def specStores : Nat := 32
/-- R325: thirty-two transfer-unit commands. -/
def numXu : Nat := 32
/-- R294: sixteen queued matrix tokens. -/
def mxQueue : Nat := 16
/-- R195: the instruction buffer holds 1,024 lines of 64 bytes. -/
def ibufLines : Nat := 1024
/-- R171: the resident-configuration store holds 8,192 frames. -/
def storeFrames : Nat := 8192
/-- R88: device virtual addresses are 52 bits. -/
def vaLimit : Nat := 2 ^ 52
/-- R89: physical addresses are 48 bits. -/
def paLimit : Nat := 2 ^ 48
/-- R5: a stitch is eight reference ticks. -/
def ticksPerStitch : Nat := 8
/-- R156: 64 LKILL marks per hem die. -/
def lkillMarks : Nat := 64
/-- R419: at most 1,024 unacknowledged non-idempotent operations to one target. -/
def remoteWindow : Nat := 1024

/-- FREE VALUE (log 24): how many packets beyond one an input queue of a router holds (R342: each has its own buffers). -/
opaque routerRoom : Nat

/-- R23: eighteen scale-up ports to a hem die. -/
def portsPerHem : Nat := 18

/-- FREE VALUE (log 24): the scale-up port of its hem die that carries the traffic to a node. -/
opaque nodePort : Nat → Nat

/-- FREE VALUE (log 24): the link by which the periodic drain's cycle leaves a router (R347), by router and input port: one of its
links, in the order north, south, east, west. -/
opaque drainLink : Nat → Nat → Nat

/-- FREE VALUE (log 32): how many tokens beyond the next one an AG reads (R275 sets no number). -/
opaque readAhead : Nat

/-- FREE VALUE (log 33): the rounding mode and SAT of the conversions of AG streams (R275, R278 name none). -/
opaque streamRnd : BitVec 2
opaque streamSat : Bool

/-- FREE VALUE (log 33): what a DB code without metadata becomes in a page of another format: by page format, view and code. -/
opaque unscaled : Nat → Nat → Nat → Nat

/-- FREE VALUE (log 44): EINFO1 and EINFO2 of a FORMAT that a token's metadata raises, which no access has, so that there is no VA, page or view. -/
opaque strayVa : BitVec 64
opaque strayView : BitVec 64

/-- FREE VALUE (log 44): EINFO1 and EINFO2 of an ACCR request out of bounds, which has no record: by the request. -/
opaque accrOffset : BitVec 32 → BitVec 64
opaque accrRecord : BitVec 32 → BitVec 64

/-- FREE VALUE (log 2): which branch of an open choice the module takes, by the value of State.fresh when it is asked: the
allowed outcome among overlapping copies (R331), the order of independent events (R14). -/
opaque freeNat : Nat → Nat

/-- FREE VALUE (log 2): a 64-bit word the specification leaves open, by State.fresh. -/
opaque freeWord : Nat → BitVec 64

/-- FREE VALUE (log 2): a byte the specification leaves open, by State.fresh and position. -/
opaque freeByte : Nat → Nat → BitVec 8

/-- FREE VALUE (log 8): the device's Ed448 private identity key, 57 bytes (R451). -/
opaque identitySeed : Vector (BitVec 8) 57

/-- FREE VALUE (log 8): Colren's Ed448 public firmware key (R35, R446). -/
opaque firmwareKey : Vector (BitVec 8) 57

end Sys2Proof.Config
end

