-- ==== Sys2Proof/Syntax.lean ====
section
/-! DEFINITION. The whole of the opcode table as ONE inductive: a constructor for every row of spec/opcode_table.json. The control
processor's rows carry the fields of their 64-bit word (R115 to R123); the rows of the module's other agents carry the
place they act on, and what the outside world supplies. -/

namespace Sys2Proof

/-- A general register number, g0 to g63. -/
abbrev Reg := BitVec 6
/-- A predicate number, p0 to p7. -/
abbrev PReg := BitVec 3
/-- A buffer record number, b0 to b255. -/
abbrev RecIx := BitVec 8
/-- A scoreboard counter, sb0 to sb31. -/
abbrev SbIx := BitVec 5

/-- The guard of a CP word (R115): a predicate and whether it is negated. `!p0` is reserved. -/
structure Guard where
  neg : Bool
  p : PReg
deriving DecidableEq, Repr, Inhabited

/-- One condition slot of WAIT (R123): a kind and the register that holds its operand. -/
structure WCond where
  kind : BitVec 3
  reg : Reg
deriving DecidableEq, Repr, Inhabited

/-- Words with no field but op and guard. -/
structure OpsG where
  g : Guard
deriving DecidableEq, Repr, Inhabited

/-- R form, D, A and B (R116). -/
structure OpsDAB where
  g : Guard
  d : Reg
  a : Reg
  b : Reg
  fea : Bool
  feb : Bool
deriving DecidableEq, Repr, Inhabited

/-- R form with the sign in fn[0] (Table 5-5): `uns` is fn[0]. -/
structure OpsDABu where
  g : Guard
  d : Reg
  a : Reg
  b : Reg
  fea : Bool
  feb : Bool
  uns : Bool
deriving DecidableEq, Repr, Inhabited

/-- R form, D, A, B and C (R116). -/
structure OpsDABC where
  g : Guard
  d : Reg
  a : Reg
  b : Reg
  c : Reg
  fea : Bool
  feb : Bool
  fec : Bool
deriving DecidableEq, Repr, Inhabited

/-- R form, A, B and C. -/
structure OpsABC where
  g : Guard
  a : Reg
  b : Reg
  c : Reg
  fea : Bool
  feb : Bool
  fec : Bool
deriving DecidableEq, Repr, Inhabited

/-- R form, D and A. -/
structure OpsDA where
  g : Guard
  d : Reg
  a : Reg
  fea : Bool
deriving DecidableEq, Repr, Inhabited

/-- R form, A and B. -/
structure OpsAB where
  g : Guard
  a : Reg
  b : Reg
  fea : Bool
  feb : Bool
deriving DecidableEq, Repr, Inhabited

/-- R form, A alone. -/
structure OpsA where
  g : Guard
  a : Reg
  fea : Bool
deriving DecidableEq, Repr, Inhabited

/-- SEL (R208): D, A, B and the predicate test of fn[3:0]. -/
structure OpsSel where
  g : Guard
  d : Reg
  a : Reg
  b : Reg
  fea : Bool
  feb : Bool
  p : PReg
  neg : Bool
deriving DecidableEq, Repr, Inhabited

/-- I form, D, A and imm32 (R117). -/
structure OpsImm where
  g : Guard
  d : Reg
  a : Reg
  fea : Bool
  imm : BitVec 32
deriving DecidableEq, Repr, Inhabited

/-- L form, MOVI (R118). -/
structure OpsMovi where
  g : Guard
  d : Reg
  imm : BitVec 46
deriving DecidableEq, Repr, Inhabited

/-- L form, MOVHI (R118): imm46[17:0]; the rest is to be 0. -/
structure OpsMovhi where
  g : Guard
  d : Reg
  imm : BitVec 18
deriving DecidableEq, Repr, Inhabited

/-- CMP (R212). -/
structure OpsCmp where
  g : Guard
  d : PReg
  a : Reg
  b : Reg
  fea : Bool
  feb : Bool
  cond : BitVec 4
deriving DecidableEq, Repr, Inhabited

/-- CMPI (R212). -/
structure OpsCmpi where
  g : Guard
  d : PReg
  a : Reg
  fea : Bool
  cond : BitVec 4
  imm : BitVec 32
deriving DecidableEq, Repr, Inhabited

/-- PAND, POR, PXOR (R213). -/
structure OpsPred2 where
  g : Guard
  d : PReg
  a : PReg
  b : PReg
deriving DecidableEq, Repr, Inhabited

/-- PNOT, PMOV (R213). -/
structure OpsPred1 where
  g : Guard
  d : PReg
  a : PReg
deriving DecidableEq, Repr, Inhabited

/-- BR, B form (R119). -/
structure OpsBr where
  g : Guard
  off : BitVec 32
deriving DecidableEq, Repr, Inhabited

/-- JAL, B form (R119). -/
structure OpsJal where
  g : Guard
  d : Reg
  off : BitVec 32
deriving DecidableEq, Repr, Inhabited

/-- LOOP (R117). -/
structure OpsLoop where
  g : Guard
  a : Reg
  fea : Bool
  imm : BitVec 32
deriving DecidableEq, Repr, Inhabited

/-- LOOPI (R117): the count is a * 128 + fn. -/
structure OpsLoopi where
  g : Guard
  count : BitVec 13
  imm : BitVec 32
deriving DecidableEq, Repr, Inhabited

/-- WAIT, W form (R123). -/
structure OpsWait where
  g : Guard
  chan : BitVec 6
  all : Bool
  tmo : Reg
  c0 : WCond
  c1 : WCond
  c2 : WCond
  c3 : WCond
deriving DecidableEq, Repr, Inhabited

/-- POP in fail mode (R224). -/
structure OpsPopF where
  g : Guard
  d : Reg
  a : Reg
  p : PReg
  fea : Bool
deriving DecidableEq, Repr, Inhabited

/-- POP in block mode (R224). -/
structure OpsPopB where
  g : Guard
  a : Reg
  chan : BitVec 6
  fea : Bool
deriving DecidableEq, Repr, Inhabited

/-- SPEC (R226). -/
structure OpsSpec where
  g : Guard
  cond : BitVec 4
  a : Reg
  imm : BitVec 32
deriving DecidableEq, Repr, Inhabited

/-- MFS (R233): A is the binding index, for CHBIND only. -/
structure OpsMfs where
  g : Guard
  d : Reg
  a : Reg
  fea : Bool
  n : BitVec 9
deriving DecidableEq, Repr, Inhabited

/-- MTS (R233) of a register with no row of its own. -/
structure OpsMts where
  g : Guard
  a : Reg
  fea : Bool
  n : BitVec 9
deriving DecidableEq, Repr, Inhabited

/-- MTS of CLASPk (R282). -/
structure OpsMtsClasp where
  g : Guard
  a : Reg
  fea : Bool
  k : BitVec 3
deriving DecidableEq, Repr, Inhabited

/-- M form, LD, ST, LDP, STP (R120). -/
structure OpsMem where
  g : Guard
  d : Reg
  a : Reg
  br : RecIx
  fea : Bool
  fed : Bool
  sz : BitVec 2
  scope : BitVec 3
  ord : BitVec 2
  bulk : Bool
  imm : BitVec 21
deriving DecidableEq, Repr, Inhabited

/-- M form, RECLD and RECST (R120, R322): d is to be 0 and sz 3. -/
structure OpsRecMem where
  g : Guard
  a : Reg
  br : RecIx
  fea : Bool
  scope : BitVec 3
  ord : BitVec 2
  bulk : Bool
  imm : BitVec 21
deriving DecidableEq, Repr, Inhabited

/-- M form, RECSET and RECGET (R120, R323): word w of br. -/
structure OpsRecWord where
  g : Guard
  d : Reg
  br : RecIx
  fed : Bool
  w : BitVec 2
deriving DecidableEq, Repr, Inhabited

/-- M form as R121 redefines it: the atomics. -/
structure OpsAtom where
  g : Guard
  d : Reg
  a : Reg
  br : RecIx
  fea : Bool
  fed : Bool
  sz : BitVec 2
  scope : BitVec 3
  ord : BitVec 2
  uns : Bool
  v : Reg
  cmp : Reg
  imm : BitVec 9
deriving DecidableEq, Repr, Inhabited

/-- FENCE (R362). -/
structure OpsFence where
  g : Guard
  scope : BitVec 3
deriving DecidableEq, Repr, Inhabited

/-- X form, CPY and CPYM (R122). -/
structure OpsX where
  g : Guard
  src : RecIx
  dst : RecIx
  a : Reg
  b : Reg
  sb : SbIx
  conv : BitVec 5
  rnd : BitVec 2
  sat : Bool
deriving DecidableEq, Repr, Inhabited

/-- X form with an index record, CPYG and CPYS (R332). -/
structure OpsXi where
  g : Guard
  src : RecIx
  dst : RecIx
  a : Reg
  b : Reg
  sb : SbIx
  conv : BitVec 5
  rnd : BitVec 2
  sat : Bool
  idx : RecIx
deriving DecidableEq, Repr, Inhabited

/-- X form with an operator, CPYR (R333). -/
structure OpsXr where
  g : Guard
  src : RecIx
  dst : RecIx
  a : Reg
  b : Reg
  sb : SbIx
  conv : BitVec 5
  rnd : BitVec 2
  sat : Bool
  op : BitVec 4
deriving DecidableEq, Repr, Inhabited

/-- X form, FILL (R335). -/
structure OpsFill where
  g : Guard
  dst : RecIx
  a : Reg
  b : Reg
  sb : SbIx
deriving DecidableEq, Repr, Inhabited

/-- X form, PUBLISH (R336). -/
structure OpsPub where
  g : Guard
  dst : RecIx
  sb : SbIx
deriving DecidableEq, Repr, Inhabited

/-- X form, SCFG (R191) and SBIND (R339). -/
structure OpsCfg where
  g : Guard
  src : RecIx
  b : Reg
  sb : SbIx
deriving DecidableEq, Repr, Inhabited

/-- I form, TRAP and BKPT (R409). -/
structure OpsCode where
  g : Guard
  imm : BitVec 32
deriving DecidableEq, Repr, Inhabited


/-! ### Where an event acts -/

/-- An event of one core. -/
structure CoreAt where
  core : Nat
deriving DecidableEq, Repr, Inhabited

/-- An event of one task slot. -/
structure SlotAt where
  core : Nat
  slot : Nat
deriving DecidableEq, Repr, Inhabited

/-- An event of one numbered thing of a core: a transfer-unit command, an SCFG load, a continuation record, a channel, a clasp, or a matrix queue position, as the row says. -/
structure CmdAt where
  core : Nat
  ix : Nat
deriving DecidableEq, Repr, Inhabited

/-- An event of one outstanding request of a core, by its number. -/
structure ReqAt where
  core : Nat
  id : Nat
deriving DecidableEq, Repr, Inhabited

/-- The head command of domain d's COMMAND queue (R156). -/
structure DomAt where
  dom : Nat
deriving DecidableEq, Repr, Inhabited

/-- An event of one queue. -/
structure QueueAt where
  q : Nat
deriving DecidableEq, Repr, Inhabited

/-- A write of `v` to queue q's tail (R146). -/
structure TailAt where
  q : Nat
  v : Word
deriving DecidableEq, Repr, Inhabited

/-- A configuration image on a core: owner domain and VA[51:16] (R183). -/
structure ImageAt where
  core : Nat
  dom : Nat
  page : Nat
deriving DecidableEq, Repr, Inhabited

/-- An event of one region, by handle (R37). -/
structure RegionAt where
  core : Nat
  hdl : Nat
deriving DecidableEq, Repr, Inhabited

/-- An event of relative patch `patch` of a region. -/
structure PatchAt where
  core : Nat
  hdl : Nat
  patch : Nat
deriving DecidableEq, Repr, Inhabited

/-- A CU stage (R248). -/
structure StageAt where
  core : Nat
  hdl : Nat
  patch : Nat
  cu : Nat
  stage : Nat
deriving DecidableEq, Repr, Inhabited

/-- A CT operator slot (R262). -/
structure CtAt where
  core : Nat
  hdl : Nat
  patch : Nat
  k : Nat
deriving DecidableEq, Repr, Inhabited

/-- An address generator (R274). -/
structure AgAt where
  core : Nat
  hdl : Nat
  patch : Nat
  ag : Nat
deriving DecidableEq, Repr, Inhabited

/-- A memory unit (R280). -/
structure MuAt where
  core : Nat
  hdl : Nat
  patch : Nat
  mu : Nat
deriving DecidableEq, Repr, Inhabited

/-- A memory unit in FIFO mode and which of its two moves is made: taking a token on in0 or emitting one on out0. -/
structure MuPortAt where
  core : Nat
  hdl : Nat
  patch : Nat
  mu : Nat
  out : Bool
deriving DecidableEq, Repr, Inhabited

/-- A gang instance: launch identifier (R155) and instance index. -/
structure GangAt where
  launch : Nat
  inst : Nat
deriving DecidableEq, Repr, Inhabited

/-- A gang and the floor that the management plane sets, if it sets one (R440). -/
structure ThrottleAt where
  launch : Nat
  inst : Nat
  floor : Option Nat
deriving DecidableEq, Repr, Inhabited

/-- A table walk of a core at a VA (R100). -/
structure WalkAt where
  core : Nat
  va : Nat
deriving DecidableEq, Repr, Inhabited

/-- A node of the scale-up fabric. -/
structure NodeAt where
  node : Nat
deriving DecidableEq, Repr, Inhabited

/-- A seam or scale-up link, by number: 0 to 21 compute seams, 22 to 25 hem seams, 26 to 97 the scale-up ports (R23: eighteen to a
hem die). -/
structure LinkAt where
  link : Nat
deriving DecidableEq, Repr, Inhabited

/-- A link and whether its retraining succeeded (R420). -/
structure RetrainAt where
  link : Nat
  ok : Bool
  node : Nat
deriving DecidableEq, Repr, Inhabited

/-- The average input power of a 1 ms window, in watts (R439). -/
structure WindowAt where
  watts : Nat
deriving DecidableEq, Repr, Inhabited

/-- A die's largest sensor reading, in tenths of a degree Celsius (R441). -/
structure ThermalAt where
  die : Nat
  deci : Int
deriving DecidableEq, Repr, Inhabited

/-- A rail of a panel and its new voltage in millivolts (R438). -/
structure RailAt where
  die : Nat
  rail : Nat
  mv : Nat
deriving DecidableEq, Repr, Inhabited

/-- A shock on a hem die, in g (R452). -/
structure ShockAt where
  hem : Nat
  accel : Nat
deriving DecidableEq, Repr, Inhabited

/-- H1's count of reference ticks at a takeover (R449). -/
structure TakeoverAt where
  ticks : Nat
deriving DecidableEq, Repr, Inhabited

/-- An output port of a router (R341). -/
inductive RPort where
  | north | south | east | west | here
deriving DecidableEq, Repr, Inhabited

/-- An output port of a core's router (R343). -/
structure RouterAt where
  core : Nat
  out : RPort
deriving DecidableEq, Repr, Inhabited

/-- What powers off when idle (R176, R177). -/
inductive GateUnit where
  | patch (p : Nat) | cp | matrix | slice
deriving DecidableEq, Repr, Inhabited

/-- A unit of a core that may power off. -/
structure GateAt where
  core : Nat
  unit : GateUnit
deriving DecidableEq, Repr, Inhabited

/-- What the patrol scrubber found in the word it visits (R417). -/
inductive ScrubFind where
  | clean | corrected | uncorrectable
deriving DecidableEq, Repr, Inhabited

/-- A word the patrol scrubber visits (R417). -/
inductive ScrubWord where
  | memory (pa : Nat)
  | tile (core tile elem : Nat)
  | check (core tile elem : Nat)
  | frame (core patch : Nat) (shadow : Bool) (ix : Nat)
  | store (core dom page : Nat)
  | line (core dom line : Nat)
deriving DecidableEq, Repr, Inhabited

/-- One visit of the patrol scrubber. -/
structure ScrubAt where
  word : ScrubWord
  find : ScrubFind
deriving DecidableEq, Repr, Inhabited

/-- The unit of a patch that fires (R241). -/
inductive UnitId where
  | cu (c stage : Nat) | ct (k : Nat) | ag (a : Nat) | mu (m : Nat) | lx
deriving DecidableEq, Repr, Inhabited

/-- A unit of a region's relative patch. -/
structure UnitAt where
  core : Nat
  hdl : Nat
  patch : Nat
  unit : UnitId
deriving DecidableEq, Repr, Inhabited

/-- The read-modify-writes of Table 16-2. -/
inductive AtomOp where
  | add | min (uns : Bool) | max (uns : Bool) | and | or | xor | xchg | cas | inc | fadd | maxw
deriving DecidableEq, Repr, Inhabited

/-- What a host asks for (R143). -/
inductive HostOp where
  | load | store (data : List Byte) | atomic (op : AtomOp) (v cmp : Word)
deriving DecidableEq, Repr, Inhabited

/-- An access of a host that arrives at hem die `hem` (R143). -/
structure HostAccess where
  dom : Nat
  hem : Nat
  va : Nat
  size : Nat
  op : HostOp
  bulk : Bool
  tag : Nat
deriving DecidableEq, Repr, Inhabited

/-- The head SELFTEST command and what the tests found (R450): failing cores and hem dies, repaired lanes of each die, state of each stack. -/
structure TestAt where
  dom : Nat
  failCores : List Nat
  failHems : List Nat
  lanes : Tab Nat
  stackOk : Tab Nat
deriving DecidableEq, Repr, Inhabited

/-- Where the site's privileged handlers for c62 and c63 start on a core, and their priorities (R46, R446). -/
structure HandlerBind where
  entry62 : Nat
  prio62 : Nat
  entry63 : Nat
  prio63 : Nat
deriving DecidableEq, Repr, Inhabited

/-- What the management processor sets up for a domain it opens (R447): its cores, the physical address of its level-1 table, its COMMAND queue's descriptor, the bytes of the tables it builds and the VA at which they map themselves; whether the scheduler may pre-empt in it, the slice in stitches and the pool of save areas by VA (R421). -/
structure DomainPlan where
  dom : Nat
  cores : List Nat
  base : Nat
  command : BitVec 128
  tables : List (Nat × Byte)
  tableVa : Nat
  preempt : Bool
  slice : Nat
  pool : List Nat
deriving DecidableEq, Repr, Inhabited

/-- A signed firmware image (R35). -/
structure Signed where
  image : List Byte
  sig : List Byte
deriving DecidableEq, Repr, Inhabited

/-- The site's choices for a cold reset (R446): the firmware image in boot flash and H1's copy; the later boot stages (R453): the management
firmware, the cloak's microcode, the firmware of each hem die; node number, the handlers of every core and those of single cores instead, domains and the number of the
cores that are in none; the retransmission timer where the management plane sets one (R419); whether the HBM stacks have stayed powered (R445). -/
structure BringUp where
  firmware : Signed
  h1Firmware : Signed
  management : Signed
  cloak : List Byte
  hems : List Signed
  node : Nat
  handler : HandlerBind
  handlers : Tab HandlerBind
  unassigned : Nat
  domains : List DomainPlan
  selftest : TestAt
  resend : Option Nat
  kept : Bool
deriving DecidableEq, Repr, Inhabited

/-- The opcode table. -/
inductive Instr where
  /-- R214. Has no effect and issues the next word. -/
  | nop (o : OpsG)
  /-- R205. Writes gA + gB to gD. -/
  | add (o : OpsDAB)
  /-- R205. Writes gA - gB to gD. -/
  | sub (o : OpsDAB)
  /-- R205. Writes the low 64 bits of gA x gB to gD. -/
  | mul (o : OpsDAB)
  /-- R205. Writes the high 64 bits of the signed or unsigned 128-bit product to gD. -/
  | mulh (o : OpsDABu)
  /-- R206. Writes the quotient to gD, rounded towards zero, with defined results for zero and overflow divisors. -/
  | div (o : OpsDABu)
  /-- R206. Writes the remainder to gD, taking the sign of the dividend. -/
  | rem (o : OpsDABu)
  /-- R205. Writes gA & gB to gD. -/
  | and (o : OpsDAB)
  /-- R205. Writes gA | gB to gD. -/
  | or (o : OpsDAB)
  /-- R205. Writes gA ^ gB to gD. -/
  | xor (o : OpsDAB)
  /-- R205. Writes gA & ~gB to gD. -/
  | andn (o : OpsDAB)
  /-- R205. Shifts gA left by gB[5:0]. -/
  | shl (o : OpsDAB)
  /-- R205. Shifts gA right logically by gB[5:0]. -/
  | shr (o : OpsDAB)
  /-- R205. Shifts gA right arithmetically by gB[5:0]. -/
  | sar (o : OpsDAB)
  /-- R205. Rotates gA left by gB[5:0]. -/
  | rotl (o : OpsDAB)
  /-- R205. Writes the smaller of gA and gB, signed or unsigned, to gD. -/
  | min (o : OpsDABu)
  /-- R205. Writes the larger of gA and gB, signed or unsigned, to gD. -/
  | max (o : OpsDABu)
  /-- R205. Counts the leading zero bits of gA. -/
  | clz (o : OpsDA)
  /-- R205. Counts the trailing zero bits of gA. -/
  | ctz (o : OpsDA)
  /-- R205. Counts the set bits of gA. -/
  | popc (o : OpsDA)
  /-- R207. Extracts an unsigned field of gA described by gB. -/
  | bext (o : OpsDAB)
  /-- R207. Inserts a field from gB into gA at the position and width that gC describes. -/
  | bins (o : OpsDABC)
  /-- R207. Extracts a sign-extended field of gA described by gB. -/
  | ext (o : OpsDAB)
  /-- R208. Writes gA or gB to gD according to a predicate test. -/
  | sel (o : OpsSel)
  /-- R205. Writes the low 64 bits of gA x gB + gC to gD. -/
  | mad (o : OpsDABC)
  /-- R209. Writes gA plus a sign-extended immediate to gD. -/
  | addi (o : OpsImm)
  /-- R209. Writes gA ANDed with a sign-extended immediate to gD. -/
  | andi (o : OpsImm)
  /-- R209. Writes gA ORed with a sign-extended immediate to gD. -/
  | ori (o : OpsImm)
  /-- R209. Writes gA XORed with a sign-extended immediate to gD. -/
  | xori (o : OpsImm)
  /-- R209. Shifts gA left by an immediate. -/
  | shli (o : OpsImm)
  /-- R209. Shifts gA right logically by an immediate. -/
  | shri (o : OpsImm)
  /-- R209. Shifts gA right arithmetically by an immediate. -/
  | sari (o : OpsImm)
  /-- R209. Writes the low 64 bits of gA times a sign-extended immediate to gD. -/
  | muli (o : OpsImm)
  /-- R210. Writes a sign-extended 46-bit immediate to gD. -/
  | movi (o : OpsMovi)
  /-- R210. Writes bits [63:46] of gD from an immediate and keeps the low bits. -/
  | movhi (o : OpsMovhi)
  /-- R212. Writes a predicate from a condition comparing gA with gB. -/
  | cmp (o : OpsCmp)
  /-- R212. Writes a predicate from a condition comparing gA with an immediate. -/
  | cmpi (o : OpsCmpi)
  /-- R213. Writes the AND of two predicates. -/
  | pand (o : OpsPred2)
  /-- R213. Writes the OR of two predicates. -/
  | por (o : OpsPred2)
  /-- R213. Writes the XOR of two predicates. -/
  | pxor (o : OpsPred2)
  /-- R213. Writes the negation of a predicate. -/
  | pnot (o : OpsPred1)
  /-- R213. Copies one predicate to another. -/
  | pmov (o : OpsPred1)
  /-- R214. Branches to a PC-relative target when its guard holds. -/
  | br (o : OpsBr)
  /-- R214. Writes a link address to gD and jumps to a PC-relative target. -/
  | jal (o : OpsJal)
  /-- R215. Jumps to the address in gA, after alignment and range checks. -/
  | jr (o : OpsA)
  /-- R217. Pushes a hardware loop whose count comes from a register, or skips the body when the count is 0. -/
  | loop (o : OpsLoop)
  /-- R217. Pushes a hardware loop whose count is an immediate, or skips the body when the count is 0. -/
  | loopi (o : OpsLoopi)
  /-- R219. Pops the top loop entry and continues after its end. -/
  | lbrk (o : OpsG)
  /-- R221. Ends the task and frees its slot. -/
  | endTask (o : OpsG)
  /-- R222. Sends a 56-byte message to a channel of a core, stalling until it is accepted or rejected. -/
  | send (o : OpsAB)
  /-- R223. Checks its conditions, ends the task and creates a continuation record. -/
  | wait (o : OpsWait)
  /-- R224. Asks the queue's hem die for the head entry and returns the payload or an empty or closed status. -/
  | popFail (o : OpsPopF)
  /-- R224. Ends the task with a continuation that is posted when an entry is taken or the queue is closed and drained. -/
  | popBlock (o : OpsPopB)
  /-- R225. Reserves an index, writes the payload, releases the sequence word and advances the tail. -/
  | push (o : OpsAB)
  /-- R227. Compares gA with 0, or checkpoints the slot and speculates while gA is empty. -/
  | spec (o : OpsSpec)
  /-- R229. When gA fills, commits the queued stores or restores the checkpoint and branches to the target. -/
  | specResolve (o : SlotAt)
  /-- R233. Reads a special register into gD. -/
  | mfs (o : OpsMfs)
  /-- R233. Writes a special register that has no behaviour of its own. -/
  | mts (o : OpsMts)
  /-- R48. Writes a channel binding word. Rewritten bindings apply at the next dispatch, and clearing valid discards pending messages. -/
  | mtsChbind (o : OpsAB)
  /-- R84. Clears sticky conversion status bits by W1C. -/
  | mtsCvstat (o : OpsA)
  /-- R174. Writes rail selection and sgate. The rail changes at the next stitch, and clearing sgate retires once the slice is powered. -/
  | mtsRailsel (o : OpsA)
  /-- R349. Sets the HBM byte budgets from the next stitch and clears the held count. -/
  | mtsBudget (o : OpsA)
  /-- R352. Sets the issue-permit refill rates from the next stitch. -/
  | mtsPermits (o : OpsA)
  /-- R283. Writes a clasp register between two deliveries of its arc, with hit as W1C. -/
  | mtsClasp (o : OpsMtsClasp)
  /-- R408. Rewrites a handler's EPC, which redirects the resumption of a kind-0 subject. -/
  | mtsEpc (o : OpsA)
  /-- R320. Loads 1 to 8 bytes through a buffer record into gD, zero-extended. -/
  | ld (o : OpsMem)
  /-- R320. Stores 1 to 8 bytes of gD through a buffer record. -/
  | st (o : OpsMem)
  /-- R320. Loads 16 bytes into a register pair. -/
  | ldp (o : OpsMem)
  /-- R320. Stores a register pair as 16 bytes. -/
  | stp (o : OpsMem)
  /-- R322. Loads a whole 256-bit buffer record from 32 bytes of memory. -/
  | recld (o : OpsRecMem)
  /-- R322. Stores a whole buffer record to 32 bytes of memory. -/
  | recst (o : OpsRecMem)
  /-- R323. Writes one 64-bit word of a buffer record from gD. -/
  | recset (o : OpsRecWord)
  /-- R323. Reads one 64-bit word of a buffer record into gD. -/
  | recget (o : OpsRecWord)
  /-- R365. Atomically adds gV at the home and returns the old value. -/
  | aadd (o : OpsAtom)
  /-- R365. Atomic signed or unsigned minimum. -/
  | amin (o : OpsAtom)
  /-- R365. Atomic signed or unsigned maximum. -/
  | amax (o : OpsAtom)
  /-- R365. Atomic bitwise AND. -/
  | aand (o : OpsAtom)
  /-- R365. Atomic bitwise OR. -/
  | aor (o : OpsAtom)
  /-- R365. Atomic bitwise XOR. -/
  | axor (o : OpsAtom)
  /-- R365. Atomic exchange. -/
  | axchg (o : OpsAtom)
  /-- R365. Atomic compare-and-swap. -/
  | acas (o : OpsAtom)
  /-- R365. Atomic increment by one. -/
  | ainc (o : OpsAtom)
  /-- R365. Atomic FP32 add rounded under RNE. -/
  | afadd (o : OpsAtom)
  /-- R365. Atomic monotonic-maximum write with wrapping comparison. -/
  | amaxw (o : OpsAtom)
  /-- R362. Acts as a release and acquire point at its scope and retires once earlier accesses are performed. -/
  | fence (o : OpsFence)
  /-- R363. Drains the slot's accesses and then waits two stitches, which gives a total order of fences. -/
  | scfence (o : OpsG)
  /-- R374. Writes a whole barrier word indivisibly at its home. -/
  | binit (o : OpsABC)
  /-- R375. Arrives once at a barrier word and may complete its phase. -/
  | barv (o : OpsDA)
  /-- R376. Adds to a barrier word's pending-sector count. -/
  | bexp (o : OpsAB)
  /-- R377. Reads one 64-bit half of a barrier word. -/
  | brd (o : OpsDA)
  /-- R326. Copies the elements of a source record to a destination record, with conversion. -/
  | cpy (o : OpsX)
  /-- R332. Gathers source elements at the indices of an index record. -/
  | cpyg (o : OpsXi)
  /-- R332. Scatters source elements to the indices of an index record. -/
  | cpys (o : OpsXi)
  /-- R333. Combines source elements into destination elements by read-modify-write. -/
  | cpyr (o : OpsXr)
  /-- R334. Reads the source once and writes several copies. -/
  | cpym (o : OpsX)
  /-- R335. Writes a byte pattern over the destination shape. -/
  | fill (o : OpsFill)
  /-- R336. Issues a swap of face and lining for a lining id. -/
  | publish (o : OpsPub)
  /-- R336. At the hem die, after the slot's earlier operations are performed, inverts fl and updates the translation buffers as a SYSTEM release. -/
  | publishSwap (o : CmdAt)
  /-- R191. Loads a configuration from an image into a region's shadow banks. -/
  | scfg (o : OpsCfg)
  /-- R191. An SCFG load finishes: it marks the shadow banks override or reports a failure, and decrements sb. -/
  | scfgLoadDone (o : CmdAt)
  /-- R192. Releases a held region, or restarts a done one. -/
  | sgo (o : OpsDA)
  /-- R192. Forces a region step, discarding the tokens left on its arcs. -/
  | snext (o : OpsDA)
  /-- R192. Settles a region and makes it done with status 1. -/
  | sstop (o : OpsDA)
  /-- R339. Binds a record and a scoreboard counter to an AG of a region. -/
  | sbind (o : OpsCfg)
  /-- R340. Stalls the slot until every named scoreboard counter is 0. -/
  | sbar (o : OpsA)
  /-- R306. Checks a matrix token from two registers and sends it into the engine queue. -/
  | mtok (o : OpsAB)
  /-- R409. Suspends the slot with a TRAP record posted to c62. -/
  | trap (o : OpsCode)
  /-- R409. Suspends the slot with a BKPT record posted to c63. -/
  | bkpt (o : OpsCode)
  /-- R407. Resumes or retries the handler's subject, frees the record and ends the handler. -/
  | eretResume (o : OpsG)
  /-- R407. Skips or discards the handler's subject, frees the record and ends the handler. -/
  | eretSkip (o : OpsG)
  /-- R412. Drains the slot, removes a range of translations and waits for the accesses that used them. -/
  | tlbinv (o : OpsAB)
  /-- R410. Exchanges a clasp register between deliveries on its arc. -/
  | clasp (o : OpsDAB)
  /-- R428. Halts and saves a gang instance to a save area. -/
  | save (o : OpsDABC)
  /-- R428. Reinstates a saved gang on its target cores and resumes it. -/
  | restore (o : OpsDA)
  /-- R200. A reply arrives and fills its destination register, possibly poisoned. -/
  | replyFill (o : ReqAt)
  /-- R195. An instruction-buffer miss is filled through translation, or traps at the word. -/
  | ifetchLine (o : SlotAt)
  /-- R156. A command that writes a queue descriptor and resets its control line. -/
  | qdesc (o : DomAt)
  /-- R156. A command that writes a lining descriptor. -/
  | ldesc (o : DomAt)
  /-- R156. A command that resets a queue's head, tail and reservation, and clears closed and faulted. -/
  | qreset (o : DomAt)
  /-- R156. A command that stops every instance of a launch, or marks a launch not yet dispensed. -/
  | lkill (o : DomAt)
  /-- R156. A command that removes every translation of a domain. -/
  | xinv (o : DomAt)
  /-- R450. A command that runs the self-test and writes a signed health report. -/
  | selftest (o : TestAt)
  /-- R450. A command that writes a signed attestation report holding a nonce. -/
  | attest (o : DomAt)
  /-- R143. A host access arrives at a hem die and is translated, checked and performed, or answered with a cause. -/
  | hostAccess (o : HostAccess)
  /-- R146. A write to a queue's tail is applied only when it advances the tail by the monotonic comparison. -/
  | tailWrite (o : TailAt)
  /-- R145. Writing 1 to closed ends the queue. -/
  | queueClose (o : QueueAt)
  /-- R148. The controller acquires a published head entry below the tail, dispenses it and advances head. -/
  | queueDispense (o : QueueAt)
  /-- R148. At least once per stitch, the controller rereads an unpublished head entry. -/
  | queueReread (o : QueueAt)
  /-- R153. After each completion advance, and at least once per stitch, rereads unsatisfied await counters. -/
  | awaitReread (o : QueueAt)
  /-- R160. Chooses an eligible LAUNCH queue by priority and weighted round-robin, and tries to place its next instance. -/
  | schedulerDecision
  /-- R169. A moved region's state has been copied, its power switched, and it resumes. -/
  | compactionMoveDone (o : RegionAt)
  /-- R183. A non-resident image has been fetched and checked, and is marked resident or reported malformed. -/
  | imageFetchDone (o : ImageAt)
  /-- R185. The preloader fills a shadow bank and marks it valid. -/
  | preloadDone (o : RegionAt)
  /-- R52. Chooses a pending message by c63 precedence, priority, ageing and rotation, and dispatches it into a free slot. -/
  | dispatch (o : CoreAt)
  /-- R56. A continuation whose condition holds posts its message with the kept registers. -/
  | continuationPost (o : CmdAt)
  /-- R57. A WAIT continuation's timeout expires and its message is posted with g7 = 1. -/
  | waitTimeout (o : CmdAt)
  /-- R49. A timer-source period expires and posts a message. -/
  | timerSource (o : CmdAt)
  /-- R42. A gang instance with no remaining work ends, and its resources are freed. -/
  | gangEnd (o : GangAt)
  /-- R241. A unit whose inputs hold tokens and whose outputs have room consumes and produces tokens in one step. -/
  | firing (o : UnitAt)
  /-- R255. Cell outputs A. -/
  | pass (o : StageAt)
  /-- R255. Cell outputs the immediate. -/
  | const (o : StageAt)
  /-- R255. Cell integer add. -/
  | iadd (o : StageAt)
  /-- R255. Cell integer subtract. -/
  | isub (o : StageAt)
  /-- R255. Cell add with carry in and carry out. -/
  | iaddc (o : StageAt)
  /-- R255. Cell subtract with borrow. -/
  | isubb (o : StageAt)
  /-- R255. Cell low multiply. -/
  | imul (o : StageAt)
  /-- R255. Cell signed high multiply. -/
  | imulh (o : StageAt)
  /-- R255. Cell multiply-accumulate with carry. -/
  | imacc (o : StageAt)
  /-- R255. Cell multiply plus the hold register. -/
  | imad (o : StageAt)
  /-- R255. Cell bitwise AND. -/
  | iand (o : StageAt)
  /-- R255. Cell bitwise OR. -/
  | ior (o : StageAt)
  /-- R255. Cell bitwise XOR. -/
  | ixor (o : StageAt)
  /-- R255. Cell left shift. -/
  | ishl (o : StageAt)
  /-- R255. Cell logical right shift. -/
  | ishr (o : StageAt)
  /-- R255. Cell arithmetic right shift. -/
  | isar (o : StageAt)
  /-- R255. Cell signed minimum. -/
  | imin (o : StageAt)
  /-- R255. Cell signed maximum. -/
  | imax (o : StageAt)
  /-- R255. Cell unsigned minimum. -/
  | iminu (o : StageAt)
  /-- R255. Cell unsigned maximum. -/
  | imaxu (o : StageAt)
  /-- R255. Cell signed less-than compare. -/
  | icmp (o : StageAt)
  /-- R255. Cell select on h0. -/
  | isel (o : StageAt)
  /-- R255. Cell four-way signed byte dot product plus the hold register. -/
  | dot4 (o : StageAt)
  /-- R255. Cell absolute value. -/
  | iabs (o : StageAt)
  /-- R255. Cell population count. -/
  | ipopc (o : StageAt)
  /-- R255. Cell leading-zero count. -/
  | iclz (o : StageAt)
  /-- R256. Cell FP32 add. -/
  | fadd (o : StageAt)
  /-- R256. Cell FP32 subtract. -/
  | fsub (o : StageAt)
  /-- R256. Cell FP32 multiply. -/
  | fmul (o : StageAt)
  /-- R256. Cell FP32 fused multiply-add with the hold register. -/
  | ffma (o : StageAt)
  /-- R256. Cell FP32 minimum. -/
  | fmin (o : StageAt)
  /-- R256. Cell FP32 maximum. -/
  | fmax (o : StageAt)
  /-- R256. Cell FP32 less-than compare. -/
  | fcmp (o : StageAt)
  /-- R256. Cell select on h0, with no bits changed. -/
  | fsel (o : StageAt)
  /-- R256. Cell exact FP32 truncated remainder. -/
  | fmod (o : StageAt)
  /-- R257. Cell BF16 pair add. -/
  | hadd2 (o : StageAt)
  /-- R257. Cell BF16 pair multiply. -/
  | hmul2 (o : StageAt)
  /-- R257. Cell BF16 pair fused multiply-add. -/
  | hfma2 (o : StageAt)
  /-- R257. Cell BF16 pair maximum. -/
  | hmax2 (o : StageAt)
  /-- R257. Cell BF16 pair dot product into FP32. -/
  | hdot2 (o : StageAt)
  /-- R258. Cell INT32 to FP32 conversion. -/
  | cvtif (o : StageAt)
  /-- R258. Cell FP32 to INT32 conversion. -/
  | cvtfi (o : StageAt)
  /-- R258. Cell FP32 pair to BF16 pair conversion. -/
  | cvtfh (o : StageAt)
  /-- R258. Cell BF16 to FP32 conversion. -/
  | cvthf (o : StageAt)
  /-- R259. Cell reciprocal, correctly rounded. -/
  | rcp (o : StageAt)
  /-- R259. Cell reciprocal square root. -/
  | rsq (o : StageAt)
  /-- R259. Cell square root. -/
  | sqrt (o : StageAt)
  /-- R259. Cell base-2 exponential. -/
  | exp2 (o : StageAt)
  /-- R259. Cell base-2 logarithm. -/
  | log2 (o : StageAt)
  /-- R260. Cross-lane shuffle left. -/
  | shufl (o : StageAt)
  /-- R260. Cross-lane shuffle right. -/
  | shufr (o : StageAt)
  /-- R260. Cross-lane broadcast. -/
  | bcast (o : StageAt)
  /-- R260. Cross-lane integer sum. -/
  | xadd (o : StageAt)
  /-- R260. Cross-lane signed maximum. -/
  | xmax (o : StageAt)
  /-- R260. Cross-lane FP32 left-fold sum. -/
  | xfadd (o : StageAt)
  /-- R261. Loads the hold register. -/
  | hld (o : StageAt)
  /-- R261. Integer accumulate into the hold register. -/
  | hacc (o : StageAt)
  /-- R261. FP32 accumulate into the hold register. -/
  | hfacc (o : StageAt)
  /-- R261. Outputs the hold register and clears it. -/
  | hout (o : StageAt)
  /-- R264. CT operator that routes data to a true or false output. -/
  | steer (o : CtAt)
  /-- R265. CT operator that takes from the true or false input by control. -/
  | merge (o : CtAt)
  /-- R266. CT loop-carry operator with INIT and LOOP states. -/
  | carry (o : CtAt)
  /-- R267. CT operator that passes or drops data by control. -/
  | gate (o : CtAt)
  /-- R268. CT operator that consumes tokens and emits done on markers. -/
  | sink (o : CtAt)
  /-- R269. CT operator that emits runs of scalar index values. -/
  | count (o : CtAt)
  /-- R270. CT operator that evaluates a lookup table on its control inputs. -/
  | lut4 (o : CtAt)
  /-- R271. CT operator that emits a data token n times. -/
  | repeatOp (o : CtAt)
  /-- R272. CT controller that runs its child N times sequentially. -/
  | seq (o : CtAt)
  /-- R272. CT controller that runs its child with a window of w iterations. -/
  | pipe (o : CtAt)
  /-- R272. CT controller that emits N enables without waiting. -/
  | stream (o : CtAt)
  /-- R308. CT operator that emits a run of matrix tokens from a template. -/
  | mseq (o : CtAt)
  /-- R274. An AG starts a walk, taking its record copy. -/
  | agWalkStart (o : AgAt)
  /-- R276. An AG emits a read token, in walk order, once its replies arrive. -/
  | agReadToken (o : AgAt)
  /-- R278. An AG consumes a data token and writes its valid elements. -/
  | agWrite (o : AgAt)
  /-- R278. Once every write of a walk is performed, a write AG emits its EOS done token. -/
  | agWriteDone (o : AgAt)
  /-- R281. An MU in FIFO mode queues and emits tokens. -/
  | muFifo (o : MuPortAt)
  /-- R281. An MU in TABLE mode replaces index lanes with table elements. -/
  | muTable (o : MuAt)
  /-- R389. Adds each lane's contribution to its window and emits the window results. -/
  | waccPush (o : MuAt)
  /-- R392. Reports each lane's window result without changing it. -/
  | waccQuery (o : MuAt)
  /-- R391. Handles END, EOS or WSET on the push input, possibly clearing windows or setting W. -/
  | waccMarker (o : MuAt)
  /-- R310. Reads accumulator tile rows from one tile state and emits them as vector tokens. -/
  | accrRequest (o : MuAt)
  /-- R315. An LX converts an element stream by its conversion code. -/
  | lxConvert (o : PatchAt)
  /-- R316. An LX relayouts DB blocks between dense and planed layout. -/
  | lxPlane (o : PatchAt)
  /-- R283. A clasped arc delivers a token while budget is above 0, or holds it. -/
  | claspDelivery (o : CmdAt)
  /-- R187. Once the region is quiescent and its shadow banks are ready, every patch swaps and CFGPC advances. -/
  | configStep (o : RegionAt)
  /-- R188. A patch whose inputs have taken EOS and whose arcs are drained swaps on its own. -/
  | rollingSwap (o : PatchAt)
  /-- R290. After its accesses are performed, a finished region posts its region-done message. -/
  | regionDone (o : RegionAt)
  /-- R294. The engine accepts a token from a source round-robin, copies its records and counts sb. -/
  | matrixAccept (o : CoreAt)
  /-- R307. A token arriving on mx.0 is checked and offered for acceptance, or a marker is forwarded to mx.1. -/
  | mxPinToken (o : PatchAt)
  /-- R302. Accumulates A x B into tiles in ascending k-groups. -/
  | mma (o : CmdAt)
  /-- R302. Zeroes tiles, then accumulates as MMA. -/
  | mmaz (o : CmdAt)
  /-- R303. Sets tiles to +0, plain, with applied 0. -/
  | mzero (o : CmdAt)
  /-- R304. Compares redundant tiles and writes converted tile rows through a record. -/
  | mdrain (o : CmdAt)
  /-- R302. Accumulates in redundant mode on both halves. -/
  | mmar (o : CmdAt)
  /-- R302. Zeroes tiles, then accumulates in redundant mode. -/
  | mmarz (o : CmdAt)
  /-- R295. A token completes, decrements sb and emits its done on mx.1. -/
  | matrixTokenComplete (o : CmdAt)
  /-- R330. A transfer-unit sector is performed, then decrements its barrier's sect as a release. -/
  | xuSectorWrite (o : CmdAt)
  /-- R325. A command's writes, decrements and status are done, so sb is decremented. -/
  | xuCommandComplete (o : CmdAt)
  /-- R383. A read held at a collar slot proceeds as an acquire once sect reaches 0. -/
  | collarReadRelease (o : ReqAt)
  /-- R100. A table walk completes and delivers a translation or fault to each merged access. -/
  | translationWalkDone (o : WalkAt)
  /-- R343. An output port arbitrates among head flits by promotion, VC credit and input rotation. -/
  | routerRound (o : RouterAt)
  /-- R347. Every 256 stitches, every buffered flit moves one link along a fixed cycle. -/
  | periodicDrain
  /-- R5. The stitch generator emits an 80 ns heartbeat and STITCH advances. -/
  | stitch
  /-- R352. At a stitch boundary, the issue-permit counters are refilled to their scaled rates. -/
  | permitRefill (o : CoreAt)
  /-- R349. At a stitch boundary, the HBM arbiters reset each core's byte budgets. -/
  | budgetReload (o : CoreAt)
  /-- R175. A gang's throttle level changes at a named stitch on every member. -/
  | throttleChange (o : ThrottleAt)
  /-- R176. A unit idle for 64 stitches powers off. -/
  | powerGate (o : GateAt)
  /-- R414. A region idle with nothing outstanding reaches the WDOG limit and faults. -/
  | watchdog (o : RegionAt)
  /-- R415. A request's timeout expires and the request is abandoned at the issuer. -/
  | memto (o : ReqAt)
  /-- R418. A gateway or home core drops a packet from another domain and NACKs it. -/
  | domainNack (o : ReqAt)
  /-- R419. A remote request unanswered after the retransmission timer is sent again. -/
  | retransmit (o : ReqAt)
  /-- R419. The management plane declares a node unreachable and cores receive LINK reports. -/
  | nodeUnreachable (o : NodeAt)
  /-- R420. A seam or link retrains with its traffic held and counters paused. -/
  | linkRetrain (o : LinkAt)
  /-- R417. Scrubbing visits a word and corrects a single-bit error, or poisons an uncorrectable one. -/
  | patrolScrub (o : ScrubAt)
  /-- R421. The scheduler pre-empts a low-priority gang that has overrun its slice. -/
  | schedulerPreempt (o : QueueAt)
  /-- R421. The management plane commands a gang's pre-emption. -/
  | mgmtPreempt (o : GangAt)
  /-- R424. Once writes are performed and replies logged, the log is sealed and the area written. -/
  | logSeal (o : GangAt)
  /-- R444. The input falls below 40 V and the module withholds every acknowledgement. -/
  | holdEntry
  /-- R445. The input stays at or above 44 V for 100 us and work resumes. -/
  | holdRecovery
  /-- R432. After 20 ms of HOLD, the cloak saves every resident gang to its domain's pool. -/
  | emergencySave
  /-- R445. The input falls below 30 V and the module stops. -/
  | powerLoss
  /-- R439. A 1 ms power average updates pl, or trips the module. -/
  | powerWindow (o : WindowAt)
  /-- R441. A die's sensor crosses a threshold and its thermal level changes after the 200 us interval. -/
  | thermalChange (o : ThermalAt)
  /-- R441. At 115 C, the die enters HOLD, runs the emergency save and turns off its rails. -/
  | thermalTrip (o : ThermalAt)
  /-- R438. The management plane sets a rail voltage, which ramps at up to 10 mV per us. -/
  | railSet (o : RailAt)
  /-- R446. Verifies firmware, trains links, sets domains and handlers, and opens the COMMAND queues. -/
  | coldReset (o : BringUp)
  /-- R448. Ends every gang and resets the special registers, with stated exceptions. -/
  | warmReset
  /-- R449. H1 misses four stitches, takes over the stitch generator and the management duties. -/
  | h1Takeover (o : TakeoverAt)
  /-- R452. A shock above 50 g is logged persistently. -/
  | shockEvent (o : ShockAt)
  /-- R356. A request or message packet arrives at its home (owning MU, HBM arbiter, hem die, remote module or target channel) and is performed or accepted there in its coherence order. -/
  | performedAtHome (o : ReqAt)
  /-- R420. A seam or scale-up link finishes retraining, releases its held traffic and restarts the paused counters, or falls back to lane repair or an unreachable node. -/
  | retrainingComplete (o : RetrainAt)
  /-- R421. The scheduler restores a gang it pre-empted onto the same cores once those cores are next free. -/
  | schedulerRestore (o : GangAt)
deriving DecidableEq, Repr

end Sys2Proof
end

