-- ==== Sys2Proof/WellFormed.lean ====
section
/-! DEFINITION. What a term of the syntax must satisfy to stand for a word or an event: the ranges of Table 5-21 for the control
processor's words, the ranges of the places for the other rows. -/

namespace Sys2Proof

/-- R115: guard 0b1000 is reserved. -/
def Guard.wf (g : Guard) : Bool := !(g.neg && g.p == 0)

/-- R123: kind 0 (NONE) is to hold register 0. -/
def WCond.wf (c : WCond) : Bool := c.kind != 0 || c.reg == 0

/-- R321: loads admit .RLX and .ACQ. -/
def loadOrder (o : BitVec 2) : Bool := o == 0 || o == 1

/-- R321: stores admit .RLX and .REL. -/
def storeOrder (o : BitVec 2) : Bool := o == 0 || o == 2

/-- Table 5-9: scope codes 6 and 7 are reserved. -/
def scopeOk (s : BitVec 3) : Bool := s.toNat ≤ 5

/-- R138: the conversion codes of Table 5-19, and 0 for none. -/
def convOk (c : BitVec 5) : Bool := c != 0x0F && c != 0x16 && c != 0x17 && c != 0x1E

/-- The numbers of MTS that have a row of their own (Table 9-4). -/
def ownMtsRow (n : BitVec 9) : Bool :=
  n == 0x00B || n == 0x101 || n == 0x107 || n == 0x108 || n == 0x109 || n == 0x10A || n.extractLsb' 3 6 == 0x22

def OpsG.wf (o : OpsG) : Bool := o.g.wf
def OpsDAB.wf (o : OpsDAB) : Bool := o.g.wf
def OpsDABu.wf (o : OpsDABu) : Bool := o.g.wf
def OpsDABC.wf (o : OpsDABC) : Bool := o.g.wf
def OpsABC.wf (o : OpsABC) : Bool := o.g.wf
def OpsDA.wf (o : OpsDA) : Bool := o.g.wf
def OpsAB.wf (o : OpsAB) : Bool := o.g.wf
def OpsA.wf (o : OpsA) : Bool := o.g.wf
def OpsSel.wf (o : OpsSel) : Bool := o.g.wf
def OpsImm.wf (o : OpsImm) : Bool := o.g.wf
def OpsMovi.wf (o : OpsMovi) : Bool := o.g.wf
def OpsMovhi.wf (o : OpsMovhi) : Bool := o.g.wf
def OpsPred2.wf (o : OpsPred2) : Bool := o.g.wf
def OpsPred1.wf (o : OpsPred1) : Bool := o.g.wf
def OpsBr.wf (o : OpsBr) : Bool := o.g.wf
def OpsJal.wf (o : OpsJal) : Bool := o.g.wf
def OpsLoop.wf (o : OpsLoop) : Bool := o.g.wf
def OpsLoopi.wf (o : OpsLoopi) : Bool := o.g.wf
def OpsPopF.wf (o : OpsPopF) : Bool := o.g.wf
def OpsPopB.wf (o : OpsPopB) : Bool := o.g.wf
def OpsMtsClasp.wf (o : OpsMtsClasp) : Bool := o.g.wf
def OpsRecWord.wf (o : OpsRecWord) : Bool := o.g.wf
def OpsFill.wf (o : OpsFill) : Bool := o.g.wf
def OpsPub.wf (o : OpsPub) : Bool := o.g.wf
def OpsCfg.wf (o : OpsCfg) : Bool := o.g.wf
def OpsCode.wf (o : OpsCode) : Bool := o.g.wf
/-- R125: codes 10 to 15 are reserved. -/
def OpsCmp.wf (o : OpsCmp) : Bool := o.g.wf && o.cond.toNat ≤ 9
def OpsCmpi.wf (o : OpsCmpi) : Bool := o.g.wf && o.cond.toNat ≤ 9
/-- R125: SPEC admits codes 0 to 5. -/
def OpsSpec.wf (o : OpsSpec) : Bool := o.g.wf && o.cond.toNat ≤ 5
def OpsWait.wf (o : OpsWait) : Bool := o.g.wf && o.c0.wf && o.c1.wf && o.c2.wf && o.c3.wf
/-- Table 5-5: MFS reads a register for CHBIND only. -/
def OpsMfs.wf (o : OpsMfs) : Bool := o.g.wf && (o.n == 0x107 || (o.a == 0 && !o.fea))
def OpsMts.wf (o : OpsMts) : Bool := o.g.wf && !ownMtsRow o.n
def OpsMem.wf (o : OpsMem) : Bool := o.g.wf && scopeOk o.scope
/-- R120: LDP and STP have an even d and sz 3. -/
def OpsMem.pair (o : OpsMem) : Bool := o.d.toNat % 2 == 0 && o.sz == 3
def OpsRecMem.wf (o : OpsRecMem) : Bool := o.g.wf && scopeOk o.scope
/-- R121: sz is to be 2 or 3. -/
def OpsAtom.wf (o : OpsAtom) : Bool := o.g.wf && scopeOk o.scope && 2 ≤ o.sz.toNat
/-- R365: no sign and no compare register. -/
def OpsAtom.plain (o : OpsAtom) : Bool := !o.uns && o.cmp == 0
def OpsFence.wf (o : OpsFence) : Bool := o.g.wf && scopeOk o.scope
def OpsX.wf (o : OpsX) : Bool := o.g.wf && convOk o.conv
def OpsXi.wf (o : OpsXi) : Bool := o.g.wf && convOk o.conv
/-- R333: operator codes 8 to 15 are reserved. -/
def OpsXr.wf (o : OpsXr) : Bool := o.g.wf && convOk o.conv && o.op.toNat ≤ 7

/-- R19: core numbers. -/
def coreOk (c : Nat) : Bool := c < Config.numCores
/-- R37, R25: region handles and patches. -/
def patchOk (p : Nat) : Bool := p < 8

def CoreAt.wf (o : CoreAt) : Bool := coreOk o.core
def SlotAt.wf (o : SlotAt) : Bool := coreOk o.core && o.slot < Config.numSlots
def CmdAt.wf (o : CmdAt) : Bool := coreOk o.core
def ReqAt.wf (o : ReqAt) : Bool := coreOk o.core
def DomAt.wf (o : DomAt) : Bool := o.dom < 16
def QueueAt.wf (o : QueueAt) : Bool := o.q < 65536
def TailAt.wf (o : TailAt) : Bool := o.q < 65536
def ImageAt.wf (o : ImageAt) : Bool := coreOk o.core && o.dom < 16
def RegionAt.wf (o : RegionAt) : Bool := coreOk o.core && patchOk o.hdl
def PatchAt.wf (o : PatchAt) : Bool := coreOk o.core && patchOk o.hdl && patchOk o.patch
/-- R248: four CUs of six stages. -/
def StageAt.wf (o : StageAt) : Bool := coreOk o.core && patchOk o.hdl && patchOk o.patch && o.cu < 4 && o.stage < 6
def CtAt.wf (o : CtAt) : Bool := coreOk o.core && patchOk o.hdl && patchOk o.patch && o.k < 4
def AgAt.wf (o : AgAt) : Bool := coreOk o.core && patchOk o.hdl && patchOk o.patch && o.ag < 2
def MuAt.wf (o : MuAt) : Bool := coreOk o.core && patchOk o.hdl && patchOk o.patch && o.mu < 4
def MuPortAt.wf (o : MuPortAt) : Bool := coreOk o.core && patchOk o.hdl && patchOk o.patch && o.mu < 4
def GangAt.wf (o : GangAt) : Bool := o.inst < 2 ^ 24
def ThrottleAt.wf (o : ThrottleAt) : Bool := o.inst < 2 ^ 24
def WalkAt.wf (o : WalkAt) : Bool := coreOk o.core && o.va < Config.vaLimit
def NodeAt.wf (o : NodeAt) : Bool := o.node < 4096
/-- R21, R23: 26 seams, and 72 scale-up ports. -/
def LinkAt.wf (o : LinkAt) : Bool := o.link < 98
def RetrainAt.wf (o : RetrainAt) : Bool := o.link < 98
def WindowAt.wf (_ : WindowAt) : Bool := true
def ThermalAt.wf (o : ThermalAt) : Bool := o.die < 20
def RailAt.wf (o : RailAt) : Bool := o.die < 16 && o.rail < 8
def ShockAt.wf (o : ShockAt) : Bool := o.hem < 4
def TakeoverAt.wf (_ : TakeoverAt) : Bool := true
def RouterAt.wf (o : RouterAt) : Bool := coreOk o.core
def GateAt.wf (o : GateAt) : Bool := coreOk o.core && match o.unit with
  | .patch p => patchOk p
  | _ => true
def ScrubAt.wf (_ : ScrubAt) : Bool := true
def UnitAt.wf (o : UnitAt) : Bool := coreOk o.core && patchOk o.hdl && patchOk o.patch
/-- R143: a host's access has the sizes of LD and ST (R319), an atomic those of R364 and R365. -/
def HostAccess.wf (o : HostAccess) : Bool := o.dom < 16 && o.hem < 4 && match o.op with
  | .load => [1, 2, 4, 8].contains o.size
  | .store data => [1, 2, 4, 8].contains o.size && data.length == o.size
  | .atomic op _ _ => o.size == 4 || (o.size == 8 && op != .fadd)
def TestAt.wf (o : TestAt) : Bool := o.dom < 16
/-- R142: node numbers are 1 to 4,095. -/
def BringUp.wf (o : BringUp) : Bool := o.hems.length == 4 && 1 ≤ o.node && o.node < 4096 && o.unassigned < 16 && o.domains.all fun d => d.dom < 16 && d.cores.all coreOk

/-- A term that stands for a word that Table 5-21 does not refuse, or for an event of a place that exists. -/
def Instr.wf : Instr → Bool
  | .nop o => o.wf
  | .add o => o.wf
  | .sub o => o.wf
  | .mul o => o.wf
  | .mulh o => o.wf
  | .div o => o.wf
  | .rem o => o.wf
  | .and o => o.wf
  | .or o => o.wf
  | .xor o => o.wf
  | .andn o => o.wf
  | .shl o => o.wf
  | .shr o => o.wf
  | .sar o => o.wf
  | .rotl o => o.wf
  | .min o => o.wf
  | .max o => o.wf
  | .clz o => o.wf
  | .ctz o => o.wf
  | .popc o => o.wf
  | .bext o => o.wf
  | .bins o => o.wf
  | .ext o => o.wf
  | .sel o => o.wf
  | .mad o => o.wf
  | .addi o => o.wf
  | .andi o => o.wf
  | .ori o => o.wf
  | .xori o => o.wf
  | .shli o => o.wf && o.imm.toNat ≤ 63
  | .shri o => o.wf && o.imm.toNat ≤ 63
  | .sari o => o.wf && o.imm.toNat ≤ 63
  | .muli o => o.wf
  | .movi o => o.wf
  | .movhi o => o.wf
  | .cmp o => o.wf
  | .cmpi o => o.wf
  | .pand o => o.wf
  | .por o => o.wf
  | .pxor o => o.wf
  | .pnot o => o.wf
  | .pmov o => o.wf
  | .br o => o.wf
  | .jal o => o.wf
  | .jr o => o.wf
  | .loop o => o.wf
  | .loopi o => o.wf
  | .lbrk o => o.wf
  | .endTask o => o.wf
  | .send o => o.wf && o.b.toNat ≤ 57
  | .wait o => o.wf
  | .popFail o => o.wf
  | .popBlock o => o.wf
  | .push o => o.wf
  | .spec o => o.wf
  | .specResolve o => o.wf
  | .mfs o => o.wf
  | .mts o => o.wf
  | .mtsChbind o => o.wf
  | .mtsCvstat o => o.wf
  | .mtsRailsel o => o.wf
  | .mtsBudget o => o.wf
  | .mtsPermits o => o.wf
  | .mtsClasp o => o.wf
  | .mtsEpc o => o.wf
  | .ld o => o.wf && loadOrder o.ord
  | .st o => o.wf && storeOrder o.ord
  | .ldp o => o.wf && loadOrder o.ord && o.pair
  | .stp o => o.wf && storeOrder o.ord && o.pair
  | .recld o => o.wf && loadOrder o.ord
  | .recst o => o.wf && storeOrder o.ord
  | .recset o => o.wf
  | .recget o => o.wf
  | .aadd o => o.wf && o.plain
  | .amin o => o.wf && o.cmp == 0
  | .amax o => o.wf && o.cmp == 0
  | .aand o => o.wf && o.plain
  | .aor o => o.wf && o.plain
  | .axor o => o.wf && o.plain
  | .axchg o => o.wf && o.plain
  | .acas o => o.wf && !o.uns
  | .ainc o => o.wf && o.plain && o.v == 0
  | .afadd o => o.wf && o.plain && o.sz == 2
  | .amaxw o => o.wf && o.plain
  | .fence o => o.wf
  | .scfence o => o.wf
  | .binit o => o.wf
  | .barv o => o.wf
  | .bexp o => o.wf
  | .brd o => o.wf
  | .cpy o => o.wf
  | .cpyg o => o.wf
  | .cpys o => o.wf
  | .cpyr o => o.wf
  | .cpym o => o.wf
  | .fill o => o.wf
  | .publish o => o.wf
  | .publishSwap o => o.wf
  | .scfg o => o.wf
  | .scfgLoadDone o => o.wf
  | .sgo o => o.wf
  | .snext o => o.wf
  | .sstop o => o.wf
  | .sbind o => o.wf
  | .sbar o => o.wf
  | .mtok o => o.wf
  | .trap o => o.wf
  | .bkpt o => o.wf
  | .eretResume o => o.wf
  | .eretSkip o => o.wf
  | .tlbinv o => o.wf
  | .clasp o => o.wf
  | .save o => o.wf
  | .restore o => o.wf
  | .replyFill o => o.wf
  | .ifetchLine o => o.wf
  | .qdesc o => o.wf
  | .ldesc o => o.wf
  | .qreset o => o.wf
  | .lkill o => o.wf
  | .xinv o => o.wf
  | .selftest o => o.wf
  | .attest o => o.wf
  | .hostAccess o => o.wf
  | .tailWrite o => o.wf
  | .queueClose o => o.wf
  | .queueDispense o => o.wf
  | .queueReread o => o.wf
  | .awaitReread o => o.wf
  | .schedulerDecision => true
  | .compactionMoveDone o => o.wf
  | .imageFetchDone o => o.wf
  | .preloadDone o => o.wf
  | .dispatch o => o.wf
  | .continuationPost o => o.wf
  | .waitTimeout o => o.wf
  | .timerSource o => o.wf
  | .gangEnd o => o.wf
  | .firing o => o.wf
  | .pass o => o.wf
  | .const o => o.wf
  | .iadd o => o.wf
  | .isub o => o.wf
  | .iaddc o => o.wf
  | .isubb o => o.wf
  | .imul o => o.wf
  | .imulh o => o.wf
  | .imacc o => o.wf
  | .imad o => o.wf
  | .iand o => o.wf
  | .ior o => o.wf
  | .ixor o => o.wf
  | .ishl o => o.wf
  | .ishr o => o.wf
  | .isar o => o.wf
  | .imin o => o.wf
  | .imax o => o.wf
  | .iminu o => o.wf
  | .imaxu o => o.wf
  | .icmp o => o.wf
  | .isel o => o.wf
  | .dot4 o => o.wf
  | .iabs o => o.wf
  | .ipopc o => o.wf
  | .iclz o => o.wf
  | .fadd o => o.wf
  | .fsub o => o.wf
  | .fmul o => o.wf
  | .ffma o => o.wf
  | .fmin o => o.wf
  | .fmax o => o.wf
  | .fcmp o => o.wf
  | .fsel o => o.wf
  | .fmod o => o.wf
  | .hadd2 o => o.wf
  | .hmul2 o => o.wf
  | .hfma2 o => o.wf
  | .hmax2 o => o.wf
  | .hdot2 o => o.wf
  | .cvtif o => o.wf
  | .cvtfi o => o.wf
  | .cvtfh o => o.wf
  | .cvthf o => o.wf
  | .rcp o => o.wf
  | .rsq o => o.wf
  | .sqrt o => o.wf
  | .exp2 o => o.wf
  | .log2 o => o.wf
  | .shufl o => o.wf
  | .shufr o => o.wf
  | .bcast o => o.wf
  | .xadd o => o.wf
  | .xmax o => o.wf
  | .xfadd o => o.wf
  | .hld o => o.wf
  | .hacc o => o.wf
  | .hfacc o => o.wf
  | .hout o => o.wf
  | .steer o => o.wf
  | .merge o => o.wf
  | .carry o => o.wf
  | .gate o => o.wf
  | .sink o => o.wf
  | .count o => o.wf
  | .lut4 o => o.wf
  | .repeatOp o => o.wf
  | .seq o => o.wf
  | .pipe o => o.wf
  | .stream o => o.wf
  | .mseq o => o.wf
  | .agWalkStart o => o.wf
  | .agReadToken o => o.wf
  | .agWrite o => o.wf
  | .agWriteDone o => o.wf
  | .muFifo o => o.wf
  | .muTable o => o.wf
  | .waccPush o => o.wf
  | .waccQuery o => o.wf
  | .waccMarker o => o.wf
  | .accrRequest o => o.wf
  | .lxConvert o => o.wf
  | .lxPlane o => o.wf
  | .claspDelivery o => o.wf
  | .configStep o => o.wf
  | .rollingSwap o => o.wf
  | .regionDone o => o.wf
  | .matrixAccept o => o.wf
  | .mxPinToken o => o.wf
  | .mma o => o.wf
  | .mmaz o => o.wf
  | .mzero o => o.wf
  | .mdrain o => o.wf
  | .mmar o => o.wf
  | .mmarz o => o.wf
  | .matrixTokenComplete o => o.wf
  | .xuSectorWrite o => o.wf
  | .xuCommandComplete o => o.wf
  | .collarReadRelease o => o.wf
  | .translationWalkDone o => o.wf
  | .routerRound o => o.wf
  | .periodicDrain => true
  | .stitch => true
  | .permitRefill o => o.wf
  | .budgetReload o => o.wf
  | .throttleChange o => o.wf
  | .powerGate o => o.wf
  | .watchdog o => o.wf
  | .memto o => o.wf
  | .domainNack o => o.wf
  | .retransmit o => o.wf
  | .nodeUnreachable o => o.wf
  | .linkRetrain o => o.wf
  | .patrolScrub o => o.wf
  | .schedulerPreempt o => o.wf
  | .mgmtPreempt o => o.wf
  | .logSeal o => o.wf
  | .holdEntry => true
  | .holdRecovery => true
  | .emergencySave => true
  | .powerLoss => true
  | .powerWindow o => o.wf
  | .thermalChange o => o.wf
  | .thermalTrip o => o.wf
  | .railSet o => o.wf
  | .coldReset o => o.wf
  | .warmReset => true
  | .h1Takeover o => o.wf
  | .shockEvent o => o.wf
  | .performedAtHome o => o.wf
  | .retrainingComplete o => o.wf
  | .schedulerRestore o => o.wf

end Sys2Proof
end

