-- ==== Sys2Proof/Decode.lean ====
section
/-! DEFINITION. The decoder of control-processor words (R115 to R124, R140) and, after it, the encoder, both written from the
encoding tables of spec/05. A word that is refused traps ILLEGAL at issue (Table 5-21); the refusal says why. -/

namespace Sys2Proof

/-- Why a word is no instruction (Table 5-21, first row). Every one of them traps ILLEGAL (0x01) at issue. -/
inductive DecodeError where
  /-- Major 0x00, the all-zero word, or a major that Table 5-10b does not list. -/
  | unassignedMajor
  /-- Guard 0b1000. -/
  | reservedGuard
  /-- A nonzero unused field or FE bit. -/
  | nonzeroUnused
  /-- An fn value that Table 5-5 does not list. -/
  | unlistedFn
  /-- A code outside its range: condition, scope, class, order, size, shift count, register pair, conversion, operator. -/
  | codeOutOfRange
  /-- Fewer than eight bytes. -/
  | truncated
deriving DecidableEq, Repr

/-- Bits [lo + n - 1 : lo] of a word. -/
def fld (w : Word) (lo n : Nat) : BitVec n := w.extractLsb' lo n

/-- R115: the guard in [55:52]. -/
def guardOf (w : Word) : Guard := ⟨fld w 55 1 == 1, fld w 52 3⟩

/-- Whether every listed field (lowest bit, width) of `w` is 0. -/
def zeroFields (w : Word) (zs : List (Nat × Nat)) : Bool := zs.all fun z => fld w z.1 z.2 == 0

/-- The instruction `i` that `w` spells, if its guard is not reserved, its unused fields `zs` are 0 and its codes are in range. -/
def accept (w : Word) (zs : List (Nat × Nat)) (i : Instr) : Except DecodeError Instr :=
  if (guardOf w).wf = false then .error .reservedGuard
  else if zeroFields w zs = false then .error .nonzeroUnused
  else if i.wf = false then .error .codeOutOfRange
  else .ok i

/-- MTS (0x5F): the special-register number in fn names the row (R233). -/
def decodeMts (w : Word) : Except DecodeError Instr :=
  if fld w 16 9 == 0x107 then
    accept w [(46, 6), (28, 6), (25, 1), (0, 16)] (.mtsChbind ⟨guardOf w, fld w 40 6, fld w 34 6, fld w 27 1 == 1, fld w 26 1 == 1⟩)
  else if fld w 16 9 == 0x00B then accept w [(46, 6), (28, 12), (25, 2), (0, 16)] (.mtsCvstat ⟨guardOf w, fld w 40 6, fld w 27 1 == 1⟩)
  else if fld w 16 9 == 0x108 then accept w [(46, 6), (28, 12), (25, 2), (0, 16)] (.mtsRailsel ⟨guardOf w, fld w 40 6, fld w 27 1 == 1⟩)
  else if fld w 16 9 == 0x10A then accept w [(46, 6), (28, 12), (25, 2), (0, 16)] (.mtsBudget ⟨guardOf w, fld w 40 6, fld w 27 1 == 1⟩)
  else if fld w 16 9 == 0x109 then accept w [(46, 6), (28, 12), (25, 2), (0, 16)] (.mtsPermits ⟨guardOf w, fld w 40 6, fld w 27 1 == 1⟩)
  else if fld w 16 9 == 0x101 then accept w [(46, 6), (28, 12), (25, 2), (0, 16)] (.mtsEpc ⟨guardOf w, fld w 40 6, fld w 27 1 == 1⟩)
  else if fld w 19 6 == 0x22 then
    accept w [(46, 6), (28, 12), (25, 2), (0, 16)] (.mtsClasp ⟨guardOf w, fld w 40 6, fld w 27 1 == 1, fld w 16 3⟩)
  else accept w [(46, 6), (28, 12), (25, 2), (0, 16)] (.mts ⟨guardOf w, fld w 40 6, fld w 27 1 == 1, fld w 16 9⟩)

/-- R124: the instruction that a word holds. Total: every other word is refused by name. -/
def decode (w : Word) : Except DecodeError Instr :=
  match (fld w 56 8).toNat with
  | 0x01 => accept w [(0, 52)] (.nop ⟨guardOf w⟩)
  | 0x10 => accept w [(28, 6), (0, 26)] (.add ⟨guardOf w, fld w 46 6, fld w 40 6, fld w 34 6, fld w 27 1 == 1, fld w 26 1 == 1⟩)
  | 0x11 => accept w [(28, 6), (0, 26)] (.sub ⟨guardOf w, fld w 46 6, fld w 40 6, fld w 34 6, fld w 27 1 == 1, fld w 26 1 == 1⟩)
  | 0x12 => accept w [(28, 6), (0, 26)] (.mul ⟨guardOf w, fld w 46 6, fld w 40 6, fld w 34 6, fld w 27 1 == 1, fld w 26 1 == 1⟩)
  | 0x13 => accept w [(28, 6), (17, 9), (0, 16)] (.mulh ⟨guardOf w, fld w 46 6, fld w 40 6, fld w 34 6, fld w 27 1 == 1, fld w 26 1 == 1, fld w 16 1 == 1⟩)
  | 0x14 => accept w [(28, 6), (17, 9), (0, 16)] (.div ⟨guardOf w, fld w 46 6, fld w 40 6, fld w 34 6, fld w 27 1 == 1, fld w 26 1 == 1, fld w 16 1 == 1⟩)
  | 0x15 => accept w [(28, 6), (17, 9), (0, 16)] (.rem ⟨guardOf w, fld w 46 6, fld w 40 6, fld w 34 6, fld w 27 1 == 1, fld w 26 1 == 1, fld w 16 1 == 1⟩)
  | 0x16 => accept w [(28, 6), (0, 26)] (.and ⟨guardOf w, fld w 46 6, fld w 40 6, fld w 34 6, fld w 27 1 == 1, fld w 26 1 == 1⟩)
  | 0x17 => accept w [(28, 6), (0, 26)] (.or ⟨guardOf w, fld w 46 6, fld w 40 6, fld w 34 6, fld w 27 1 == 1, fld w 26 1 == 1⟩)
  | 0x18 => accept w [(28, 6), (0, 26)] (.xor ⟨guardOf w, fld w 46 6, fld w 40 6, fld w 34 6, fld w 27 1 == 1, fld w 26 1 == 1⟩)
  | 0x19 => accept w [(28, 6), (0, 26)] (.andn ⟨guardOf w, fld w 46 6, fld w 40 6, fld w 34 6, fld w 27 1 == 1, fld w 26 1 == 1⟩)
  | 0x1A => accept w [(28, 6), (0, 26)] (.shl ⟨guardOf w, fld w 46 6, fld w 40 6, fld w 34 6, fld w 27 1 == 1, fld w 26 1 == 1⟩)
  | 0x1B => accept w [(28, 6), (0, 26)] (.shr ⟨guardOf w, fld w 46 6, fld w 40 6, fld w 34 6, fld w 27 1 == 1, fld w 26 1 == 1⟩)
  | 0x1C => accept w [(28, 6), (0, 26)] (.sar ⟨guardOf w, fld w 46 6, fld w 40 6, fld w 34 6, fld w 27 1 == 1, fld w 26 1 == 1⟩)
  | 0x1D => accept w [(28, 6), (0, 26)] (.rotl ⟨guardOf w, fld w 46 6, fld w 40 6, fld w 34 6, fld w 27 1 == 1, fld w 26 1 == 1⟩)
  | 0x1E => accept w [(28, 6), (17, 9), (0, 16)] (.min ⟨guardOf w, fld w 46 6, fld w 40 6, fld w 34 6, fld w 27 1 == 1, fld w 26 1 == 1, fld w 16 1 == 1⟩)
  | 0x1F => accept w [(28, 6), (17, 9), (0, 16)] (.max ⟨guardOf w, fld w 46 6, fld w 40 6, fld w 34 6, fld w 27 1 == 1, fld w 26 1 == 1, fld w 16 1 == 1⟩)
  | 0x20 => accept w [(28, 12), (0, 27)] (.clz ⟨guardOf w, fld w 46 6, fld w 40 6, fld w 27 1 == 1⟩)
  | 0x21 => accept w [(28, 12), (0, 27)] (.ctz ⟨guardOf w, fld w 46 6, fld w 40 6, fld w 27 1 == 1⟩)
  | 0x22 => accept w [(28, 12), (0, 27)] (.popc ⟨guardOf w, fld w 46 6, fld w 40 6, fld w 27 1 == 1⟩)
  | 0x23 => accept w [(28, 6), (0, 26)] (.bext ⟨guardOf w, fld w 46 6, fld w 40 6, fld w 34 6, fld w 27 1 == 1, fld w 26 1 == 1⟩)
  | 0x24 => accept w [(0, 25)] (.bins ⟨guardOf w, fld w 46 6, fld w 40 6, fld w 34 6, fld w 28 6, fld w 27 1 == 1, fld w 26 1 == 1, fld w 25 1 == 1⟩)
  | 0x25 => accept w [(28, 6), (0, 26)] (.ext ⟨guardOf w, fld w 46 6, fld w 40 6, fld w 34 6, fld w 27 1 == 1, fld w 26 1 == 1⟩)
  | 0x26 => accept w [(28, 6), (20, 6), (0, 16)] (.sel ⟨guardOf w, fld w 46 6, fld w 40 6, fld w 34 6, fld w 27 1 == 1, fld w 26 1 == 1, fld w 16 3, fld w 19 1 == 1⟩)
  | 0x27 => accept w [(0, 25)] (.mad ⟨guardOf w, fld w 46 6, fld w 40 6, fld w 34 6, fld w 28 6, fld w 27 1 == 1, fld w 26 1 == 1, fld w 25 1 == 1⟩)
  | 0x30 => accept w [(32, 7)] (.addi ⟨guardOf w, fld w 46 6, fld w 40 6, fld w 39 1 == 1, fld w 0 32⟩)
  | 0x31 => accept w [(32, 7)] (.andi ⟨guardOf w, fld w 46 6, fld w 40 6, fld w 39 1 == 1, fld w 0 32⟩)
  | 0x32 => accept w [(32, 7)] (.ori ⟨guardOf w, fld w 46 6, fld w 40 6, fld w 39 1 == 1, fld w 0 32⟩)
  | 0x33 => accept w [(32, 7)] (.xori ⟨guardOf w, fld w 46 6, fld w 40 6, fld w 39 1 == 1, fld w 0 32⟩)
  | 0x34 => accept w [(32, 7)] (.shli ⟨guardOf w, fld w 46 6, fld w 40 6, fld w 39 1 == 1, fld w 0 32⟩)
  | 0x35 => accept w [(32, 7)] (.shri ⟨guardOf w, fld w 46 6, fld w 40 6, fld w 39 1 == 1, fld w 0 32⟩)
  | 0x36 => accept w [(32, 7)] (.sari ⟨guardOf w, fld w 46 6, fld w 40 6, fld w 39 1 == 1, fld w 0 32⟩)
  | 0x37 => accept w [(32, 7)] (.muli ⟨guardOf w, fld w 46 6, fld w 40 6, fld w 39 1 == 1, fld w 0 32⟩)
  | 0x38 => accept w [] (.movi ⟨guardOf w, fld w 46 6, fld w 0 46⟩)
  | 0x39 => accept w [(18, 28)] (.movhi ⟨guardOf w, fld w 46 6, fld w 0 18⟩)
  | 0x40 => accept w [(49, 3), (28, 6), (20, 6), (0, 16)] (.cmp ⟨guardOf w, fld w 46 3, fld w 40 6, fld w 34 6, fld w 27 1 == 1, fld w 26 1 == 1, fld w 16 4⟩)
  | 0x3A => accept w [(49, 3), (36, 3)] (.cmpi ⟨guardOf w, fld w 46 3, fld w 40 6, fld w 39 1 == 1, fld w 32 4, fld w 0 32⟩)
  | 0x41 => accept w [(49, 3), (43, 3), (37, 3), (0, 34)] (.pand ⟨guardOf w, fld w 46 3, fld w 40 3, fld w 34 3⟩)
  | 0x42 => accept w [(49, 3), (43, 3), (37, 3), (0, 34)] (.por ⟨guardOf w, fld w 46 3, fld w 40 3, fld w 34 3⟩)
  | 0x43 => accept w [(49, 3), (43, 3), (37, 3), (0, 34)] (.pxor ⟨guardOf w, fld w 46 3, fld w 40 3, fld w 34 3⟩)
  | 0x44 => accept w [(49, 3), (43, 3), (0, 40)] (.pnot ⟨guardOf w, fld w 46 3, fld w 40 3⟩)
  | 0x45 => accept w [(49, 3), (43, 3), (0, 40)] (.pmov ⟨guardOf w, fld w 46 3, fld w 40 3⟩)
  | 0x50 => accept w [(32, 20)] (.br ⟨guardOf w, fld w 0 32⟩)
  | 0x51 => accept w [(32, 14)] (.jal ⟨guardOf w, fld w 46 6, fld w 0 32⟩)
  | 0x52 => accept w [(46, 6), (28, 12), (0, 27)] (.jr ⟨guardOf w, fld w 40 6, fld w 27 1 == 1⟩)
  | 0x53 => accept w [(46, 6), (32, 7)] (.loop ⟨guardOf w, fld w 40 6, fld w 39 1 == 1, fld w 0 32⟩)
  | 0x54 => accept w [(46, 6), (39, 1)] (.loopi ⟨guardOf w, fld w 40 6 ++ fld w 32 7, fld w 0 32⟩)
  | 0x55 => accept w [(0, 52)] (.lbrk ⟨guardOf w⟩)
  | 0x56 => accept w [(0, 52)] (.endTask ⟨guardOf w⟩)
  | 0x57 => accept w [(46, 6), (28, 6), (0, 26)] (.send ⟨guardOf w, fld w 40 6, fld w 34 6, fld w 27 1 == 1, fld w 26 1 == 1⟩)
  | 0x58 => accept w [(0, 3)] (.wait ⟨guardOf w, fld w 46 6, fld w 45 1 == 1, fld w 39 6, ⟨fld w 36 3, fld w 30 6⟩, ⟨fld w 27 3, fld w 21 6⟩, ⟨fld w 18 3, fld w 12 6⟩, ⟨fld w 9 3, fld w 3 6⟩⟩)
  | 0x59 =>
    if fld w 16 1 == 1 then accept w [(46, 6), (28, 12), (25, 2), (17, 2), (0, 16)] (.popBlock ⟨guardOf w, fld w 40 6, fld w 19 6, fld w 27 1 == 1⟩)
    else accept w [(37, 3), (28, 6), (0, 27)] (.popFail ⟨guardOf w, fld w 46 6, fld w 40 6, fld w 34 3, fld w 27 1 == 1⟩)
  | 0x5A => accept w [(46, 6), (28, 6), (0, 26)] (.push ⟨guardOf w, fld w 40 6, fld w 34 6, fld w 27 1 == 1, fld w 26 1 == 1⟩)
  | 0x5B => accept w [(46, 6), (39, 1), (36, 3)] (.spec ⟨guardOf w, fld w 32 4, fld w 40 6, fld w 0 32⟩)
  | 0x5E => accept w [(28, 12), (25, 2), (0, 16)] (.mfs ⟨guardOf w, fld w 46 6, fld w 40 6, fld w 27 1 == 1, fld w 16 9⟩)
  | 0x5F => decodeMts w
  | 0x60 => accept w [(22, 1)] (.ld ⟨guardOf w, fld w 46 6, fld w 40 6, fld w 32 8, fld w 31 1 == 1, fld w 30 1 == 1, fld w 28 2, fld w 25 3, fld w 23 2, fld w 21 1 == 1, fld w 0 21⟩)
  | 0x61 => accept w [(22, 1)] (.st ⟨guardOf w, fld w 46 6, fld w 40 6, fld w 32 8, fld w 31 1 == 1, fld w 30 1 == 1, fld w 28 2, fld w 25 3, fld w 23 2, fld w 21 1 == 1, fld w 0 21⟩)
  | 0x62 => accept w [(22, 1)] (.ldp ⟨guardOf w, fld w 46 6, fld w 40 6, fld w 32 8, fld w 31 1 == 1, fld w 30 1 == 1, fld w 28 2, fld w 25 3, fld w 23 2, fld w 21 1 == 1, fld w 0 21⟩)
  | 0x63 => accept w [(22, 1)] (.stp ⟨guardOf w, fld w 46 6, fld w 40 6, fld w 32 8, fld w 31 1 == 1, fld w 30 1 == 1, fld w 28 2, fld w 25 3, fld w 23 2, fld w 21 1 == 1, fld w 0 21⟩)
  | 0x64 => if fld w 28 2 == 3 then accept w [(46, 6), (30, 1), (22, 1)] (.recld ⟨guardOf w, fld w 40 6, fld w 32 8, fld w 31 1 == 1, fld w 25 3, fld w 23 2, fld w 21 1 == 1, fld w 0 21⟩) else .error .codeOutOfRange
  | 0x65 => if fld w 28 2 == 3 then accept w [(46, 6), (30, 1), (22, 1)] (.recst ⟨guardOf w, fld w 40 6, fld w 32 8, fld w 31 1 == 1, fld w 25 3, fld w 23 2, fld w 21 1 == 1, fld w 0 21⟩) else .error .codeOutOfRange
  | 0x66 => accept w [(40, 6), (31, 1), (2, 28)] (.recset ⟨guardOf w, fld w 46 6, fld w 32 8, fld w 30 1 == 1, fld w 0 2⟩)
  | 0x67 => accept w [(40, 6), (31, 1), (2, 28)] (.recget ⟨guardOf w, fld w 46 6, fld w 32 8, fld w 30 1 == 1, fld w 0 2⟩)
  | 0x70 => accept w [(22, 1)] (.aadd ⟨guardOf w, fld w 46 6, fld w 40 6, fld w 32 8, fld w 31 1 == 1, fld w 30 1 == 1, fld w 28 2, fld w 25 3, fld w 23 2, fld w 21 1 == 1, fld w 15 6, fld w 9 6, fld w 0 9⟩)
  | 0x71 => accept w [(22, 1)] (.amin ⟨guardOf w, fld w 46 6, fld w 40 6, fld w 32 8, fld w 31 1 == 1, fld w 30 1 == 1, fld w 28 2, fld w 25 3, fld w 23 2, fld w 21 1 == 1, fld w 15 6, fld w 9 6, fld w 0 9⟩)
  | 0x72 => accept w [(22, 1)] (.amax ⟨guardOf w, fld w 46 6, fld w 40 6, fld w 32 8, fld w 31 1 == 1, fld w 30 1 == 1, fld w 28 2, fld w 25 3, fld w 23 2, fld w 21 1 == 1, fld w 15 6, fld w 9 6, fld w 0 9⟩)
  | 0x73 => accept w [(22, 1)] (.aand ⟨guardOf w, fld w 46 6, fld w 40 6, fld w 32 8, fld w 31 1 == 1, fld w 30 1 == 1, fld w 28 2, fld w 25 3, fld w 23 2, fld w 21 1 == 1, fld w 15 6, fld w 9 6, fld w 0 9⟩)
  | 0x74 => accept w [(22, 1)] (.aor ⟨guardOf w, fld w 46 6, fld w 40 6, fld w 32 8, fld w 31 1 == 1, fld w 30 1 == 1, fld w 28 2, fld w 25 3, fld w 23 2, fld w 21 1 == 1, fld w 15 6, fld w 9 6, fld w 0 9⟩)
  | 0x75 => accept w [(22, 1)] (.axor ⟨guardOf w, fld w 46 6, fld w 40 6, fld w 32 8, fld w 31 1 == 1, fld w 30 1 == 1, fld w 28 2, fld w 25 3, fld w 23 2, fld w 21 1 == 1, fld w 15 6, fld w 9 6, fld w 0 9⟩)
  | 0x76 => accept w [(22, 1)] (.axchg ⟨guardOf w, fld w 46 6, fld w 40 6, fld w 32 8, fld w 31 1 == 1, fld w 30 1 == 1, fld w 28 2, fld w 25 3, fld w 23 2, fld w 21 1 == 1, fld w 15 6, fld w 9 6, fld w 0 9⟩)
  | 0x77 => accept w [(22, 1)] (.acas ⟨guardOf w, fld w 46 6, fld w 40 6, fld w 32 8, fld w 31 1 == 1, fld w 30 1 == 1, fld w 28 2, fld w 25 3, fld w 23 2, fld w 21 1 == 1, fld w 15 6, fld w 9 6, fld w 0 9⟩)
  | 0x78 => accept w [(22, 1)] (.ainc ⟨guardOf w, fld w 46 6, fld w 40 6, fld w 32 8, fld w 31 1 == 1, fld w 30 1 == 1, fld w 28 2, fld w 25 3, fld w 23 2, fld w 21 1 == 1, fld w 15 6, fld w 9 6, fld w 0 9⟩)
  | 0x79 => accept w [(22, 1)] (.afadd ⟨guardOf w, fld w 46 6, fld w 40 6, fld w 32 8, fld w 31 1 == 1, fld w 30 1 == 1, fld w 28 2, fld w 25 3, fld w 23 2, fld w 21 1 == 1, fld w 15 6, fld w 9 6, fld w 0 9⟩)
  | 0x7A => accept w [(22, 1)] (.amaxw ⟨guardOf w, fld w 46 6, fld w 40 6, fld w 32 8, fld w 31 1 == 1, fld w 30 1 == 1, fld w 28 2, fld w 25 3, fld w 23 2, fld w 21 1 == 1, fld w 15 6, fld w 9 6, fld w 0 9⟩)
  | 0x80 => accept w [(19, 33), (0, 16)] (.fence ⟨guardOf w, fld w 16 3⟩)
  | 0x81 => if fld w 16 9 == 4 then accept w [(25, 27), (0, 16)] (.scfence ⟨guardOf w⟩) else .error .unlistedFn
  | 0x82 => accept w [(46, 6), (0, 25)] (.binit ⟨guardOf w, fld w 40 6, fld w 34 6, fld w 28 6, fld w 27 1 == 1, fld w 26 1 == 1, fld w 25 1 == 1⟩)
  | 0x83 => accept w [(28, 12), (0, 27)] (.barv ⟨guardOf w, fld w 46 6, fld w 40 6, fld w 27 1 == 1⟩)
  | 0x84 => accept w [(46, 6), (28, 6), (0, 26)] (.bexp ⟨guardOf w, fld w 40 6, fld w 34 6, fld w 27 1 == 1, fld w 26 1 == 1⟩)
  | 0x85 => accept w [(28, 12), (0, 27)] (.brd ⟨guardOf w, fld w 46 6, fld w 40 6, fld w 27 1 == 1⟩)
  | 0x90 => accept w [(0, 11)] (.cpy ⟨guardOf w, fld w 44 8, fld w 36 8, fld w 30 6, fld w 24 6, fld w 19 5, fld w 14 5, fld w 12 2, fld w 11 1 == 1⟩)
  | 0x91 => accept w [(8, 3)] (.cpyg ⟨guardOf w, fld w 44 8, fld w 36 8, fld w 30 6, fld w 24 6, fld w 19 5, fld w 14 5, fld w 12 2, fld w 11 1 == 1, fld w 0 8⟩)
  | 0x92 => accept w [(8, 3)] (.cpys ⟨guardOf w, fld w 44 8, fld w 36 8, fld w 30 6, fld w 24 6, fld w 19 5, fld w 14 5, fld w 12 2, fld w 11 1 == 1, fld w 0 8⟩)
  | 0x93 => accept w [(4, 7)] (.cpyr ⟨guardOf w, fld w 44 8, fld w 36 8, fld w 30 6, fld w 24 6, fld w 19 5, fld w 14 5, fld w 12 2, fld w 11 1 == 1, fld w 0 4⟩)
  | 0x94 => accept w [(0, 11)] (.cpym ⟨guardOf w, fld w 44 8, fld w 36 8, fld w 30 6, fld w 24 6, fld w 19 5, fld w 14 5, fld w 12 2, fld w 11 1 == 1⟩)
  | 0x95 => accept w [(44, 8), (0, 19)] (.fill ⟨guardOf w, fld w 36 8, fld w 30 6, fld w 24 6, fld w 19 5⟩)
  | 0x96 => accept w [(44, 8), (24, 12), (0, 19)] (.publish ⟨guardOf w, fld w 36 8, fld w 19 5⟩)
  | 0xA0 => accept w [(36, 8), (30, 6), (0, 19)] (.scfg ⟨guardOf w, fld w 44 8, fld w 24 6, fld w 19 5⟩)
  | 0xA1 => accept w [(28, 12), (0, 27)] (.sgo ⟨guardOf w, fld w 46 6, fld w 40 6, fld w 27 1 == 1⟩)
  | 0xA2 => accept w [(28, 12), (0, 27)] (.snext ⟨guardOf w, fld w 46 6, fld w 40 6, fld w 27 1 == 1⟩)
  | 0xA3 => accept w [(28, 12), (0, 27)] (.sstop ⟨guardOf w, fld w 46 6, fld w 40 6, fld w 27 1 == 1⟩)
  | 0xA4 => accept w [(36, 8), (30, 6), (0, 19)] (.sbind ⟨guardOf w, fld w 44 8, fld w 24 6, fld w 19 5⟩)
  | 0xA5 => accept w [(46, 6), (28, 12), (0, 27)] (.sbar ⟨guardOf w, fld w 40 6, fld w 27 1 == 1⟩)
  | 0xA6 => accept w [(46, 6), (28, 6), (0, 26)] (.mtok ⟨guardOf w, fld w 40 6, fld w 34 6, fld w 27 1 == 1, fld w 26 1 == 1⟩)
  | 0xF0 => accept w [(32, 20)] (.trap ⟨guardOf w, fld w 0 32⟩)
  | 0xF4 => accept w [(32, 20)] (.bkpt ⟨guardOf w, fld w 0 32⟩)
  | 0xF1 =>
    if fld w 16 1 == 1 then accept w [(17, 35), (0, 16)] (.eretSkip ⟨guardOf w⟩)
    else accept w [(0, 52)] (.eretResume ⟨guardOf w⟩)
  | 0xF2 => accept w [(46, 6), (28, 6), (0, 26)] (.tlbinv ⟨guardOf w, fld w 40 6, fld w 34 6, fld w 27 1 == 1, fld w 26 1 == 1⟩)
  | 0xF3 => accept w [(28, 6), (0, 26)] (.clasp ⟨guardOf w, fld w 46 6, fld w 40 6, fld w 34 6, fld w 27 1 == 1, fld w 26 1 == 1⟩)
  | 0xF5 => accept w [(0, 25)] (.save ⟨guardOf w, fld w 46 6, fld w 40 6, fld w 34 6, fld w 28 6, fld w 27 1 == 1, fld w 26 1 == 1, fld w 25 1 == 1⟩)
  | 0xF6 => accept w [(28, 12), (0, 27)] (.restore ⟨guardOf w, fld w 46 6, fld w 40 6, fld w 27 1 == 1⟩)
  | _ => .error .unassignedMajor

/-- R7: eight bytes, the lowest address first, as one little-endian word. -/
def wordOfBytes : List Byte → Option (Word × List Byte)
  | b0 :: b1 :: b2 :: b3 :: b4 :: b5 :: b6 :: b7 :: rest =>
    some (b7 ++ b6 ++ b5 ++ b4 ++ b3 ++ b2 ++ b1 ++ b0, rest)
  | _ => none

/-- The instruction that the first eight bytes hold, with the bytes after it. -/
def decodeBytes (bs : List Byte) : Except DecodeError (Instr × List Byte) :=
  match wordOfBytes bs with
  | none => .error .truncated
  | some (w, rest) =>
    match decode w with
    | .ok i => .ok (i, rest)
    | .error e => .error e

/-- The eight bytes of a word as they lie in memory (R7). -/
def bytesOfWord (w : Word) : List Byte :=
  [fld w 0 8, fld w 8 8, fld w 16 8, fld w 24 8, fld w 32 8, fld w 40 8, fld w 48 8, fld w 56 8]

/-- The instruction that the decoder reads from an instruction whose bits are `w`, bit 0 the least significant bit of the
first byte; bits above `nbits` are 0. -/
def decodeTableWord (nbits w : Nat) : Option Instr :=
  match decodeBytes (bytesOfWord (BitVec.ofNat 64 (w % 2 ^ nbits))) with
  | .ok (i, _) => some i
  | .error _ => none

/-! ### The encoder -/

/-- A field's value at its place in a word. -/
def put {n : Nat} (lo : Nat) (v : BitVec n) : Word := v.setWidth 64 <<< lo

/-- A flag as a field of one bit. -/
def b1 (b : Bool) : BitVec 1 := if b then 1 else 0

/-- Op in [63:56] and guard in [55:52] (R115). -/
def head (op : BitVec 8) (g : Guard) : Word := put 56 op ||| put 55 (b1 g.neg) ||| put 52 g.p

/-- The word of an instruction; the rows of the other agents have none. -/
def encode : Instr → Option Word
  | .nop o => some (head 0x01 o.g)
  | .add o => some (head 0x10 o.g ||| put 46 o.d ||| put 40 o.a ||| put 34 o.b ||| put 27 (b1 o.fea) ||| put 26 (b1 o.feb))
  | .sub o => some (head 0x11 o.g ||| put 46 o.d ||| put 40 o.a ||| put 34 o.b ||| put 27 (b1 o.fea) ||| put 26 (b1 o.feb))
  | .mul o => some (head 0x12 o.g ||| put 46 o.d ||| put 40 o.a ||| put 34 o.b ||| put 27 (b1 o.fea) ||| put 26 (b1 o.feb))
  | .mulh o => some (head 0x13 o.g ||| put 46 o.d ||| put 40 o.a ||| put 34 o.b ||| put 27 (b1 o.fea) ||| put 26 (b1 o.feb) ||| put 16 (b1 o.uns))
  | .div o => some (head 0x14 o.g ||| put 46 o.d ||| put 40 o.a ||| put 34 o.b ||| put 27 (b1 o.fea) ||| put 26 (b1 o.feb) ||| put 16 (b1 o.uns))
  | .rem o => some (head 0x15 o.g ||| put 46 o.d ||| put 40 o.a ||| put 34 o.b ||| put 27 (b1 o.fea) ||| put 26 (b1 o.feb) ||| put 16 (b1 o.uns))
  | .and o => some (head 0x16 o.g ||| put 46 o.d ||| put 40 o.a ||| put 34 o.b ||| put 27 (b1 o.fea) ||| put 26 (b1 o.feb))
  | .or o => some (head 0x17 o.g ||| put 46 o.d ||| put 40 o.a ||| put 34 o.b ||| put 27 (b1 o.fea) ||| put 26 (b1 o.feb))
  | .xor o => some (head 0x18 o.g ||| put 46 o.d ||| put 40 o.a ||| put 34 o.b ||| put 27 (b1 o.fea) ||| put 26 (b1 o.feb))
  | .andn o => some (head 0x19 o.g ||| put 46 o.d ||| put 40 o.a ||| put 34 o.b ||| put 27 (b1 o.fea) ||| put 26 (b1 o.feb))
  | .shl o => some (head 0x1A o.g ||| put 46 o.d ||| put 40 o.a ||| put 34 o.b ||| put 27 (b1 o.fea) ||| put 26 (b1 o.feb))
  | .shr o => some (head 0x1B o.g ||| put 46 o.d ||| put 40 o.a ||| put 34 o.b ||| put 27 (b1 o.fea) ||| put 26 (b1 o.feb))
  | .sar o => some (head 0x1C o.g ||| put 46 o.d ||| put 40 o.a ||| put 34 o.b ||| put 27 (b1 o.fea) ||| put 26 (b1 o.feb))
  | .rotl o => some (head 0x1D o.g ||| put 46 o.d ||| put 40 o.a ||| put 34 o.b ||| put 27 (b1 o.fea) ||| put 26 (b1 o.feb))
  | .min o => some (head 0x1E o.g ||| put 46 o.d ||| put 40 o.a ||| put 34 o.b ||| put 27 (b1 o.fea) ||| put 26 (b1 o.feb) ||| put 16 (b1 o.uns))
  | .max o => some (head 0x1F o.g ||| put 46 o.d ||| put 40 o.a ||| put 34 o.b ||| put 27 (b1 o.fea) ||| put 26 (b1 o.feb) ||| put 16 (b1 o.uns))
  | .clz o => some (head 0x20 o.g ||| put 46 o.d ||| put 40 o.a ||| put 27 (b1 o.fea))
  | .ctz o => some (head 0x21 o.g ||| put 46 o.d ||| put 40 o.a ||| put 27 (b1 o.fea))
  | .popc o => some (head 0x22 o.g ||| put 46 o.d ||| put 40 o.a ||| put 27 (b1 o.fea))
  | .bext o => some (head 0x23 o.g ||| put 46 o.d ||| put 40 o.a ||| put 34 o.b ||| put 27 (b1 o.fea) ||| put 26 (b1 o.feb))
  | .bins o => some (head 0x24 o.g ||| put 46 o.d ||| put 40 o.a ||| put 34 o.b ||| put 28 o.c ||| put 27 (b1 o.fea) ||| put 26 (b1 o.feb) ||| put 25 (b1 o.fec))
  | .ext o => some (head 0x25 o.g ||| put 46 o.d ||| put 40 o.a ||| put 34 o.b ||| put 27 (b1 o.fea) ||| put 26 (b1 o.feb))
  | .sel o => some (head 0x26 o.g ||| put 46 o.d ||| put 40 o.a ||| put 34 o.b ||| put 27 (b1 o.fea) ||| put 26 (b1 o.feb) ||| put 16 o.p ||| put 19 (b1 o.neg))
  | .mad o => some (head 0x27 o.g ||| put 46 o.d ||| put 40 o.a ||| put 34 o.b ||| put 28 o.c ||| put 27 (b1 o.fea) ||| put 26 (b1 o.feb) ||| put 25 (b1 o.fec))
  | .addi o => some (head 0x30 o.g ||| put 46 o.d ||| put 40 o.a ||| put 39 (b1 o.fea) ||| put 0 o.imm)
  | .andi o => some (head 0x31 o.g ||| put 46 o.d ||| put 40 o.a ||| put 39 (b1 o.fea) ||| put 0 o.imm)
  | .ori o => some (head 0x32 o.g ||| put 46 o.d ||| put 40 o.a ||| put 39 (b1 o.fea) ||| put 0 o.imm)
  | .xori o => some (head 0x33 o.g ||| put 46 o.d ||| put 40 o.a ||| put 39 (b1 o.fea) ||| put 0 o.imm)
  | .shli o => some (head 0x34 o.g ||| put 46 o.d ||| put 40 o.a ||| put 39 (b1 o.fea) ||| put 0 o.imm)
  | .shri o => some (head 0x35 o.g ||| put 46 o.d ||| put 40 o.a ||| put 39 (b1 o.fea) ||| put 0 o.imm)
  | .sari o => some (head 0x36 o.g ||| put 46 o.d ||| put 40 o.a ||| put 39 (b1 o.fea) ||| put 0 o.imm)
  | .muli o => some (head 0x37 o.g ||| put 46 o.d ||| put 40 o.a ||| put 39 (b1 o.fea) ||| put 0 o.imm)
  | .movi o => some (head 0x38 o.g ||| put 46 o.d ||| put 0 o.imm)
  | .movhi o => some (head 0x39 o.g ||| put 46 o.d ||| put 0 o.imm)
  | .cmp o => some (head 0x40 o.g ||| put 46 o.d ||| put 40 o.a ||| put 34 o.b ||| put 27 (b1 o.fea) ||| put 26 (b1 o.feb) ||| put 16 o.cond)
  | .cmpi o => some (head 0x3A o.g ||| put 46 o.d ||| put 40 o.a ||| put 39 (b1 o.fea) ||| put 32 o.cond ||| put 0 o.imm)
  | .pand o => some (head 0x41 o.g ||| put 46 o.d ||| put 40 o.a ||| put 34 o.b)
  | .por o => some (head 0x42 o.g ||| put 46 o.d ||| put 40 o.a ||| put 34 o.b)
  | .pxor o => some (head 0x43 o.g ||| put 46 o.d ||| put 40 o.a ||| put 34 o.b)
  | .pnot o => some (head 0x44 o.g ||| put 46 o.d ||| put 40 o.a)
  | .pmov o => some (head 0x45 o.g ||| put 46 o.d ||| put 40 o.a)
  | .br o => some (head 0x50 o.g ||| put 0 o.off)
  | .jal o => some (head 0x51 o.g ||| put 46 o.d ||| put 0 o.off)
  | .jr o => some (head 0x52 o.g ||| put 40 o.a ||| put 27 (b1 o.fea))
  | .loop o => some (head 0x53 o.g ||| put 40 o.a ||| put 39 (b1 o.fea) ||| put 0 o.imm)
  | .loopi o => some (head 0x54 o.g ||| put 40 (o.count.extractLsb' 7 6) ||| put 32 (o.count.extractLsb' 0 7) ||| put 0 o.imm)
  | .lbrk o => some (head 0x55 o.g)
  | .endTask o => some (head 0x56 o.g)
  | .send o => some (head 0x57 o.g ||| put 40 o.a ||| put 34 o.b ||| put 27 (b1 o.fea) ||| put 26 (b1 o.feb))
  | .wait o => some (head 0x58 o.g ||| put 46 o.chan ||| put 45 (b1 o.all) ||| put 39 o.tmo ||| put 36 o.c0.kind ||| put 30 o.c0.reg ||| put 27 o.c1.kind ||| put 21 o.c1.reg ||| put 18 o.c2.kind ||| put 12 o.c2.reg ||| put 9 o.c3.kind ||| put 3 o.c3.reg)
  | .popFail o => some (head 0x59 o.g ||| put 46 o.d ||| put 40 o.a ||| put 34 o.p ||| put 27 (b1 o.fea))
  | .popBlock o => some (head 0x59 o.g ||| put 40 o.a ||| put 19 o.chan ||| put 27 (b1 o.fea) ||| put 16 (1 : BitVec 9))
  | .push o => some (head 0x5A o.g ||| put 40 o.a ||| put 34 o.b ||| put 27 (b1 o.fea) ||| put 26 (b1 o.feb))
  | .spec o => some (head 0x5B o.g ||| put 32 o.cond ||| put 40 o.a ||| put 0 o.imm)
  | .mfs o => some (head 0x5E o.g ||| put 46 o.d ||| put 40 o.a ||| put 27 (b1 o.fea) ||| put 16 o.n)
  | .mts o => some (head 0x5F o.g ||| put 40 o.a ||| put 27 (b1 o.fea) ||| put 16 o.n)
  | .mtsChbind o => some (head 0x5F o.g ||| put 40 o.a ||| put 34 o.b ||| put 27 (b1 o.fea) ||| put 26 (b1 o.feb) ||| put 16 (0x107 : BitVec 9))
  | .mtsCvstat o => some (head 0x5F o.g ||| put 40 o.a ||| put 27 (b1 o.fea) ||| put 16 (0x00B : BitVec 9))
  | .mtsRailsel o => some (head 0x5F o.g ||| put 40 o.a ||| put 27 (b1 o.fea) ||| put 16 (0x108 : BitVec 9))
  | .mtsBudget o => some (head 0x5F o.g ||| put 40 o.a ||| put 27 (b1 o.fea) ||| put 16 (0x10A : BitVec 9))
  | .mtsPermits o => some (head 0x5F o.g ||| put 40 o.a ||| put 27 (b1 o.fea) ||| put 16 (0x109 : BitVec 9))
  | .mtsClasp o => some (head 0x5F o.g ||| put 40 o.a ||| put 27 (b1 o.fea) ||| put 19 (0x22 : BitVec 6) ||| put 16 o.k)
  | .mtsEpc o => some (head 0x5F o.g ||| put 40 o.a ||| put 27 (b1 o.fea) ||| put 16 (0x101 : BitVec 9))
  | .ld o => some (head 0x60 o.g ||| put 46 o.d ||| put 40 o.a ||| put 32 o.br ||| put 31 (b1 o.fea) ||| put 30 (b1 o.fed) ||| put 28 o.sz ||| put 25 o.scope ||| put 23 o.ord ||| put 21 (b1 o.bulk) ||| put 0 o.imm)
  | .st o => some (head 0x61 o.g ||| put 46 o.d ||| put 40 o.a ||| put 32 o.br ||| put 31 (b1 o.fea) ||| put 30 (b1 o.fed) ||| put 28 o.sz ||| put 25 o.scope ||| put 23 o.ord ||| put 21 (b1 o.bulk) ||| put 0 o.imm)
  | .ldp o => some (head 0x62 o.g ||| put 46 o.d ||| put 40 o.a ||| put 32 o.br ||| put 31 (b1 o.fea) ||| put 30 (b1 o.fed) ||| put 28 o.sz ||| put 25 o.scope ||| put 23 o.ord ||| put 21 (b1 o.bulk) ||| put 0 o.imm)
  | .stp o => some (head 0x63 o.g ||| put 46 o.d ||| put 40 o.a ||| put 32 o.br ||| put 31 (b1 o.fea) ||| put 30 (b1 o.fed) ||| put 28 o.sz ||| put 25 o.scope ||| put 23 o.ord ||| put 21 (b1 o.bulk) ||| put 0 o.imm)
  | .recld o => some (head 0x64 o.g ||| put 40 o.a ||| put 32 o.br ||| put 31 (b1 o.fea) ||| put 25 o.scope ||| put 23 o.ord ||| put 21 (b1 o.bulk) ||| put 0 o.imm ||| put 28 (3 : BitVec 2))
  | .recst o => some (head 0x65 o.g ||| put 40 o.a ||| put 32 o.br ||| put 31 (b1 o.fea) ||| put 25 o.scope ||| put 23 o.ord ||| put 21 (b1 o.bulk) ||| put 0 o.imm ||| put 28 (3 : BitVec 2))
  | .recset o => some (head 0x66 o.g ||| put 46 o.d ||| put 32 o.br ||| put 30 (b1 o.fed) ||| put 0 o.w)
  | .recget o => some (head 0x67 o.g ||| put 46 o.d ||| put 32 o.br ||| put 30 (b1 o.fed) ||| put 0 o.w)
  | .aadd o => some (head 0x70 o.g ||| put 46 o.d ||| put 40 o.a ||| put 32 o.br ||| put 31 (b1 o.fea) ||| put 30 (b1 o.fed) ||| put 28 o.sz ||| put 25 o.scope ||| put 23 o.ord ||| put 21 (b1 o.uns) ||| put 15 o.v ||| put 9 o.cmp ||| put 0 o.imm)
  | .amin o => some (head 0x71 o.g ||| put 46 o.d ||| put 40 o.a ||| put 32 o.br ||| put 31 (b1 o.fea) ||| put 30 (b1 o.fed) ||| put 28 o.sz ||| put 25 o.scope ||| put 23 o.ord ||| put 21 (b1 o.uns) ||| put 15 o.v ||| put 9 o.cmp ||| put 0 o.imm)
  | .amax o => some (head 0x72 o.g ||| put 46 o.d ||| put 40 o.a ||| put 32 o.br ||| put 31 (b1 o.fea) ||| put 30 (b1 o.fed) ||| put 28 o.sz ||| put 25 o.scope ||| put 23 o.ord ||| put 21 (b1 o.uns) ||| put 15 o.v ||| put 9 o.cmp ||| put 0 o.imm)
  | .aand o => some (head 0x73 o.g ||| put 46 o.d ||| put 40 o.a ||| put 32 o.br ||| put 31 (b1 o.fea) ||| put 30 (b1 o.fed) ||| put 28 o.sz ||| put 25 o.scope ||| put 23 o.ord ||| put 21 (b1 o.uns) ||| put 15 o.v ||| put 9 o.cmp ||| put 0 o.imm)
  | .aor o => some (head 0x74 o.g ||| put 46 o.d ||| put 40 o.a ||| put 32 o.br ||| put 31 (b1 o.fea) ||| put 30 (b1 o.fed) ||| put 28 o.sz ||| put 25 o.scope ||| put 23 o.ord ||| put 21 (b1 o.uns) ||| put 15 o.v ||| put 9 o.cmp ||| put 0 o.imm)
  | .axor o => some (head 0x75 o.g ||| put 46 o.d ||| put 40 o.a ||| put 32 o.br ||| put 31 (b1 o.fea) ||| put 30 (b1 o.fed) ||| put 28 o.sz ||| put 25 o.scope ||| put 23 o.ord ||| put 21 (b1 o.uns) ||| put 15 o.v ||| put 9 o.cmp ||| put 0 o.imm)
  | .axchg o => some (head 0x76 o.g ||| put 46 o.d ||| put 40 o.a ||| put 32 o.br ||| put 31 (b1 o.fea) ||| put 30 (b1 o.fed) ||| put 28 o.sz ||| put 25 o.scope ||| put 23 o.ord ||| put 21 (b1 o.uns) ||| put 15 o.v ||| put 9 o.cmp ||| put 0 o.imm)
  | .acas o => some (head 0x77 o.g ||| put 46 o.d ||| put 40 o.a ||| put 32 o.br ||| put 31 (b1 o.fea) ||| put 30 (b1 o.fed) ||| put 28 o.sz ||| put 25 o.scope ||| put 23 o.ord ||| put 21 (b1 o.uns) ||| put 15 o.v ||| put 9 o.cmp ||| put 0 o.imm)
  | .ainc o => some (head 0x78 o.g ||| put 46 o.d ||| put 40 o.a ||| put 32 o.br ||| put 31 (b1 o.fea) ||| put 30 (b1 o.fed) ||| put 28 o.sz ||| put 25 o.scope ||| put 23 o.ord ||| put 21 (b1 o.uns) ||| put 15 o.v ||| put 9 o.cmp ||| put 0 o.imm)
  | .afadd o => some (head 0x79 o.g ||| put 46 o.d ||| put 40 o.a ||| put 32 o.br ||| put 31 (b1 o.fea) ||| put 30 (b1 o.fed) ||| put 28 o.sz ||| put 25 o.scope ||| put 23 o.ord ||| put 21 (b1 o.uns) ||| put 15 o.v ||| put 9 o.cmp ||| put 0 o.imm)
  | .amaxw o => some (head 0x7A o.g ||| put 46 o.d ||| put 40 o.a ||| put 32 o.br ||| put 31 (b1 o.fea) ||| put 30 (b1 o.fed) ||| put 28 o.sz ||| put 25 o.scope ||| put 23 o.ord ||| put 21 (b1 o.uns) ||| put 15 o.v ||| put 9 o.cmp ||| put 0 o.imm)
  | .fence o => some (head 0x80 o.g ||| put 16 o.scope)
  | .scfence o => some (head 0x81 o.g ||| put 16 (4 : BitVec 9))
  | .binit o => some (head 0x82 o.g ||| put 40 o.a ||| put 34 o.b ||| put 28 o.c ||| put 27 (b1 o.fea) ||| put 26 (b1 o.feb) ||| put 25 (b1 o.fec))
  | .barv o => some (head 0x83 o.g ||| put 46 o.d ||| put 40 o.a ||| put 27 (b1 o.fea))
  | .bexp o => some (head 0x84 o.g ||| put 40 o.a ||| put 34 o.b ||| put 27 (b1 o.fea) ||| put 26 (b1 o.feb))
  | .brd o => some (head 0x85 o.g ||| put 46 o.d ||| put 40 o.a ||| put 27 (b1 o.fea))
  | .cpy o => some (head 0x90 o.g ||| put 44 o.src ||| put 36 o.dst ||| put 30 o.a ||| put 24 o.b ||| put 19 o.sb ||| put 14 o.conv ||| put 12 o.rnd ||| put 11 (b1 o.sat))
  | .cpyg o => some (head 0x91 o.g ||| put 44 o.src ||| put 36 o.dst ||| put 30 o.a ||| put 24 o.b ||| put 19 o.sb ||| put 14 o.conv ||| put 12 o.rnd ||| put 11 (b1 o.sat) ||| put 0 o.idx)
  | .cpys o => some (head 0x92 o.g ||| put 44 o.src ||| put 36 o.dst ||| put 30 o.a ||| put 24 o.b ||| put 19 o.sb ||| put 14 o.conv ||| put 12 o.rnd ||| put 11 (b1 o.sat) ||| put 0 o.idx)
  | .cpyr o => some (head 0x93 o.g ||| put 44 o.src ||| put 36 o.dst ||| put 30 o.a ||| put 24 o.b ||| put 19 o.sb ||| put 14 o.conv ||| put 12 o.rnd ||| put 11 (b1 o.sat) ||| put 0 o.op)
  | .cpym o => some (head 0x94 o.g ||| put 44 o.src ||| put 36 o.dst ||| put 30 o.a ||| put 24 o.b ||| put 19 o.sb ||| put 14 o.conv ||| put 12 o.rnd ||| put 11 (b1 o.sat))
  | .fill o => some (head 0x95 o.g ||| put 36 o.dst ||| put 30 o.a ||| put 24 o.b ||| put 19 o.sb)
  | .publish o => some (head 0x96 o.g ||| put 36 o.dst ||| put 19 o.sb)
  | .scfg o => some (head 0xA0 o.g ||| put 44 o.src ||| put 24 o.b ||| put 19 o.sb)
  | .sgo o => some (head 0xA1 o.g ||| put 46 o.d ||| put 40 o.a ||| put 27 (b1 o.fea))
  | .snext o => some (head 0xA2 o.g ||| put 46 o.d ||| put 40 o.a ||| put 27 (b1 o.fea))
  | .sstop o => some (head 0xA3 o.g ||| put 46 o.d ||| put 40 o.a ||| put 27 (b1 o.fea))
  | .sbind o => some (head 0xA4 o.g ||| put 44 o.src ||| put 24 o.b ||| put 19 o.sb)
  | .sbar o => some (head 0xA5 o.g ||| put 40 o.a ||| put 27 (b1 o.fea))
  | .mtok o => some (head 0xA6 o.g ||| put 40 o.a ||| put 34 o.b ||| put 27 (b1 o.fea) ||| put 26 (b1 o.feb))
  | .trap o => some (head 0xF0 o.g ||| put 0 o.imm)
  | .bkpt o => some (head 0xF4 o.g ||| put 0 o.imm)
  | .eretResume o => some (head 0xF1 o.g)
  | .eretSkip o => some (head 0xF1 o.g ||| put 16 (1 : BitVec 9))
  | .tlbinv o => some (head 0xF2 o.g ||| put 40 o.a ||| put 34 o.b ||| put 27 (b1 o.fea) ||| put 26 (b1 o.feb))
  | .clasp o => some (head 0xF3 o.g ||| put 46 o.d ||| put 40 o.a ||| put 34 o.b ||| put 27 (b1 o.fea) ||| put 26 (b1 o.feb))
  | .save o => some (head 0xF5 o.g ||| put 46 o.d ||| put 40 o.a ||| put 34 o.b ||| put 28 o.c ||| put 27 (b1 o.fea) ||| put 26 (b1 o.feb) ||| put 25 (b1 o.fec))
  | .restore o => some (head 0xF6 o.g ||| put 46 o.d ||| put 40 o.a ||| put 27 (b1 o.fea))
  | .specResolve _ => none
  | .publishSwap _ => none
  | .scfgLoadDone _ => none
  | .replyFill _ => none
  | .ifetchLine _ => none
  | .qdesc _ => none
  | .ldesc _ => none
  | .qreset _ => none
  | .lkill _ => none
  | .xinv _ => none
  | .selftest _ => none
  | .attest _ => none
  | .hostAccess _ => none
  | .tailWrite _ => none
  | .queueClose _ => none
  | .queueDispense _ => none
  | .queueReread _ => none
  | .awaitReread _ => none
  | .schedulerDecision => none
  | .compactionMoveDone _ => none
  | .imageFetchDone _ => none
  | .preloadDone _ => none
  | .dispatch _ => none
  | .continuationPost _ => none
  | .waitTimeout _ => none
  | .timerSource _ => none
  | .gangEnd _ => none
  | .firing _ => none
  | .pass _ => none
  | .const _ => none
  | .iadd _ => none
  | .isub _ => none
  | .iaddc _ => none
  | .isubb _ => none
  | .imul _ => none
  | .imulh _ => none
  | .imacc _ => none
  | .imad _ => none
  | .iand _ => none
  | .ior _ => none
  | .ixor _ => none
  | .ishl _ => none
  | .ishr _ => none
  | .isar _ => none
  | .imin _ => none
  | .imax _ => none
  | .iminu _ => none
  | .imaxu _ => none
  | .icmp _ => none
  | .isel _ => none
  | .dot4 _ => none
  | .iabs _ => none
  | .ipopc _ => none
  | .iclz _ => none
  | .fadd _ => none
  | .fsub _ => none
  | .fmul _ => none
  | .ffma _ => none
  | .fmin _ => none
  | .fmax _ => none
  | .fcmp _ => none
  | .fsel _ => none
  | .fmod _ => none
  | .hadd2 _ => none
  | .hmul2 _ => none
  | .hfma2 _ => none
  | .hmax2 _ => none
  | .hdot2 _ => none
  | .cvtif _ => none
  | .cvtfi _ => none
  | .cvtfh _ => none
  | .cvthf _ => none
  | .rcp _ => none
  | .rsq _ => none
  | .sqrt _ => none
  | .exp2 _ => none
  | .log2 _ => none
  | .shufl _ => none
  | .shufr _ => none
  | .bcast _ => none
  | .xadd _ => none
  | .xmax _ => none
  | .xfadd _ => none
  | .hld _ => none
  | .hacc _ => none
  | .hfacc _ => none
  | .hout _ => none
  | .steer _ => none
  | .merge _ => none
  | .carry _ => none
  | .gate _ => none
  | .sink _ => none
  | .count _ => none
  | .lut4 _ => none
  | .repeatOp _ => none
  | .seq _ => none
  | .pipe _ => none
  | .stream _ => none
  | .mseq _ => none
  | .agWalkStart _ => none
  | .agReadToken _ => none
  | .agWrite _ => none
  | .agWriteDone _ => none
  | .muFifo _ => none
  | .muTable _ => none
  | .waccPush _ => none
  | .waccQuery _ => none
  | .waccMarker _ => none
  | .accrRequest _ => none
  | .lxConvert _ => none
  | .lxPlane _ => none
  | .claspDelivery _ => none
  | .configStep _ => none
  | .rollingSwap _ => none
  | .regionDone _ => none
  | .matrixAccept _ => none
  | .mxPinToken _ => none
  | .mma _ => none
  | .mmaz _ => none
  | .mzero _ => none
  | .mdrain _ => none
  | .mmar _ => none
  | .mmarz _ => none
  | .matrixTokenComplete _ => none
  | .xuSectorWrite _ => none
  | .xuCommandComplete _ => none
  | .collarReadRelease _ => none
  | .translationWalkDone _ => none
  | .routerRound _ => none
  | .periodicDrain => none
  | .stitch => none
  | .permitRefill _ => none
  | .budgetReload _ => none
  | .throttleChange _ => none
  | .powerGate _ => none
  | .watchdog _ => none
  | .memto _ => none
  | .domainNack _ => none
  | .retransmit _ => none
  | .nodeUnreachable _ => none
  | .linkRetrain _ => none
  | .patrolScrub _ => none
  | .schedulerPreempt _ => none
  | .mgmtPreempt _ => none
  | .logSeal _ => none
  | .holdEntry => none
  | .holdRecovery => none
  | .emergencySave => none
  | .powerLoss => none
  | .powerWindow _ => none
  | .thermalChange _ => none
  | .thermalTrip _ => none
  | .railSet _ => none
  | .coldReset _ => none
  | .warmReset => none
  | .h1Takeover _ => none
  | .shockEvent _ => none
  | .performedAtHome _ => none
  | .retrainingComplete _ => none
  | .schedulerRestore _ => none

end Sys2Proof
end

