-- ==== Sys2Proof/Machine/State.lean ====
section
/-! DEFINITION. The state of the module as plain data: everything the specification gives the machine, and State.reset. What
the accessors and operations do with it is in Ops.lean and the family files. -/

namespace Sys2Proof.Machine

/-! ### Causes, replies, registers -/

/-- Table 20-5: the causes. -/
inductive Cause where
  | illegal | priv | empty | align | bounds | format | xlate | prot | memto | watchdog | redundant | ecc
  | collar | barrier | queue | loop | link | frame | chan | trap | bkpt | domain
deriving DecidableEq, Repr, Inhabited

/-- What a trap or fault reports: cause, EINFO0.detail, EINFO1, EINFO2 (Table 20-5). -/
structure Trap where
  cause : Cause
  detail : Nat := 0
  info1 : Word := 0
  info2 : Word := 0
deriving DecidableEq, Repr, Inhabited

/-- One g register of a slot (R200, R203): value, empty bit, and the trap that a read of a poisoned register takes. -/
structure RegCell where
  v : Word
  empty : Bool
  poison : Option Trap
deriving DecidableEq, Repr, Inhabited

/-- One predicate (R213). -/
structure PredCell where
  v : Bool
  pending : Bool
deriving DecidableEq, Repr, Inhabited

/-- One entry of the hardware loop stack (R217). -/
structure LoopEntry where
  start : Word
  last : Word
  count : Word
deriving DecidableEq, Repr, Inhabited

/-- A gang instance's name: launch identifier (R155) and instance index. -/
structure GangId where
  launch : Nat
  inst : Nat
deriving DecidableEq, Repr, Inhabited

/-- A message (R46, Table 2-5): g1 to g7, g8, which of them are poisoned (R203), the kept registers of a continuation, the fault record
it reports, the continuation record it frees. -/
structure Msg where
  g : List Word
  aux : Word
  bad : List (Reg × Trap)
  kept : List RegCell
  frec : Option Nat
  cont : Option Nat
  /-- From the queue non-empty source (R49). -/
  fromQueue : Bool
deriving DecidableEq, Repr, Inhabited

/-! ### Requests -/

/-- A port of a core (R357): whose accesses keep one order, and which waits for its walks (R100). -/
inductive Port where
  /-- A CP slot's accesses or its instruction fetch, by its task's serial number. -/
  | slot (core n : Nat) (serial : BitVec 48)
  /-- A unit of a region: its code in Table 20-3 and its key. -/
  | unit (core hdl kind key : Nat)
  | command (core ix : Nat)
  | token (core id : Nat)
  | load (core ix : Nat)
  /-- The fetch of an image (R183). -/
  | image (core dom page : Nat)
deriving DecidableEq, Repr, Inhabited

/-- Half bytes written at once: half-byte keys and their values (R7). -/
abbrev Part := List (Nat × Nat)

/-- Where an access is performed (R26): a byte of memory by node and physical address, or a queue's control line. -/
inductive Home where
  | mem (key : Nat)
  | ctl (q : Nat) (off : Nat)
deriving DecidableEq, Repr, Inhabited

/-- A translated access: `size` bytes at `home`, of which bytes lo to lo + len - 1 are performed (R103); the VA it was issued
with; the slot barrier that holds a collar read (R383). -/
structure Target where
  home : Home
  va : Nat
  size : Nat
  lo : Nat
  len : Nat
  hold : Option Nat
deriving DecidableEq, Repr, Inhabited

/-- SGO, SNEXT, SSTOP (Table 8-7). -/
inductive Steering where
  | go | next | stop
deriving DecidableEq, Repr, Inhabited

/-- What a request does at its home. -/
inductive ReqOp where
  /-- LD, or LDP when `pair`. -/
  | load (d : Reg) (pair : Bool)
  /-- ST, STP, RECST: the bytes to store. -/
  | store (data : List Byte)
  /-- An atomic. -/
  | atomic (d : Reg) (op : AtomOp) (v cmp : Word)
  /-- RECLD. -/
  | recld (br : RecIx)
  /-- A POP in fail mode. -/
  | pop (d : Reg) (p : PReg) (q : Nat)
  /-- BRD: which half. -/
  | brd (d : Reg) (high : Bool)
  /-- BINIT, BARV, BEXP at a barrier word; `va` is the VA used. -/
  | binit (w : BitVec 128) (core : Nat)
  | barv
  | bexp (n : Nat)
  /-- SEND to a channel of a core: g1 to g7 and g8. -/
  | send (core chan : Nat) (g : List Word) (aux : Word)
  /-- PUSH: a word of its payload, read as a CP load; the reservation, the sequence word and the tail (R225). -/
  | payload
  | reserve (q : Nat)
  | pushTail (q : Nat) (v : Word)
  /-- RECGET: a reply that needs no travel. -/
  | value (d : Reg) (v : Word)
  /-- A unit's read: its bytes come back. -/
  | fetch
  /-- A unit's write: its parts, of which one at a time is performed; whether one has been; whether it is data of a destination sector
  (R330). -/
  | put (parts : List Part) (begun : Bool) (data : Bool)
  /-- CPYR's read-modify-write of a sector: elements by their half-byte keys, none where bounds drop one,
  each with the code that it is combined with (R333). -/
  | combine (op : BitVec 4) (view : Nat) (rnd : BitVec 2) (elems : List (List (Option Nat) × Nat))
  /-- A sector's decrement at a barrier word (R330). -/
  | decrement
  /-- PUBLISH at the hem die: the lining, the slot and the first request number after its earlier operations (R336). -/
  | publish (lid slot mark : Nat)
  /-- A message of a hardware source at a hem die to a channel of a core (R49). -/
  | message (core chan : Nat) (m : Msg)
  /-- PUBLISH by a barrier word at a key, at the hem die (R371). -/
  | publishWord (lid key : Nat)
  /-- A report of a barrier word's completion, from the word's home to the core that it names (R371). -/
  | report (core : Nat) (t : Trap) (g : Option GangId)
  /-- A steering instruction, until its reply is back: acting at the region, or waiting its turn there (R192). -/
  | steer (d : Reg) (hdl : Nat) (how : Steering)
deriving DecidableEq, Repr, Inhabited

/-- What a reply brings: register values, registers that it fills poisoned (R203), registers refilled unchanged (R224), a unit's bytes and
the poisoned 64-bit words among them (R417). -/
structure Reply where
  regs : List (Reg × Word)
  bad : List (Reg × Trap)
  refill : List Reg
  pred : Option (PReg × Bool)
  record : Option (RecIx × BitVec 256)
  bytes : List Byte
  marred : List Nat
  error : Option Trap
deriving DecidableEq, Repr, Inhabited

/-- How far a request has come: to be issued again, its translation first (R423); travelling, at its home, performed there with its reply
travelling, reply arrived. -/
inductive ReqPhase where
  | unsent
  | sent
  | home
  | done (r : Reply)
  | back (r : Reply)
deriving DecidableEq, Repr, Inhabited

/-- An outstanding request of a core (R200, R415). -/
structure Req where
  id : Nat
  slot : Nat
  /-- The task still owns the reply (R204, R229). -/
  live : Bool
  gang : Option GangId
  dom : Nat
  priv : Bool
  op : ReqOp
  tgt : Target
  ord : BitVec 2
  scope : BitVec 3
  bulk : Bool
  age : Nat
  phase : ReqPhase
  /-- Sequence number towards another node (R419). -/
  remote : Option Nat
  /-- Ticks since it was last sent to another node (R419). -/
  resend : Nat
  /-- A store that a resolved speculation issued, or a combine: performed after the ones before it (R229, R333). -/
  inOrder : Bool
  /-- At an HBM arbiter (R349, R350): its arrival number, whether a budget has held it, the latency grants that passed it over. -/
  arrived : Option Nat
  held : Bool
  passed : Nat
  /-- The unit that made it; none for a control processor's. -/
  unit : Option Port
deriving DecidableEq, Repr, Inhabited

/-! ### Slots -/

/-- R197. Ready and stalled are not stored: they follow from the next instruction. Nor is halted: it follows from the gang (R422). -/
inductive SlotStatus where
  | free | occupied | suspended
deriving DecidableEq, Repr, Inhabited

/-- R227 to R230: an unresolved SPEC. -/
structure Spec where
  reg : Reg
  cond : BitVec 4
  target : Word
  /-- Address of the SPEC itself (R232). -/
  pc : Word
  regs : Tab RegCell
  preds : Tab PredCell
  loops : List LoopEntry
  /-- Queued stores, oldest first. -/
  stores : List Req
  /-- How the fill of gA decided the condition (R229, R230), once it has come. -/
  outcome : Option Bool
  /-- The first request number issued after the SPEC. -/
  mark : Nat
  /-- The lining that each queued store's record names (R107), by which it translates when it is issued. -/
  into : List (Option Nat)
  /-- The condition held, and the queued stores have begun to be issued (R229). -/
  committing : Bool
deriving DecidableEq, Repr, Inhabited

/-- Progress inside an instruction that takes effect in parts. -/
inductive Prog where
  | idle
  /-- SCFENCE: the stitch observed when the drain completed (R363). -/
  | scfence (s : Word)
  /-- The instruction's own request, whose completion it awaits (R222, R373). -/
  | awaiting (id : Nat)
  /-- PUSH: its step (0 reads the payload, 1 to 4 are R225's), the request of that step once issued, the index reserved, the payload
  words read. -/
  | push (step : Nat) (id : Option Nat) (i : Word) (data : List Word)
  /-- SAVE: the gang is being saved, and has been sealed (R428). -/
  | saving (g : GangId)
  | sealed
  /-- TLBINV: translations removed, old accesses draining (R412). -/
  | invalidated
  /-- MFS into an empty register: the value at issue, which waits for the pending fill (R202, R235). -/
  | captured (v : Word)
deriving DecidableEq, Repr, Inhabited

/-- A task slot (R197). -/
structure Slot where
  status : SlotStatus
  pc : Word
  regs : Tab RegCell
  preds : Tab PredCell
  loops : List LoopEntry
  spec : Option Spec
  serial : BitVec 48
  chan : BitVec 6
  priv : Bool
  /-- The fault record that the task handles (R403). -/
  handler : Option Nat
  gang : Option GangId
  prog : Prog
  /-- It serves a message of the queue non-empty source (R49). -/
  fromQueue : Bool
deriving DecidableEq, Repr, Inhabited

/-! ### Channels, continuations, fault records -/

/-- A channel (R46 to R52): the binding's fields, the FIFO, the events and messages held behind it, the passes, the gang that
bound it, the reference ticks left to its timer's next period and the periods elapsed and not yet posted. -/
structure Chan where
  valid : Bool
  prio : BitVec 3
  priv : Bool
  entry : BitVec 49
  src : BitVec 4
  param : BitVec 48
  fifo : List Msg
  held : List Msg
  passes : Nat
  gang : Option GangId
  timerLeft : Nat
  elapsed : Nat
deriving DecidableEq, Repr, Inhabited

/-- One condition slot of a WAIT continuation: its kind, the register's value, and what was observed when it held (R57). -/
structure Cond where
  kind : BitVec 3
  arg : Word
  held : Option Word
deriving DecidableEq, Repr, Inhabited

/-- What a continuation waits for. -/
inductive ContKind where
  | wait (all : Bool) (conds : List Cond)
  | pop (q : Nat) (seq : Nat)
deriving DecidableEq, Repr, Inhabited

/-- A continuation record (R55). -/
structure Cont where
  chan : BitVec 6
  kind : ContKind
  /-- Reference ticks left to the timeout, if it gave one. -/
  left : Option Nat
  kept : List RegCell
  gang : Option GangId
  dom : Nat
  priv : Bool
  /-- Its message is posted and not yet dispatched (R56). -/
  posted : Bool
deriving DecidableEq, Repr, Inhabited

/-- The subject of a fault record (R402). -/
inductive Subject where
  | slot (n : Nat)
  | region (hdl : Nat)
  | command (ix : Nat)
  | token (ix : Nat)
  | report
deriving DecidableEq, Repr, Inhabited

/-- A fault record (R402, Tables 20-1 to 20-4). -/
structure Frec where
  subject : Subject
  cause : Cause
  epc : Word
  info0 : Word
  info1 : Word
  info2 : Word
  info3 : Word
  mask : Word
  gang : Option GangId
  /-- EPC was rewritten (R408). -/
  moved : Bool
deriving DecidableEq, Repr, Inhabited

/-! ### Regions and banks -/

/-- R185. -/
inductive BankState where
  | valid | override | invalid
deriving DecidableEq, Repr, Inhabited

/-- A frame bank (R185): its state, its frames, and the ones whose stored word is poisoned (R417). -/
structure Bank where
  state : BankState
  frames : List (BitVec 256)
  poisoned : List Nat
deriving DecidableEq, Repr, Inhabited

/-- R38, R192, R193. -/
inductive RunState where
  | held | running | faulted
  | done (status : Nat)
deriving DecidableEq, Repr, Inhabited

/-- An SBIND binding of an AG (R339): the record, the counter. -/
structure Bind where
  record : RecIx
  sb : SbIx
  slot : Nat
  /-- The task that bound it was privileged (R94). -/
  priv : Bool
deriving DecidableEq, Repr, Inhabited

/-! ### Tokens and the fabric (R237 to R316) -/

/-- R237. -/
inductive TokKind where
  | vector | scalar | control
deriving DecidableEq, Repr, Inhabited

/-- A token: a scalar is lane 0, a control token bit 0 of lane 0; scale metadata attached by an AG or LX with msrc = 1 (R314). -/
structure Token where
  kind : TokKind
  data : BitVec 512
  mask : BitVec 16
  mark : BitVec 3
  scale : Option (BitVec 128)
deriving DecidableEq, Repr, Inhabited

/-- The token that a CU stage holds, with the immediate that si0 or si1 gave it (R250). -/
structure StageTok where
  tok : Token
  imm : Option Lane
deriving DecidableEq, Repr, Inhabited

/-- What a CT operator slot keeps between firings (R262 to R272, R308): whether a run or pass is in progress (CARRY: state
LOOP), whether the one pass at activation has begun, tokens emitted and dones received in it, its length, LUT4's last output,
the token it repeats, MSEQ's template, whether the last marker or done is still owed. -/
structure CtState where
  on : Bool
  begun : Bool
  sent : Nat
  dones : Nat
  total : Nat
  out : Bool
  tok : Option Token
  template : Option (BitVec 256)
  owed : Bool
  finished : Bool
deriving DecidableEq, Repr, Inhabited

/-- A write that a unit has still to send: the VA that it is for, and what it does at its home. -/
structure Put where
  va : Nat
  op : ReqOp
deriving DecidableEq, Repr, Inhabited

/-- One translated page of a command (R329): VA[51:16], whether it was translated to be written, its physical page and its format
word, the lines of it that are queues' control lines, each with its queue (R145). -/
structure XuPage where
  page : Nat
  dst : Bool
  key : Nat
  fmt : Nat
  planed : Bool
  scale : Nat
  lines : List (Nat × Nat)
deriving DecidableEq, Repr, Inhabited

/-- A scale group that an AG's conversion fills (R80): its page, the VA of its first byte, which of its bytes are in bounds, the codes given so
far by element, the format that they are in. -/
structure AgGroup where
  page : XuPage
  va : Nat
  bounds : List Bool
  codes : Tab Nat
  from_ : Nat
deriving DecidableEq, Repr, Inhabited

/-- What an AG keeps (R274 to R278): a walk in progress with the record copied at its start, the elements done, the counter it
counts on, whether the walk at activation has begun, whether its EOS done is owed. -/
structure AgState where
  walking : Bool
  begun : Bool
  record : BitVec 256
  recIx : Nat
  pos : Nat
  sb : Option Bind
  owed : Bool
  /-- It has emitted the EOS that ends its last walk (R289). -/
  ended : Bool
  /-- Writes of tokens taken that are still to be sent, and the scale group in progress. -/
  out : List Put
  group : Option AgGroup
  /-- Writes that failed, which are sent again when the region goes on. -/
  failed : List Put
deriving DecidableEq, Repr, Inhabited

/-- One lane's window (R87, R389): stored folds of the front, oldest first, and contributions of the back, oldest first, each
a value and the index that FARGMAX pairs with it; the lane's push index. -/
structure Window where
  front : List (Lane × Lane)
  back : List (Lane × Lane)
  n : Lane
deriving DecidableEq, Repr, Inhabited

/-- What an MU's mode keeps (R281, R389 to R393, R309): FIFO tokens, next line; windows by lane, W, whether a WSET awaits its
length, which kind was served last; the rows that an ACCR request still emits. -/
structure MuState where
  fifo : List Token
  line : Nat
  wins : Tab Window
  w : Nat
  wset : Bool
  lastPush : Option Bool
  rows : List Token
deriving DecidableEq, Repr, Inhabited

/-- What an LX keeps (R313 to R316): the input elements not yet converted, the output elements not yet emitted, the
metadata of the group in progress, input and output, how many elements of the group have passed. -/
structure LxState where
  ins : List (BitVec 32)
  outs : List (BitVec 32)
  metaIn : Option (BitVec 128)
  metaOut : Option (BitVec 128)
  pos : Nat
deriving DecidableEq, Repr, Inhabited

/-- What waits at mx.1 for one pin, in that pin's order (R307): the done of an accepted token, or a marker. -/
inductive PinItem where
  | pending (id : Nat)
  | done
  | marker (m : BitVec 3)
deriving DecidableEq, Repr, Inhabited

/-- The fabric state of a region, by relative patch: arcs by arc identifier (Table 10-6), CU stage tokens and hold registers,
CT, AG, MU and LX state, readers that have taken the token at a CT pin (R262), tokens held at a boundary pin (R188), whether the
token at mx.0 is offered (R307) and the items owed on mx.1, pins (patch × 128 + pin): inputs that have taken EOS since activation and
outputs whose last token was EOS (R188, R289), patches swapped in the rolling step in progress, the arcs of the configuration that it steps
from with the tracks by which they enter their readers' patches, firings, special-function firings and AG requests left until the next refill (R352). -/
structure Fabric where
  arcs : Tab (List Token)
  stages : Tab StageTok
  holds : Tab Lane
  cts : Tab CtState
  ags : Tab AgState
  mus : Tab MuState
  lxs : Tab LxState
  taken : Tab (List Nat)
  edges : Tab (List Token)
  offered : List Nat
  owed : Tab (List PinItem)
  eos : List Nat
  swapped : List Nat
  before : List (Nat × Option Nat)
  fabLeft : Tab Nat
  sfuLeft : Tab Nat
  /-- None: the full rate. -/
  memLeft : Option Nat
deriving DecidableEq, Repr, Inhabited

/-- A region (R37, R38, R185 to R194). -/
structure Region where
  gang : GangId
  dom : Nat
  base : Nat
  len : Nat
  cls : Nat
  /-- The image its list indexes, by VA[51:16]. -/
  page : Nat
  list : List Nat
  /-- The relative patches that name an mx pin in any configuration of the list (R455). -/
  mxNames : List Nat
  cfgpc : Nat
  dims : List Nat
  idx : List Nat
  run : RunState
  /-- Its final quiescence or status is owed: the region-done message (R290). -/
  doneOwed : Option Nat
  /-- The root controller has emitted done (R187). -/
  rootDone : Bool
  /-- An SNEXT, an SSTOP whose quiescence is not complete (R192, R194). -/
  next : Bool
  stop : Bool
  active : Tab Bank
  shadow : Tab Bank
  fab : Fabric
  binds : Tab Bind
  watch : Nat
  /-- Any token moved since the last reference tick counted (R414). -/
  moved : Bool
  /-- Frozen by compaction until its move to base `target` is done (R169). -/
  moving : Bool
  target : Nat
deriving DecidableEq, Repr, Inhabited

/-! ### The matrix engine and the transfer unit -/

/-- Where a matrix token came from (R294, R307). -/
inductive MxSource where
  | cp (slot : Nat) (epc : Word)
  | pin (hdl patch : Nat)
deriving DecidableEq, Repr, Inhabited

/-- R294, R311. -/
inductive MxPhase where
  | queued | started | faulted | complete
deriving DecidableEq, Repr, Inhabited

/-- A matrix token in the engine (R294, R302, R311): its words, the records copied at acceptance, whose it is, whether its start
checks have passed and its tiles are set, its resume index (a k-group, or a unit of a drain), the halves it holds (2: the drain path), the mark
of a poisoned record (R324), the reference ticks for which it has been held at a collar slot (R415). -/
structure MxToken where
  id : Nat
  w0 : Word
  w1 : Word
  arec : BitVec 256
  brec : BitVec 256
  source : MxSource
  gang : Option GangId
  dom : Nat
  priv : Bool
  phase : MxPhase
  zeroed : Bool
  resume : Nat
  halves : List Nat
  trap : Option Trap
  age : Nat
  /-- Writes of rows converted that are still to be sent. -/
  out : List Put
  /-- The permits of its next k-group that it has taken (R352). -/
  paid : Nat
deriving DecidableEq, Repr, Inhabited

/-- An accumulator tile (R293): elements by row × 64 + column (+0 when unlisted), the check copy of a redundant tile, the count
of accumulating tokens, poisoned elements, the gangs whose tokens named it. -/
structure Tile where
  elems : Tab Lane
  check : Option (Tab Lane)
  applied : Nat
  poisoned : List Nat
  users : List GangId
deriving DecidableEq, Repr, Inhabited

/-- The commands of the transfer unit (R325). -/
inductive XuOp where
  | cpy | cpyg | cpys | cpyr (op : BitVec 4) | cpym | fill | publish
deriving DecidableEq, Repr, Inhabited

/-- R329. -/
inductive XuPhase where
  | issued | moving | faulted
deriving DecidableEq, Repr, Inhabited

/-- What is moved at once: an element, or a scale group (R328): offset and length in half bytes, first element, elements. -/
structure Chunk where
  off : Int
  len : Nat
  first : Nat
  cnt : Nat
deriving DecidableEq, Repr, Inhabited

/-- A piece of a destination: an element, a chunk of several, or the elements that fall in one scale group of a DB page, with their
places there, under a view that is not DB (R80, R104). -/
inductive Piece where
  | elem (i : Nat)
  | chunk (u : Chunk)
  | gather (group : Nat) (elems : List (Nat × Nat))
deriving DecidableEq, Repr, Inhabited

/-- A command (R325 to R336): records copied at issue with their numbers, the issuer, recorded progress in sectors put together, its translations,
the work before it, source bytes not to be read again. -/
structure XuCmd where
  op : XuOp
  src : BitVec 256
  dst : BitVec 256
  idx : BitVec 256
  srcIx : RecIx
  dstIx : RecIx
  idxIx : RecIx
  barrier : Word
  gb : Word
  hasBar : Bool
  hasCnt : Bool
  conv : BitVec 5
  rnd : BitVec 2
  sat : Bool
  sb : SbIx
  slot : Nat
  epc : Word
  gang : Option GangId
  dom : Nat
  priv : Bool
  phase : XuPhase
  progress : Nat
  pages : List XuPage
  /-- The barrier word's VA and key, once translated (R329). -/
  bar : Option (Nat × Nat)
  /-- The indices, once read (R332). -/
  index : Option (List Nat)
  /-- The destination sectors still to be written, each with the pieces that write in it. -/
  work : List (Nat × List Piece)
  /-- Writes of the sector in progress still to be sent. -/
  out : List Put
  /-- The first request number after the slot's earlier operations (R336). -/
  mark : Nat
  /-- How many performed sectors' barrier decrements are owed (R330). -/
  owed : Nat
  /-- Source bytes that the command itself has overwritten, as they stood before (R331). -/
  undo : List Host.Cell
  /-- Pieces put together that reach into sectors not yet written, with the half bytes that they write, by VA (R80). -/
  buf : List (Piece × List (Nat × Nat))
  /-- Sectors put together that a fault kept from being performed, by their place in the command's order (R329). -/
  again : List Nat
  /-- CPYM: source bytes read, which are read once (R334). -/
  once : List Host.Cell
deriving DecidableEq, Repr, Inhabited

/-- An SCFG load in progress (R191): its record and the record's number. -/
structure Scfg where
  record : BitVec 256
  ix : Nat
  hdl : Nat
  n : Nat
  sb : SbIx
  slot : Nat
  gang : Option GangId
  dom : Nat
  priv : Bool
deriving DecidableEq, Repr, Inhabited

/-- A clasp (R282), held being a count of the arc. -/
structure Clasp where
  en : Bool
  hit : Bool
  budget : BitVec 16
  hdl : BitVec 3
  arc : BitVec 24
deriving DecidableEq, Repr, Inhabited

/-- R430: what a gang has named on a core. -/
structure Marks where
  records : BitVec 256
  counters : BitVec 32
  clasps : BitVec 8
  pages : BitVec 256
deriving DecidableEq, Repr, Inhabited

/-- A gang on one of its member cores: CVSTAT (R83), marks (R430), throttle level in force (R175), rank (R40). -/
structure CoreGang where
  cvstat : BitVec 3
  marks : Marks
  level : Nat
  rank : Nat
  width : Nat
deriving DecidableEq, Repr, Inhabited

/-! ### Images, the instruction buffer, the router -/

/-- A configuration of an image: its frames by relative patch (R181). -/
abbrev ConfigFrames := List (List (BitVec 256))

/-- A region-table entry (R180): the list, dimension counts. -/
structure RegionEntry where
  list : List Nat
  dims : List Nat
deriving DecidableEq, Repr, Inhabited

/-- An entry-table entry (R179). -/
structure TaskEntry where
  off : Nat
  prio : BitVec 3
  src : BitVec 4
  param : BitVec 48
deriving DecidableEq, Repr, Inhabited

/-- A resident image (R171, R183); `nfrm` frames of the store hold it. -/
structure Image where
  dom : Nat
  page : Nat
  pages : List Nat
  nfrm : Nat
  coff : Nat
  clen : Nat
  configs : List ConfigFrames
  regions : List RegionEntry
  entries : List TaskEntry
  poisoned : Bool
deriving DecidableEq, Repr, Inhabited

/-- An image being fetched into a core's store (R171, R184): the frames that are reserved for it. -/
structure Fetch where
  dom : Nat
  page : Nat
  nfrm : Nat
deriving DecidableEq, Repr, Inhabited

/-- A line of the instruction buffer (R195), keyed by domain and VA[51:6]. -/
structure ILine where
  dom : Nat
  line : Nat
  bytes : List Byte
deriving DecidableEq, Repr, Inhabited

/-- A packet in a router (R341, R342): the request it belongs to, whether it carries the reply, where it goes, its flits, its
age (R344). -/
structure Packet where
  core : Nat
  req : Nat
  reply : Bool
  x : Nat
  y : Nat
  flits : Nat
  age : Nat
deriving DecidableEq, Repr, Inhabited

/-- An output port (R343, R353): VC credits, the VC that won last and each VC's input that won last, how many flits of the packet
that won last are still to follow, and which packet that is: its core, its request, whether it is the reply. -/
structure OutPort where
  credits : Tab Nat
  lastVc : Nat
  lastIn : Tab Nat
  busy : Nat
  sending : Option (Nat × Nat × Bool)
deriving DecidableEq, Repr, Inhabited

/-- A router (R341): packet queues by input port × 4 + VC, output ports by number. -/
structure Router where
  queues : Tab (List Packet)
  outs : Tab OutPort
deriving DecidableEq, Repr, Inhabited

/-! ### A core -/

/-- One core (R25). -/
structure Core where
  domain : BitVec 4
  ptbase : Word
  wdog : BitVec 32
  memto : BitVec 32
  sgate : Bool
  mxr : BitVec 3
  cpr : BitVec 3
  /-- The rails on which the matrix engine and the CP run now (R174). -/
  mxRail : BitVec 3
  cpRail : BitVec 3
  permits : Word
  /-- PERMITS and BUDGET as in force since the last stitch (R349, R352). -/
  permitsNow : Word
  budget : BitVec 32
  budgetNow : BitVec 32
  budgetHeld : BitVec 16
  /-- A request was held by a budget in this stitch. -/
  heldNow : Bool
  /-- Units left by stack × 2 + class (R349). -/
  budgetLeft : Tab Nat
  mxLeft : Nat
  /-- The stitches whose permit refill and budget reload have been made. -/
  refilled : Nat
  reloaded : Nat
  clasps : Tab Clasp
  slots : Tab Slot
  lastSlot : Nat
  chans : Tab Chan
  lastChan : Nat
  serial : BitVec 48
  conts : Tab Cont
  frecs : Tab Frec
  /-- R402: reports that no fault record was free for, oldest first. -/
  heldReports : List Frec
  records : Tab (BitVec 256)
  /-- Records marked poisoned by a failed RECLD, with the trap (R322). -/
  badRecords : Tab Trap
  sbs : Tab (BitVec 24)
  cvPriv : BitVec 3
  gangs : List (GangId × CoreGang)
  ibuf : List ILine
  store : List Image
  fetches : List Fetch
  reqs : List Req
  nextReq : Nat
  xus : Tab XuCmd
  scfgs : Tab Scfg
  regions : Tab Region
  tiles : Tab Tile
  mxq : List MxToken
  nextTok : Nat
  mxLast : Nat
  router : Router
  /-- Physical patches and units without power, and the stitches they have idled (R176, R177). -/
  gated : List GateUnit
  idle : Tab Nat
  patchRails : Tab (BitVec 3)
  withheld : Bool
  /-- The core's translation buffer (R99): VA[51:16] and the entry as walked. -/
  tlb : List (Nat × BitVec 128)
deriving DecidableEq, Repr, Inhabited

/-! ### The module -/

/-- A queue (R144, R145): its descriptor's fields, its control line, what its controller has seen, its arbitration state. -/
structure Queue where
  valid : Bool
  type : BitVec 2
  prio : BitVec 3
  weight : BitVec 8
  dom : BitVec 4
  logn : BitVec 5
  ring : BitVec 42
  ctl : BitVec 46
  head : Word
  tail : Word
  resv : Word
  closed : Bool
  faulted : Bool
  /-- The head entry was found published (R148); the head launch's awaits that were found satisfied (R153). -/
  headSeen : Bool
  awaitsMet : List Nat
  passes : Nat
  credit : Nat
deriving DecidableEq, Repr, Inhabited

/-- A lining descriptor (R106). -/
structure Lining where
  valid : Bool
  fl : Bool
  vbase : BitVec 36
  npages : BitVec 20
  pairs : BitVec 32
  dom : BitVec 4
deriving DecidableEq, Repr, Inhabited

/-- A translation held by a die's buffers (R99): the die, the domain, VA[51:16], the entry as walked. -/
structure TlbEntry where
  die : Nat
  dom : Nat
  page : Nat
  pte : BitVec 128
deriving DecidableEq, Repr, Inhabited

/-- A table walk (R100): the die whose walker runs it, domain, VA[51:16], the table it began with, the ports that merged into it, the
fault that it ended with and that those ports have still to take. -/
structure TableWalk where
  die : Nat
  dom : Nat
  page : Nat
  ptbase : Word
  ports : List Port
  fault : Option Trap
deriving DecidableEq, Repr, Inhabited

/-- A launch whose head record has been taken up (R43, R152). -/
structure Launch where
  id : Nat
  dom : Nat
  record : BitVec 512
  /-- The next instance to place, and whether every instance has been placed. -/
  next : Nat
  placed : Bool
  live : Nat
  /-- Instances were discarded, or the launch was killed: never counted (R156, R158). -/
  uncounted : Bool
deriving DecidableEq, Repr, Inhabited

/-- A placement decision that waits for a compaction move (R167, R168): the launch, the queues it has skipped, the cores that hold
reservations with the bases reserved, the last core's perhaps not all; the cores that have begun their pass, and the lowest base that the last
core's pass has still to visit. -/
structure Decision where
  launch : Nat
  skipped : List Nat
  held : List (Nat × List Nat)
  passed : List Nat
  pass : Option Nat
deriving DecidableEq, Repr, Inhabited

/-- A save in progress (R428): why, the area's VA and physical key, the slot that waits for it. -/
structure SaveJob where
  why : Nat
  va : Nat
  key : Nat
  core : Nat
  slot : Nat
deriving DecidableEq, Repr, Inhabited

/-- A gang instance (R40). -/
structure Gang where
  id : GangId
  dom : Nat
  members : List Nat
  prio : Nat
  chbase : Nat
  nent : Nat
  page : Nat
  placedAt : Word
  floor : Nat
  /-- A throttle change named for a stitch (R175). -/
  change : Option (Word × Nat)
  job : Option SaveJob
deriving DecidableEq, Repr, Inhabited

/-- What the cloak keeps of one member (R425, Table 21-4). -/
structure MemberSave where
  core : Nat
  slots : List (Nat × Slot)
  chans : List (Nat × Chan)
  conts : List (Nat × Cont)
  frecs : List (Nat × Frec)
  regions : List (Nat × Region)
  records : List (Nat × BitVec 256)
  badRecords : List (Nat × Trap)
  sbs : List (Nat × BitVec 24)
  clasps : List (Nat × Clasp)
  info : CoreGang
  tiles : List (Nat × Tile)
  tokens : List MxToken
  xus : List (Nat × XuCmd)
  scfgs : List (Nat × Scfg)
  reqs : List Req
  /-- Messages of its continuation records that stood on channels outside the gang, by channel (R56, R58). -/
  posts : List (Nat × Msg)
  /-- Its saved slice pages, by entry × 256 + page: their bytes stand in the area (Table 21-4). -/
  pages : List Nat
deriving DecidableEq, Repr, Inhabited

/-- A barrier word whose completion publishes (R371): its key, the VA that the completing operation used, the word as that left it. Until the
lining is published the word withholds acknowledgement. -/
structure Completing where
  key : Nat
  va : Nat
  w : BitVec 128
deriving DecidableEq, Repr, Inhabited

/-- A saved gang (R425 to R429): the gang, why, the area's key, its members by rank, and the number by which the bytes of the area that only the
cloak reads are open (R426). -/
structure Saved where
  gang : Gang
  why : Nat
  key : Nat
  va : Nat
  members : List MemberSave
  seed : Nat
deriving DecidableEq, Repr, Inhabited

/-- An entry of the error log that the host reads (R155, R157, R158). -/
inductive LogEntry where
  | malformed (q : Nat) (index : Word) (cause : Cause)
  | skipped (q : Nat) (index : Word)
  | discarded (q : Nat) (index : Word) (count : Nat)
deriving DecidableEq, Repr, Inhabited

/-- What is reported to the management plane or, through it, to the hosts. -/
inductive Report where
  /-- R60. -/
  | doubleFault (core : Nat) (t : Trap)
  | discarded (core : Nat) (r : Frec)
  /-- R404. -/
  | undispatched (core : Nat) (r : Frec)
  /-- R416. -/
  | mismatch (core tile : Nat)
  /-- R432. -/
  | saved (g : GangId)
  | lost (g : GangId)
  /-- R441. -/
  | tripped (die : Nat)
  | firmware (ok : Bool)
  | takeover
  /-- R447 step 4: a domain's table area, by VA, as its host learns it. -/
  | tables (dom va : Nat)
deriving DecidableEq, Repr, Inhabited

/-- The answer to a host access (R143). -/
inductive Answer where
  | data (bs : List Byte)
  | cause (c : Cause)
deriving DecidableEq, Repr, Inhabited

/-- R441, R444, R445: supply within limits; in HOLD, for so many reference ticks, with its emergency save done or not; stopped, by loss
of supply or by a trip. -/
inductive Power where
  | on
  | hold (ticks : Nat) (saved : Bool)
  | off
deriving DecidableEq, Repr, Inhabited

/-- Pre-emption settings of a domain (R421): slice length in stitches, pool of save areas by VA. -/
structure Slicing where
  enabled : Bool
  slice : Nat
  pool : List Nat
deriving DecidableEq, Repr, Inhabited

/-- A die's thermal state (R441, R442): level, the reference tick of its last change. -/
structure Thermal where
  level : Nat
  since : Option Word
deriving DecidableEq, Repr, Inhabited

/-- The results of the last self-test (R450, R451). -/
structure TestResult where
  failCores : List Nat
  failHems : List Nat
  lanes : Tab Nat
  stackOk : Tab Nat
deriving DecidableEq, Repr, Inhabited

/-- What the management plane does of itself: PERMITS or BUDGET of a core (R438); a domain's level-1 table, at a physical address, on
every core of the domain and at the hem dies, with a shootdown of the domain (R447). -/
inductive Manage where
  | permits (core : Nat) (v : Word)
  | budget (core : Nat) (v : Word)
  | tables (dom base : Nat)
deriving DecidableEq, Repr, Inhabited

/-- Which agent of the module acts. -/
inductive Agent where
  /-- The control processor of a core issues (R198). -/
  | issue (core : Nat)
  /-- A reference tick of the clock that enters H0 (R5), before the stitch that the eighth brings. -/
  | tick
  /-- The management plane acts (R438, R447). -/
  | manage (m : Manage)
  /-- Another agent acts, or the outside world does. -/
  | event (i : Instr)
deriving DecidableEq, Repr, Inhabited

/-- The core and slot whose instruction runs. -/
structure Place where
  core : Nat
  slot : Nat
deriving DecidableEq, Repr, Inhabited

/-- The module. `agenda`, `fresh`, `cur` and `stalled` are the model's own fields (log 1, log 2). -/
structure State where
  /-- Which agents move next, first first; when empty, the choice is open (R14). -/
  agenda : List Agent
  /-- Counter that feeds the free values. -/
  fresh : Nat
  cur : Place
  /-- The last instruction did not complete and issues again. -/
  stalled : Bool
  stitch : Word
  tick : Word
  mem : List Host.Cell
  /-- Poisoned 64-bit words, by key div 8 (R417). -/
  poisoned : List Nat
  /-- Barrier words, by key, that a privileged task outside any gang initialised: each names the instance of its core (R374). -/
  coreWords : List Nat
  /-- Barrier words whose completion is in progress (R371). -/
  completing : List Completing
  cores : Tab Core
  queues : Tab Queue
  /-- The queue last served (R160). -/
  lastQueue : Nat
  launches : List Launch
  decision : Option Decision
  gangs : List Gang
  saves : List Saved
  /-- LKILL marks by hem die (R156). -/
  marks : Tab (List Nat)
  errorLog : List LogEntry
  linings : Tab Lining
  tlb : List TlbEntry
  /-- Walks in flight, and ended ones whose fault a port has still to take (R100). -/
  walks : List TableWalk
  /-- Requests that have arrived at HBM arbiters: the next arrival number (R349). -/
  arrivals : Nat
  /-- The table register of each domain at the hem dies (R447). -/
  tables : Tab Word
  node : Nat
  unreachable : List Nat
  /-- Next sequence numbers towards other nodes, by node × 2 + class (R419). -/
  remoteSeq : Tab Nat
  /-- The classes' rails by die (R172), as written and as in force since the last stitch (R174). -/
  cmaps : Tab (BitVec 24)
  cmapsNow : Tab (BitVec 24)
  rails : Tab Nat
  slicing : Tab Slicing
  powerLevel : Nat
  over10 : Nat
  over12 : Nat
  thermal : Tab Thermal
  power : Power
  retraining : List Nat
  repaired : Tab Nat
  /-- R419: the retransmission timer, in reference ticks. -/
  resendLimit : Nat
  reports : List Report
  answers : List (Nat × Answer)
  /-- R417: single-bit errors corrected, by die: 0 to 15. -/
  corrected : Tab Nat
  shocks : Nat
  shockSinceTest : Bool
  test : TestResult
  meas : List Byte
  /-- H1 drives the stitch generator (R449). -/
  h1 : Bool
  /-- The stitch whose periodic drain has been made (R347). -/
  drains : Nat
  /-- The module has been brought up and the COMMAND queues are open (R446). -/
  opened : Bool
deriving DecidableEq, Repr

/-- Why the machine stops. -/
inductive Fault where
  /-- Raised by `step` for every agent but a cold reset and a shock sensor (R452) once the module has stopped (R445: below 30 V the module stops and waits
  for cold reset; R439, R441: after a trip it waits for cold reset). Safe: the specification gives a stopped module no behaviour. -/
  | poweredOff
deriving DecidableEq, Repr

/-- Why an instruction has no meaning. -/
inductive Refusal where
  /-- Raised by `exec` for a constructor that is not modelled yet. Safe: the machine stops where the hardware goes on. -/
  | notModelled (mnemonic : String)
deriving DecidableEq, Repr

/-- What a step or an instruction answers. -/
abbrev Out := Host.Outcome State Fault Refusal

/-! ### Reset -/

/-- A register that nothing has written: log 4. -/
def RegCell.zero : RegCell := ⟨0, false, none⟩

/-- A predicate that nothing has written: log 4. -/
def PredCell.off : PredCell := ⟨false, false⟩

/-- A free slot (R197). The pc and the values of its registers are log 4's. -/
def Slot.free : Slot where
  status := .free
  pc := 0
  regs := []
  preds := []
  loops := []
  spec := none
  serial := 0
  chan := 0
  priv := false
  handler := none
  gang := none
  prog := .idle
  fromQueue := false

/-- An unbound channel (Tables 2-2, 2-3). -/
def Chan.unbound : Chan where
  valid := false
  prio := 0
  priv := false
  entry := 0
  src := 0
  param := 0
  fifo := []
  held := []
  passes := 0
  gang := none
  timerLeft := 0
  elapsed := 0

/-- R46: c62's source is none, c63's is fault, and both carry the privilege bit. -/
def Chan.reset (n : Nat) : Chan :=
  if n = 62 then { Chan.unbound with priv := true }
  else if n = 63 then { Chan.unbound with priv := true, src := 6 }
  else Chan.unbound

/-- A clasp at reset (Table 10-16). -/
def Clasp.off : Clasp := ⟨false, false, 0, 0, 0⟩

/-- A tile at cold reset (R293): +0, plain; applied 0 is log 4's. -/
def Tile.zero : Tile := ⟨[], none, 0, [], []⟩

/-- R343: credits reload to VC2 4, VC0 4, VC3 2, VC1 1; the rotation's start and full credits are log 4's. -/
def OutPort.reset : OutPort := ⟨[(0, 4), (1, 1), (2, 4), (3, 2)], 1, [], 0, none⟩

/-- An empty router. -/
def Router.reset : Router := ⟨[], []⟩

/-- A queue at reset (R144): descriptor 0; the control line is log 4's. -/
def Queue.reset : Queue where
  valid := false
  type := 0
  prio := 0
  weight := 0
  dom := 0
  logn := 0
  ring := 0
  ctl := 0
  head := 0
  tail := 0
  resv := 0
  closed := false
  faulted := false
  headSeen := false
  awaitsMet := []
  passes := 0
  credit := 0

/-- A lining descriptor at reset (R106). -/
def Lining.reset : Lining := ⟨false, false, 0, 0, 0, 0⟩

/-- A core at cold reset (R446: every special register at its Reset value). -/
def Core.reset : Core where
  domain := 0
  ptbase := 0
  wdog := 0x2710
  memto := 0xF4240
  sgate := false
  mxr := 0
  cpr := 0
  mxRail := 0
  cpRail := 0
  permits := 0
  permitsNow := 0
  budget := 0
  budgetNow := 0
  budgetHeld := 0
  heldNow := false
  budgetLeft := []
  mxLeft := 0
  refilled := 0
  reloaded := 0
  clasps := []
  slots := []
  lastSlot := 15
  chans := []
  lastChan := 63
  serial := 0
  conts := []
  frecs := []
  heldReports := []
  records := []
  badRecords := []
  sbs := []
  cvPriv := 0
  gangs := []
  ibuf := []
  store := []
  fetches := []
  reqs := []
  nextReq := 0
  xus := []
  scfgs := []
  regions := []
  tiles := []
  mxq := []
  nextTok := 0
  mxLast := 0
  router := Router.reset
  gated := []
  idle := []
  patchRails := []
  withheld := false
  tlb := []

/-- The module right after reset: every special register at its Reset value, before step 1 of R446. -/
def State.reset : State where
  agenda := []
  fresh := 0
  cur := ⟨0, 0⟩
  stalled := false
  stitch := 0
  tick := 0
  mem := []
  poisoned := []
  coreWords := []
  completing := []
  cores := []
  queues := []
  lastQueue := 65535
  launches := []
  decision := none
  gangs := []
  saves := []
  marks := []
  errorLog := []
  linings := []
  tlb := []
  walks := []
  arrivals := 0
  tables := []
  node := 0
  unreachable := []
  remoteSeq := []
  cmaps := []
  cmapsNow := []
  rails := []
  slicing := []
  powerLevel := 0
  over10 := 0
  over12 := 0
  thermal := []
  power := .on
  retraining := []
  repaired := []
  resendLimit := 5000
  reports := []
  answers := []
  corrected := []
  shocks := 0
  shockSinceTest := false
  test := ⟨[], [], [], []⟩
  meas := []
  h1 := false
  drains := 0
  opened := false

/-- Log 3: what a byte of memory that nothing has written reads as. -/
def memDefault : Byte := 0

/-- R172: what a die's cmap reads until it is written. -/
def cmapReset : BitVec 24 := 0xFAC688

end Sys2Proof.Machine
end

