-- ==== Sys2Proof/Machine/Memory.lean ====
section
/-! DEFINITION. Memory as bytes by key (node × 2^48 + physical address): one canonical form, byte order decided once (R7), poison
by 64-bit word (R417). -/

namespace Sys2Proof.Machine

/-- The key of a physical address of a node (R95: node 0 is this module). -/
def memKey (node pa : Nat) : Nat := node * 2 ^ 48 + pa

/-- The byte at `a`. -/
def readByte (m : List Host.Cell) (a : Nat) : Byte := Tab.get memDefault m a

/-- Memory with the byte at `a` replaced; writing the default removes the entry. -/
def writeByte (m : List Host.Cell) (a : Nat) (v : Byte) : List Host.Cell :=
  if v = memDefault then Tab.erase m a else Tab.set m a v

/-- `n` bytes from `a` upward. -/
def readBytes (m : List Host.Cell) (a : Nat) : Nat → List Byte
  | 0 => []
  | n + 1 => readByte m a :: readBytes m (a + 1) n

/-- Memory with the bytes of the list written from `a` upward. -/
def writeBytes (m : List Host.Cell) (a : Nat) : List Byte → List Host.Cell
  | [] => m
  | v :: vs => writeBytes (writeByte m a v) (a + 1) vs

/-- Bytes from `a` upward as entries, those that are the default left out. -/
def cellsOf (a : Nat) : List Byte → List Host.Cell
  | [] => []
  | v :: vs => if v = memDefault then cellsOf (a + 1) vs else (a, v) :: cellsOf (a + 1) vs

/-- Memory with a long run of bytes written from `a` upward, in one pass (it equals writeBytes on the canonical form). -/
def writeBlock (m : List Host.Cell) (a : Nat) (bs : List Byte) : List Host.Cell :=
  (m.filter fun e => e.1 < a) ++ cellsOf a bs ++ m.filter fun e => a + bs.length ≤ e.1

/-- `n` bytes from `a` upward of entries that all stand at `a` or above. -/
def takeBlock (a : Nat) : Nat → List Host.Cell → List Byte
  | 0, _ => []
  | n + 1, [] => memDefault :: takeBlock (a + 1) n []
  | n + 1, e :: m => if e.1 = a then e.2 :: takeBlock (a + 1) n m else memDefault :: takeBlock (a + 1) n (e :: m)

/-- A long run of bytes read in one pass (it equals readBytes on the canonical form). -/
def readBlock (m : List Host.Cell) (a n : Nat) : List Byte := takeBlock a n (m.filter fun e => a ≤ e.1)

/-- The canonical form: keys strictly rising, no entry equal to what an unlisted key reads as. -/
def Memory.wf : List Host.Cell → Bool
  | [] => true
  | [(_, v)] => v != memDefault
  | (a, v) :: (b, w) :: t => v != memDefault && decide (a < b) && Memory.wf ((b, w) :: t)

/-- R7: the value of bytes, the lowest address first. -/
def leNat : List Byte → Nat
  | [] => 0
  | b :: bs => b.toNat + 256 * leNat bs

/-- R7: the `n` low bytes of a value, the lowest address first. -/
def leBytes : Nat → Nat → List Byte
  | 0, _ => []
  | n + 1, v => BitVec.ofNat 8 v :: leBytes n (v / 256)

/-- `n` bytes from key `a` as one little-endian number. -/
def State.load (s : State) (a n : Nat) : Nat := leNat (readBytes s.mem a n)

/-- Whether any 64-bit word that the `n` bytes from `a` touch is poisoned (R417). -/
def State.poisonedAt (s : State) (a n : Nat) : Bool :=
  n != 0 && s.poisoned.any fun w => decide (a / 8 ≤ w ∧ w ≤ (a + n - 1) / 8)

/-- Memory with bytes stored from `a`. Words written whole lose their poison; a narrower write leaves it (R417). -/
def State.storeBytes (s : State) (a : Nat) (bs : List Byte) : State :=
  { s with
    mem := writeBytes s.mem a bs
    poisoned := s.poisoned.filter fun w => !decide (a ≤ 8 * w ∧ 8 * w + 8 ≤ a + bs.length) }

/-- The same for a long run of bytes. -/
def State.storeBlock (s : State) (a : Nat) (bs : List Byte) : State :=
  { s with
    mem := writeBlock s.mem a bs
    poisoned := s.poisoned.filter fun w => !decide (a ≤ 8 * w ∧ 8 * w + 8 ≤ a + bs.length) }

/-- `n` bytes from `src` upward copied to `dst`, with the poison of their 64-bit words; both are aligned to 8 bytes. -/
def State.copyBlock (s : State) (src dst n : Nat) : State :=
  let t := s.storeBlock dst (readBlock s.mem src n)
  { t with poisoned := t.poisoned ++ (s.poisoned.filter fun w => decide (src ≤ 8 * w ∧ 8 * w < src + n)).map fun w => w - src / 8 + dst / 8 }

/-- Bits [hi : lo] of a number. -/
def bits (v hi lo : Nat) : Nat := v / 2 ^ lo % 2 ^ (hi - lo + 1)

/-- A two's-complement reading of the low `w` bits. -/
def signed (w v : Nat) : Int :=
  let u := v % 2 ^ w
  if u < 2 ^ (w - 1) then u else (u : Int) - 2 ^ w

/-- An integer modulo 2^64 as a word. -/
def wordOf (z : Int) : Word := BitVec.ofInt 64 z

end Sys2Proof.Machine
end

