-- ==== Sys2Proof/Machine/Ops.lean ====
section
/-! DEFINITION. The named operations over cores, slots, registers, channels and records; stopping and ending tasks and gangs;
TAKING AN EXCEPTION (R402 to R406, R60) and the return from one (R407), each as one shared operation. -/

namespace Sys2Proof.Machine

/-! ### Causes -/

/-- Table 20-5: the cause codes. -/
def Cause.code : Cause → Nat
  | .illegal => 0x01 | .priv => 0x02 | .empty => 0x03 | .align => 0x04 | .bounds => 0x05 | .format => 0x06
  | .xlate => 0x07 | .prot => 0x08 | .memto => 0x09 | .watchdog => 0x0A | .redundant => 0x0B | .ecc => 0x0C
  | .collar => 0x0D | .barrier => 0x0E | .queue => 0x0F | .loop => 0x10 | .link => 0x11 | .frame => 0x12
  | .chan => 0x13 | .trap => 0x14 | .bkpt => 0x15 | .domain => 0x16

/-! ### Cores and slots -/

/-- Core `c`. -/
def State.core (s : State) (c : Nat) : Core := s.cores.get Core.reset c

/-- The module with core `c` replaced. -/
def State.setCore (s : State) (c : Nat) (k : Core) : State := { s with cores := s.cores.set c k }

/-- The module with core `c` changed by `f`. -/
def State.onCore (s : State) (c : Nat) (f : Core → Core) : State := s.setCore c (f (s.core c))

/-- Slot `n` of a core. -/
def Core.slot (k : Core) (n : Nat) : Slot := k.slots.get Slot.free n

/-- The core with slot `n` replaced. -/
def Core.setSlot (k : Core) (n : Nat) (sl : Slot) : Core := { k with slots := k.slots.set n sl }

/-- The core of the instruction that runs. -/
def State.curCore (s : State) : Core := s.core s.cur.core

/-- The slot of the instruction that runs. -/
def State.curSlot (s : State) : Slot := s.curCore.slot s.cur.slot

/-- The module with the running core replaced. -/
def State.setCurCore (s : State) (k : Core) : State := s.setCore s.cur.core k

/-- The module with the running slot replaced. -/
def State.setCurSlot (s : State) (sl : Slot) : State := s.setCurCore (s.curCore.setSlot s.cur.slot sl)

/-- Channel `n` of a core; c62 and c63 keep their fixed fields (R46). -/
def Core.chan (k : Core) (n : Nat) : Chan := k.chans.get (Chan.reset n) n

/-- The core with channel `n` replaced. -/
def Core.setChan (k : Core) (n : Nat) (c : Chan) : Core := { k with chans := k.chans.set n c }

/-- Buffer record `n`: all zero at reset (R102). -/
def Core.record (k : Core) (n : Nat) : BitVec 256 := k.records.get 0 n

/-- Scoreboard counter `n` (R325): it starts at 0. -/
def Core.sb (k : Core) (n : Nat) : BitVec 24 := k.sbs.get 0 n

/-- The core with counter `n` raised by one. -/
def Core.sbInc (k : Core) (n : Nat) : Core := { k with sbs := k.sbs.set n (k.sb n + 1) }

/-- The core with counter `n` lowered by one. -/
def Core.sbDec (k : Core) (n : Nat) : Core := { k with sbs := k.sbs.set n (k.sb n - 1) }

/-- Queue `q`. -/
def State.queue (s : State) (q : Nat) : Queue := s.queues.get Queue.reset q

/-- The module with queue `q` replaced. -/
def State.setQueue (s : State) (q : Nat) (x : Queue) : State := { s with queues := s.queues.set q x }

/-- The first number below `n` that is not used. -/
def firstFree (used : Nat → Bool) (n : Nat) : Option Nat := (List.range n).find? fun i => !used i

/-- Whether a gang is halted for a save (R422): its slots, regions, commands and tokens stand still, its channels dispatch nothing. -/
def State.frozen (s : State) (g : Option GangId) : Bool :=
  match g with
  | none => false
  | some g => s.gangs.any fun x => x.id == g && x.job.isSome

/-- R24: the coordinates and die of a core. -/
def coreX (c : Nat) : Nat := c % 48
def coreY (c : Nat) : Nat := c / 48
def dieOf (c : Nat) : Nat := coreY c / 4 * 8 + coreX c / 6

/-! ### Table walks (R100) -/

/-- A translation that the buffers do not hold: the access waits for a walk. No trap of the specification has this detail. -/
def walkMiss (va : Nat) : Trap := { cause := .xlate, detail := 255, info1 := BitVec.ofNat 64 va }

/-- Whether a trap stands for such a miss. -/
def Trap.isMiss (t : Trap) : Bool := t.cause == .xlate && t.detail == 255

/-- R100: how many walks a die's walker runs at once. -/
def maxWalks : Nat := 64

/-- Whether a walk in flight is that of a page for a domain at a die. -/
def TableWalk.inFlight (w : TableWalk) (die dom page : Nat) : Bool := w.fault.isNone && w.die == die && w.dom == dom && w.page == page

/-- The walk with a port that waits for it. -/
def TableWalk.join (w : TableWalk) (p : Port) : TableWalk := if w.ports.contains p then w else { w with ports := w.ports ++ [p] }

/-- R100: a port of a core misses at a VA: it merges into the walk in flight for the page, or one begins; with 64 in flight it waits. -/
def State.miss (s : State) (c : Nat) (p : Port) (va : Word) : State :=
  let k := s.core c
  let die := dieOf c
  let dom := k.domain.toNat
  let page := va.toNat / 2 ^ 16
  if s.walks.any fun w => w.inFlight die dom page then
    { s with walks := s.walks.map fun w => if w.inFlight die dom page then w.join p else w }
  else if (s.walks.filter fun w => w.fault.isNone && w.die == die).length ≥ maxWalks then s
  else { s with walks := s.walks ++ [⟨die, dom, page, k.ptbase, [p], none⟩] }

/-- R100: a port has taken the fault that its walk ended with. -/
def State.tookFault (s : State) (p : Port) : State :=
  { s with walks := (s.walks.map fun w => if w.fault.isSome then { w with ports := w.ports.erase p } else w).filter fun w =>
      w.fault.isNone || !w.ports.isEmpty }

/-- Ports wait for no walk any more. -/
def State.forget (s : State) (mine : Port → Bool) : State :=
  { s with walks := (s.walks.map fun w => { w with ports := w.ports.filter fun p => !mine p }).filter fun w =>
      w.fault.isNone || !w.ports.isEmpty }

/-- Whether a port of core `c` is a gang's. -/
def Core.portOf (k : Core) (c : Nat) (g : GangId) : Port → Bool
  | .slot x n _ => x == c && (k.slots.get Slot.free n).gang == some g
  | .unit x h _ _ => x == c && (k.regions.find? h).any fun r => r.gang == g
  | .command x ix => x == c && (k.xus.find? ix).any fun r => r.gang == some g
  | .token x id => x == c && k.mxq.any fun t => t.id == id && t.gang == some g
  | .load x ix => x == c && (k.scfgs.find? ix).any fun r => r.gang == some g
  | .image _ _ _ => false

/-- The port of a slot's task. -/
def Core.slotPort (k : Core) (c n : Nat) : Port := .slot c n (k.slot n).serial

/-! ### Registers of a slot (R200 to R203) -/

/-- The cell of register `r`; g0 is always full and reads 0. -/
def Slot.cell (sl : Slot) (r : Reg) : RegCell :=
  if r = 0 then RegCell.zero else sl.regs.get RegCell.zero r.toNat

/-- The slot with the cell of `r` replaced; a write to g0 is discarded. -/
def Slot.setCell (sl : Slot) (r : Reg) (c : RegCell) : Slot :=
  if r = 0 then sl else { sl with regs := sl.regs.set r.toNat c }

/-- A write of `v` to gr: it fills the register and clears its poison (R203). -/
def Slot.write (sl : Slot) (r : Reg) (v : Word) : Slot := sl.setCell r ⟨v, false, none⟩

/-- The register marked empty at issue (R200); g0 is never marked. What it held stays for a refill (R224). -/
def Slot.markEmpty (sl : Slot) (r : Reg) : Slot := sl.setCell r { sl.cell r with empty := true }

/-- The register filled poisoned (R203): it counts as full; the value `v` it holds is open. -/
def Slot.poisonReg (sl : Slot) (r : Reg) (t : Trap) (v : Word) : Slot := sl.setCell r ⟨v, false, some t⟩

/-- A register refilled unchanged (R224). -/
def Slot.refill (sl : Slot) (r : Reg) : Slot := sl.setCell r { sl.cell r with empty := false }

/-- R201, R203: what a read of a register meets. -/
inductive ReadResult where
  | full (v : Word)
  | wait
  | bad (t : Trap)
deriving DecidableEq, Repr

/-- R201: a read under an FE bit. -/
def Slot.read (sl : Slot) (r : Reg) (fe : Bool) : ReadResult :=
  let c := sl.cell r
  if c.empty then (if fe then .bad { cause := .empty, info1 := r.setWidth 64 } else .wait)
  else match c.poison with
    | some t => .bad t
    | none => .full c.v

/-- The predicate cell; p0 reads true and is never pending. -/
def Slot.pcell (sl : Slot) (p : PReg) : PredCell :=
  if p = 0 then ⟨true, false⟩ else sl.preds.get PredCell.off p.toNat

/-- The slot with a predicate written; a write to p0 is discarded (R212). -/
def Slot.setPred (sl : Slot) (p : PReg) (c : PredCell) : Slot :=
  if p = 0 then sl else { sl with preds := sl.preds.set p.toNat c }

/-- FEPEND (Table 9-6): bit n set when gn is empty; bit 0 reads 0. -/
def Slot.fepend (sl : Slot) : Word :=
  (List.range 64).foldl (fun acc n => if (sl.cell (BitVec.ofNat 6 n)).empty then acc ||| (1 <<< n) else acc) 0

/-! ### Control flow (R218) -/

/-- R218: the word after the one at `a`, and the loop stack after end processing; the list's head is the top entry. -/
def endProcess (a : Word) : List LoopEntry → Word × List LoopEntry
  | [] => (a + 8, [])
  | e :: t =>
    if e.last = a then
      if e.count - 1 = 0 then endProcess a t
      else (e.start, { e with count := e.count - 1 } :: t)
    else (a + 8, e :: t)

/-- The slot after its word has completed or was guarded off, and is no taken transfer (R218). -/
def Slot.advance (sl : Slot) : Slot :=
  let r := endProcess sl.pc sl.loops
  { sl with pc := r.1, loops := r.2, prog := .idle }

/-- The slot after a taken BR, JAL or JR: it pops every entry whose end is its address, then goes to its target (R218). -/
def Slot.jump (sl : Slot) (target : Word) : Slot :=
  { sl with pc := target, loops := sl.loops.filter fun e => e.last != sl.pc }

/-! ### Channels (R46 to R49) -/

/-- A message put into a channel, behind it when the FIFO is full (R48, R49). -/
def Chan.post (c : Chan) (m : Msg) : Chan :=
  if c.held.isEmpty && c.fifo.length < Config.fifoDepth then { c with fifo := c.fifo ++ [m] }
  else { c with held := c.held ++ [m] }

/-- The FIFO's head taken, and the oldest held message let in. -/
def Chan.take (c : Chan) : Chan :=
  match c.held with
  | [] => { c with fifo := c.fifo.tail }
  | m :: t => { c with fifo := c.fifo.tail ++ [m], held := t }

/-- The channel without the messages that `p` holds of. -/
def Chan.without (c : Chan) (p : Msg → Bool) : Chan :=
  let ms := (c.fifo ++ c.held).filter fun m => !p m
  { c with fifo := ms.take Config.fifoDepth, held := ms.drop Config.fifoDepth }

/-- The messages of channel `n` that some continuation records posted and that are not yet dispatched (R56). -/
def Msg.ofCont (m : Msg) (ixs : List Nat) : Bool := m.cont.any ixs.contains

/-- A message posted on a channel of a core. -/
def Core.post (k : Core) (ch : Nat) (m : Msg) : Core := k.setChan ch ((k.chan ch).post m)

/-- A message of a hardware source: g1 to g3 of Table 2-4. -/
def sourceMsg (g1 g2 g3 : Word) : Msg := ⟨[g1, g2, g3], 0, [], [], none, none, false⟩

/-- The message posted to every bound channel of the core whose source is `src` and whose parameter satisfies `f`. -/
def Core.postSource (k : Core) (src : BitVec 4) (f : BitVec 48 → Bool) (m : Msg) : Core :=
  (List.range 64).foldl (fun k ch =>
    let c := k.chan ch
    if c.valid && c.src == src && f c.param then k.post ch m else k) k

/-! ### Power (R176) -/

/-- The key of a unit's idle count. -/
def gateKey : GateUnit → Nat
  | .patch p => p
  | .cp => 8
  | .matrix => 9
  | .slice => 10

/-- The units of a core that power off when idle. -/
def idleUnits : List GateUnit := (List.range 8).map GateUnit.patch ++ [.cp, .matrix]

/-- R176: units that are needed have their power; the stitches that they were idle count no more. -/
def Core.powered (k : Core) (need : GateUnit → Bool) : Core :=
  { k with gated := k.gated.filter fun u => !need u
           idle := (idleUnits.filter need).foldl (fun (t : Tab Nat) u => t.erase (gateKey u)) k.idle }

/-! ### Ending tasks, commands and tokens -/

/-- Whether a port is a slot's. -/
def Port.ofSlot (n : Nat) : Port → Bool | .slot _ x _ => x == n | _ => false

/-- The replies still owed to a slot's task are discarded on arrival (R204), that of its instruction fetch too. -/
def Core.disown (k : Core) (n : Nat) : Core :=
  { k with reqs := k.reqs.map fun r => if r.slot = n || r.unit.any (Port.ofSlot n) then { r with live := false } else r }

/-- A task ends and its slot is free (R221); the loop stack and the speculation store queue go with it (R220). -/
def Core.endTask (k : Core) (n : Nat) : Core := (k.disown n).setSlot n Slot.free

/-- Whether a port is a command's, a matrix token's, an SCFG load's, that of an image of a domain, a unit's of a patch or of a region. -/
def Port.isCommand (ix : Nat) : Port → Bool | .command _ i => i == ix | _ => false
def Port.isToken (id : Nat) : Port → Bool | .token _ i => i == id | _ => false
def Port.isLoad (ix : Nat) : Port → Bool | .load _ i => i == ix | _ => false
def Port.ofImage (dom : Nat) : Port → Bool | .image _ d _ => d == dom | _ => false
def Port.inPatch (h p : Nat) : Port → Bool | .unit _ x _ key => x == h && key / 16 == p | _ => false
def Port.inRegion (h : Nat) : Port → Bool | .unit _ x _ _ => x == h | _ => false

/-- The replies still owed to some units are discarded on arrival; what they have sent is still performed. -/
def Core.disownUnits (k : Core) (mine : Port → Bool) : Core :=
  { k with reqs := k.reqs.map fun r => if r.unit.any mine then { r with live := false } else r }

/-- A transfer-unit command completes: its place is free and its counter falls (R325). -/
def Core.xuDone (k : Core) (ix : Nat) : Core :=
  match k.xus.find? ix with
  | none => k
  | some c => ({ k with xus := k.xus.erase ix }.disownUnits (Port.isCommand ix)).sbDec c.sb.toNat

/-- The scoreboard counter of a matrix token, unless nsb is set (R295). -/
def MxToken.counter (t : MxToken) : Option Nat :=
  if t.w0.getLsbD 0 then none else some (t.w0.extractLsb' 7 5).toNat

/-- A matrix token leaves the engine and its counter falls (R295, Table 20-6). No done is owed for it any more (R307). -/
def Core.tokDone (k : Core) (id : Nat) : Core :=
  match k.mxq.find? fun t => t.id = id with
  | none => k
  | some t =>
    let k := { k.disownUnits (Port.isToken id) with
      mxq := k.mxq.filter fun u => u.id != id
      regions := k.regions.map fun e =>
        (e.1, { e.2 with fab := { e.2.fab with owed := e.2.fab.owed.map fun q => (q.1, q.2.filter fun i => i != .pending id) } }) }
    match t.counter with
    | none => k
    | some n => k.sbDec n

/-- R56: the continuation records whose messages stand in channels that `mine` picks. -/
def Core.contsIn (k : Core) (mine : Chan → Bool) : List Nat :=
  k.chans.flatMap fun e => if mine e.2 then (e.2.fifo ++ e.2.held).filterMap fun m => m.cont else []

/-- The fault records of a gang that is gone hold nothing any more, and inform only (log 14). A gang's CVSTAT word on a core is ORed into the
privileged word and freed, with its marks (R83, R430), whatever removes the gang (log 14); every tile its
tokens named is +0 and plain (R293), and stays in use by the other gangs whose tokens named it. A continuation's message goes with its
record, and a record whose message stood on a channel of the gang goes with that (R56; log 16). -/
def Core.dropGang (k : Core) (g : GangId) : Core :=
  let cv := (k.gangs.find? fun e => e.1 = g).elim 0 fun e => e.2.cvstat
  let ixs := (k.conts.filter fun e => e.2.gang == some g).map fun e => e.1
  { k with
    cvPriv := k.cvPriv ||| cv
    gangs := k.gangs.filter fun e => e.1 != g
    slots := k.slots.map fun e => if e.2.gang = some g then (e.1, Slot.free) else e
    chans := k.chans.map fun e => if e.2.gang = some g then (e.1, Chan.unbound) else (e.1, e.2.without fun m => m.ofCont ixs)
    conts := k.conts.filter fun e => e.2.gang != some g && !(k.contsIn fun c => c.gang == some g).contains e.1
    frecs := k.frecs.map fun e => if e.2.gang = some g then (e.1, { e.2 with subject := .report }) else e
    regions := k.regions.filter fun e => e.2.gang != g
    clasps := k.clasps.map fun e =>
      if (k.regions.find? e.2.hdl.toNat).elim false (fun r => r.gang = g) then (e.1, { e.2 with en := false }) else e
    xus := k.xus.filter fun e => e.2.gang != some g
    scfgs := k.scfgs.filter fun e => e.2.gang != some g
    mxq := k.mxq.filter fun t => t.gang != some g
    tiles := k.tiles.map fun e => if e.2.users.contains g then (e.1, { Tile.zero with users := e.2.users.filter fun u => u != g }) else e
    reqs := k.reqs.map fun r => if r.gang = some g then { r with live := false } else r }

/-- A gang instance is removed from every member core (R42, R50); what it had issued to memory is still performed (R204). -/
def State.removeGang (s : State) (g : GangId) : State :=
  match s.gangs.find? fun x => x.id = g with
  | none => s
  | some x =>
    { x.members.foldl (fun s c => (s.forget ((s.core c).portOf c g)).onCore c fun k => k.dropGang g) s with gangs := s.gangs.filter fun y => y.id != g }

/-- R60: every member of the gang is stopped; its launch is not counted (log 12). -/
def State.stopGang (s : State) (g : GangId) : State :=
  let s := s.removeGang g
  { s with launches := s.launches.filterMap fun l =>
      if l.id ≠ g.launch then some l
      else if l.placed && decide (l.live ≤ 1) then none
      else some { l with uncounted := true, live := l.live - 1 } }

/-! ### Fault records (R402 to R406) -/

/-- The kind of a subject (R402). -/
def Subject.kind : Subject → Nat
  | .slot _ => 0 | .region _ => 1 | .command _ => 2 | .token _ => 3 | .report => 4

/-- EINFO3 (Table 20-4); `cmd` is the transfer-unit command or the queue position. -/
def info3 (sub : Subject) (cmd : Nat) (gang : Option GangId) (core slot : Nat) : Word :=
  let hdl := match sub with | .region h => h | _ => 0
  BitVec.ofNat 64 (sub.kind * 2 ^ 60 + (gang.elim 0 fun g => g.inst) % 2 ^ 24 * 2 ^ 24 + core % 512 * 2 ^ 15
    + hdl % 8 * 2 ^ 12 + cmd % 32 * 2 ^ 4 + slot % 16)

/-- R403, R409: the channel a record is posted to, and whether a TRAP fell back to c63. -/
def Core.faultChan (k : Core) (c : Cause) : Nat × Bool :=
  if c = .trap then (if (k.chan 62).valid then (62, false) else (63, true)) else (63, false)

/-- Table 20-1: the message of a record. -/
def Frec.msg (r : Frec) (ix : Nat) : Msg :=
  ⟨[BitVec.ofNat 64 r.cause.code, r.epc, r.info0, r.info1, r.info2, r.info3, r.mask], 0, [], [], some ix, none, false⟩

/-- A subject outside any gang is removed alone: a task ends as by END, a command or token is discarded as by ERET.SKIP (R60). -/
def Core.dropSubject (k : Core) : Subject → Core
  | .slot n => k.endTask n
  | .command ix => k.xuDone ix
  | .token id => k.tokDone id
  | .region _ => k
  | .report => k

/-- How the subject of a record that is discarded without resolution is dealt with (R60, R404). -/
def State.dealSubject (s : State) (c : Nat) (r : Frec) : State :=
  match r.subject with
  | .report => s
  | sub =>
    match r.gang with
    | some g => s.stopGang g
    | none => s.onCore c fun k => k.dropSubject sub

/-- Whether a core has a fault record free (R402). -/
def Core.freeFrec (k : Core) : Option Nat := firstFree (fun i => (k.frecs.find? i).isSome) Config.numFrecs

/-- A fault record is created on core `c` and posted (R402, R403), or reported and discarded when its channel is unbound (R404).
`ix` is the free record. -/
def State.raise (s : State) (c ix : Nat) (r : Frec) : State :=
  let k := s.core c
  let ch := k.faultChan r.cause
  let r := if ch.2 then { r with info0 := r.info0 ||| 1 } else r
  if (k.chan ch.1).valid then
    s.setCore c { k.post ch.1 (r.msg ix) with frecs := k.frecs.set ix r }
  else { s.dealSubject c r with reports := (s.dealSubject c r).reports ++ [Report.undispatched c r] }

/-- A report of kind 4 on core `c` (R402): its subject is nothing; with no record free, or behind another report, it is held (log 13). -/
def State.report (s : State) (c : Nat) (t : Trap) (gang : Option GangId) (slot : Nat) : State :=
  let r : Frec := ⟨.report, t.cause, 0, BitVec.ofNat 64 t.detail, t.info1, t.info2, info3 .report 0 gang c slot, 0, gang, false⟩
  match (s.core c).heldReports, (s.core c).freeFrec with
  | [], some ix => s.raise c ix r
  | _, _ => s.onCore c fun k => { k with heldReports := k.heldReports ++ [r] }

/-- R402: the oldest report that was held takes a record that has come free. -/
def State.postHeld (s : State) (c : Nat) : State :=
  match (s.core c).heldReports, (s.core c).freeFrec with
  | r :: rest, some ix => (s.onCore c fun k => { k with heldReports := rest }).raise c ix r
  | _, _ => s

/-- R60: a trap taken by a handler. Its task is removed, its trap and its record are reported, the record's subject is dealt with. -/
def State.doubleFault (s : State) (t : Trap) (ix : Nat) : State :=
  let c := s.cur.core
  let rec? := s.curCore.frecs.find? ix
  let s := s.onCore c fun k => { k.endTask s.cur.slot with frecs := k.frecs.erase ix }
  let s := { s with reports := s.reports ++ [Report.doubleFault c t] }
  match rec? with
  | none => s
  | some r =>
    let s := { s with reports := s.reports ++ [Report.discarded c r] }
    s.dealSubject c r

/-- The record of a trap of the running slot (kind 0): EPC names the trapping word, EINFO0 holds the detail alone (Table 20-3). -/
def State.trapRecord (s : State) (t : Trap) : Frec :=
  let sl := s.curSlot
  ⟨.slot s.cur.slot, t.cause, sl.pc, BitVec.ofNat 64 t.detail, t.info1, t.info2,
    info3 (.slot s.cur.slot) 0 sl.gang s.cur.core s.cur.slot, sl.fepend, sl.gang, false⟩

/-- TAKING AN EXCEPTION: the running slot's instruction traps. A translation that is not buffered is no trap: the instruction waits for
its walk (R100). In a handler a trap is a double fault (R60). While the slot speculates the instruction stalls (R231); with no record
free it stalls too (R402). Otherwise the slot is suspended at the trapping word (R50), and its record is created and posted (R402,
R403). A task of channel 62 or 63 that no fault record dispatched is no handler (log 15). -/
def State.takeTrap (s : State) (t : Trap) : State :=
  let sl := s.curSlot
  let p := s.curCore.slotPort s.cur.core s.cur.slot
  if t.isMiss then { s.miss s.cur.core p t.info1 with stalled := true }
  else if sl.spec.isSome then { s with stalled := true }
  else match sl.handler with
    | some ix => (s.doubleFault t ix).tookFault p
    | none =>
      match s.curCore.freeFrec with
      | none => { s with stalled := true }
      | some ix => ((s.setCurSlot { sl with status := .suspended }).raise s.cur.core ix (s.trapRecord t)).tookFault p

/-! ### Resolving a subject (R407, Table 20-6) -/

/-- How a handler resolves its record. -/
inductive Resolve where
  | resume | skip | ended
deriving DecidableEq, Repr

/-- Kind 0: RESUME reissues the word at EPC, or continues after a TRAP or BKPT; SKIP continues after it; END ends the task. -/
def Slot.resolve (sl : Slot) (r : Frec) : Resolve → Slot
  | .resume =>
    if r.moved then { sl with status := .occupied, pc := r.epc, prog := .idle }
    else if r.cause = .trap || r.cause = .bkpt then { sl.advance with status := .occupied }
    else { sl with status := .occupied }
  | .skip => { { sl with pc := r.epc }.advance with status := .occupied }
  | .ended => Slot.free

/-- An AG that does nothing. -/
def AgState.idle : AgState := ⟨false, false, 0, 0, 0, none, false, false, [], none, []⟩

/-- An AG that ends or starts afresh: what its tokens taken have still to write is still written (R204, R289). -/
def AgState.rest (a : AgState) : AgState :=
  { a with walking := false, begun := false, pos := 0, owed := false, ended := false, failed := [] }

/-- The AGs of a fabric that ends or starts afresh. -/
def restAgs (t : Tab AgState) : Tab AgState :=
  (t.filter fun (e : Nat × AgState) => !e.2.out.isEmpty || e.2.group.isSome).map fun e => (e.1, e.2.rest)

/-- R310: the fabric with no row of an ACCR request left to emit. -/
def Fabric.noRows (f : Fabric) : Fabric := { f with mus := f.mus.map fun (e : Nat × MuState) => (e.1, { e.2 with rows := [] }) }

/-- R192: tokens left on arcs and at edges are discarded. -/
def Region.discard (g : Region) : Region := { g with fab := { g.fab with arcs := [], edges := [], taken := [], offered := [], owed := [], swapped := [], before := [] } }

/-- Kind 1: the region runs on when its last fault is resolved, or is to stop as by SSTOP (R192, R403); one that has stopped, or is to, stays
so. -/
def Region.resolve (g : Region) (others : Bool) : Resolve → Region
  | .resume => if others || g.run != .faulted || g.stop then g else { g with run := .running, watch := 0 }
  | _ => if g.run = .faulted then { g with stop := true } else g

/-- R311: a faulted token goes on from its recorded progress. -/
def MxToken.retry (t : MxToken) : MxToken := { t with phase := .started, trap := none, halves := [], age := 0 }

/-- R183: the resident image of a domain at a page. -/
def Core.imageOf (k : Core) (dom page : Nat) : Option Image := k.store.find? fun i => i.dom == dom && i.page == page

/-- The frames of position `i` of a region's list, from the resident image; none of it where an image fetched again has fewer. -/
def Core.listed (k : Core) (g : Region) (i : Nat) : Option ConfigFrames :=
  (k.imageOf g.dom g.page).bind fun m => (g.list[i]?).map fun n => m.configs.getD n []

/-- Table 20-8: RESUME re-binds a region's poisoned frames from the store. -/
def Core.rebind (k : Core) (g : Region) : Region :=
  { g with active := g.active.map fun e =>
      if e.2.poisoned.isEmpty then e
      else (e.1, { e.2 with poisoned := [], frames := ((k.listed g g.cfgpc).bind fun m => m[e.1]?).getD e.2.frames }) }

/-- RETURN FROM AN EXCEPTION: record `ix` of core `c` is resolved and freed (Table 20-6). -/
def Core.resolve (k : Core) (ix : Nat) (how : Resolve) : Core :=
  match k.frecs.find? ix with
  | none => k
  | some r =>
    let k := { k with frecs := k.frecs.erase ix }
    match r.subject with
    | .slot n =>
      let k := if how = .ended then k.disown n else k
      if (k.slot n).status = .suspended then k.setSlot n ((k.slot n).resolve r how) else k
    | .region h =>
      let mine (t : MxToken) : Bool := t.phase == .faulted && match t.source with
        | .pin x _ => x == h
        | .cp _ _ => false
      match k.regions.find? h with
      | none => k
      | some g =>
        let others := k.frecs.any fun e => e.2.subject == .region h
        let g' := (if how = .resume then k.rebind g else g).resolve others how
        { k with
          regions := k.regions.set h g'
          mxq := if g'.run = .running && g.run == .faulted then k.mxq.map fun t => if mine t then t.retry else t else k.mxq }
    | .command c =>
      match how with
      | .resume => { k with xus := k.xus.map fun e => if e.1 = c then (e.1, { e.2 with phase := .issued }) else e }
      | _ => k.xuDone c
    | .token id =>
      match how with
      | .resume => { k with mxq := k.mxq.map fun t => if t.id = id then t.retry else t }
      | _ => k.tokDone id
    | .report => k

end Sys2Proof.Machine
end

