-- ==== Sys2Proof/Machine/Flags.lean ====
section
/-! DEFINITION. What the specification has in place of flags: conditions and predicates (R125, R211 to R213), and the sticky
conversion status (R83, R84). -/

namespace Sys2Proof.Machine

/-- Table 5-11, R211: a condition code on two words. -/
def condHolds (code : BitVec 4) (a b : Word) : Bool :=
  match code.toNat with
  | 0 => a == b
  | 1 => a != b
  | 2 => a.slt b
  | 3 => b.sle a
  | 4 => a.sle b
  | 5 => b.slt a
  | 6 => a.ult b
  | 7 => b.ule a
  | 8 => a.ule b
  | 9 => b.ult a
  | _ => false

/-- Conversion status (Table 3-11): inexact, overflow, invalid at bits 2, 1, 0. -/
def cvBits (inexact overflow invalid : Bool) : BitVec 3 :=
  (if inexact then 4 else 0) ||| (if overflow then 2 else 0) ||| (if invalid then 1 else 0)

/-- What a core holds for a gang placed on it. -/
def Core.gangInfo? (k : Core) (g : GangId) : Option CoreGang := (k.gangs.find? fun e => e.1 = g).map fun e => e.2

/-- The core with what it holds for a gang changed by `f`. -/
def Core.onGang (k : Core) (g : GangId) (f : CoreGang → CoreGang) : Core :=
  { k with gangs := k.gangs.map fun e => if e.1 = g then (e.1, f e.2) else e }

/-- R83: the CVSTAT word of a gang on a core, or the core's privileged word for work outside any gang. -/
def Core.cvstat (k : Core) : Option GangId → BitVec 3
  | none => k.cvPriv
  | some g => (k.gangInfo? g).elim 0 fun i => i.cvstat

/-- The core with that word replaced by its image under `f`. -/
def Core.onCvstat (k : Core) (g : Option GangId) (f : BitVec 3 → BitVec 3) : Core :=
  match g with
  | none => { k with cvPriv := f k.cvPriv }
  | some g => k.onGang g fun i => { i with cvstat := f i.cvstat }

/-- R83: status is ORed in. -/
def Core.addStatus (k : Core) (g : Option GangId) (st : BitVec 3) : Core := k.onCvstat g fun v => v ||| st

/-- R84: W1C. -/
def Core.clearStatus (k : Core) (g : Option GangId) (ones : BitVec 3) : Core := k.onCvstat g fun v => v &&& ~~~ones

end Sys2Proof.Machine
end

