-- ==== Sys2Proof/Machine/Operands.lean ====
section
/-! DEFINITION. The operand forms of the control processor: the guard, register operands under their FE bits, destinations, and
how an instruction retires, jumps, stalls or traps (R115, R199 to R203, R213, R218). Each takes what to do next as an argument, so
that an instruction is the list of its checks in the order of R199. -/

namespace Sys2Proof.Machine

/-- The instruction cannot complete now and issues again (R197). -/
def stall (s : State) : Out := .next { s with stalled := true }

/-- The instruction traps. -/
def trap (t : Trap) (s : State) : Out := .next (s.takeTrap t)

/-- The running slot becomes `sl` and its word completes, with end processing (R218). -/
def retire (sl : Slot) (s : State) : Out := .next (s.setCurSlot sl.advance)

/-- The running slot becomes `sl` and control goes to `target` (R218). -/
def transfer (sl : Slot) (target : Word) (s : State) : Out := .next (s.setCurSlot (sl.jump target))

/-- The running core becomes `k`, and the word of its running slot completes. -/
def retireCore (k : Core) (s : State) : Out :=
  .next (s.setCurCore (k.setSlot s.cur.slot (k.slot s.cur.slot).advance))

/-- The state becomes `s`, and the word of its running slot completes. -/
def retireState (s : State) : Out := .next (s.setCurSlot s.curSlot.advance)

/-- R199 step 2: the guard. Pending: the slot stalls. False: the word has no effect (R115) and is end-processed (R218). -/
def guarded (g : Guard) (s : State) (body : Out) : Out :=
  let c := s.curSlot.pcell g.p
  if c.pending then stall s
  else if c.v == g.neg then retire s.curSlot s
  else body

/-- R199 step 3: a register operand under its FE bit. -/
def withReg (r : Reg) (fe : Bool) (s : State) (body : Word → Out) : Out :=
  match s.curSlot.read r fe with
  | .full v => body v
  | .wait => stall s
  | .bad t => trap t s

/-- Register operands in field order, all under one FE bit. -/
def withRegs (fe : Bool) (s : State) : List Reg → (List Word → Out) → Out
  | [], body => body []
  | r :: rs, body => withReg r fe s fun v => withRegs fe s rs fun vs => body (v :: vs)

/-- A predicate source: a read of a pending predicate stalls (R213). -/
def withPred (p : PReg) (s : State) (body : Bool → Out) : Out :=
  let c := s.curSlot.pcell p
  if c.pending then stall s else body c.v

/-- R202: a write to an empty register waits for the pending fill. -/
def withDest (d : Reg) (s : State) (body : Out) : Out :=
  if (s.curSlot.cell d).empty then stall s else body

/-- R213: a write to a pending predicate waits for the reply. -/
def withPDest (d : PReg) (s : State) (body : Out) : Out :=
  if (s.curSlot.pcell d).pending then stall s else body

/-- gD takes `v` and the word retires. -/
def writeReg (d : Reg) (v : Word) (s : State) : Out := withDest d s (retire (s.curSlot.write d v) s)

/-- pD takes `v` and the word retires. -/
def writePred (d : PReg) (v : Bool) (s : State) : Out :=
  withPDest d s (retire (s.curSlot.setPred d ⟨v, false⟩) s)

/-- R231: the instructions that stall while the slot speculates. -/
def unspeculated (s : State) (body : Out) : Out := if s.curSlot.spec.isSome then stall s else body

/-- The word of an instruction, as a trap reports it in EINFO1 (Table 20-5). -/
def wordOfInstr (i : Instr) : Word := (encode i).getD 0

/-- Sign extension of a field to a word (R117, R118, R120). -/
def sext {n : Nat} (v : BitVec n) : Word := v.signExtend 64

end Sys2Proof.Machine
end

