-- ==== Sys2Proof/Machine/Float.lean ====
section
/-! DEFINITION. Number formats and conversion arithmetic (R61 to R75, R85, R86, R256 to R259, R454): exact values, one rounding,
and the functions of the fabric's floating operations over FP32 and BF16 codes. -/

namespace Sys2Proof.Machine

/-- An exact value: a NaN with its sign, an infinity, or (-1)^neg × m × 2^e; m = 0 is a signed zero. -/
inductive Exact where
  | nan (neg : Bool)
  | inf (neg : Bool)
  | fin (neg : Bool) (m : Nat) (e : Int)
deriving DecidableEq, Repr

/-- The floating formats (Table 3-5). -/
inductive Fmt where
  | fp32 | bf16 | e4m3 | e5m2 | e2m1
deriving DecidableEq, Repr

/-- Table 3-5: mantissa bits, exponent bits, bias, code of the largest finite value. -/
def Fmt.mant : Fmt → Nat | .fp32 => 23 | .bf16 => 7 | .e4m3 => 3 | .e5m2 => 2 | .e2m1 => 1
def Fmt.expo : Fmt → Nat | .fp32 => 8 | .bf16 => 8 | .e4m3 => 4 | .e5m2 => 5 | .e2m1 => 2
def Fmt.bias : Fmt → Int | .fp32 => 127 | .bf16 => 127 | .e4m3 => 7 | .e5m2 => 15 | .e2m1 => 1
def Fmt.maxCode : Fmt → Nat | .fp32 => 0x7F7FFFFF | .bf16 => 0x7F7F | .e4m3 => 0x7E | .e5m2 => 0x7B | .e2m1 => 7

/-- The sign bit of a format, as a number. -/
def Fmt.signBit (f : Fmt) (neg : Bool) : Nat := if neg then 2 ^ (f.mant + f.expo) else 0

/-- R66: the value of a code. -/
def Fmt.dec (f : Fmt) (c : Nat) : Exact :=
  let neg := c / 2 ^ (f.mant + f.expo) % 2 == 1
  let x := c / 2 ^ f.mant % 2 ^ f.expo
  let m := c % 2 ^ f.mant
  let ones := x == 2 ^ f.expo - 1
  if (f == .fp32 || f == .bf16 || f == .e5m2) && ones then (if m = 0 then .inf neg else .nan neg)
  else if f == .e4m3 && ones && m == 7 then .nan neg
  else if x = 0 then .fin neg m (1 - f.bias - f.mant)
  else .fin neg (m + 2 ^ f.mant) (x - f.bias - f.mant)

/-- R61, R62: the integer that (-1)^neg × m × 2^e rounds to, as a magnitude, and whether the value changed. -/
def roundMag (mode : BitVec 2) (neg : Bool) (m : Nat) (e : Int) : Nat × Bool :=
  if 0 ≤ e then (m * 2 ^ e.toNat, false)
  else
    let d := 2 ^ (-e).toNat
    let q := m / d
    let r := m % d
    let up := match mode.toNat with
      | 0 => decide (2 * r > d) || (decide (2 * r = d) && q % 2 == 1)
      | 1 => false
      | 2 => !neg && r != 0
      | _ => neg && r != 0
    (if up then q + 1 else q, r != 0)

/-- Table 3-6: the code that a finite overflow gives. -/
def Fmt.overflow (f : Fmt) (mode : BitVec 2) (sat neg : Bool) : Nat :=
  let away := !sat && match mode.toNat with
    | 0 => true
    | 1 => false
    | 2 => !neg
    | _ => neg
  f.signBit neg + match f with
    | .fp32 => if away then 0x7F800000 else f.maxCode
    | .bf16 => if away then 0x7F80 else f.maxCode
    | .e5m2 => if away then 0x7C else f.maxCode
    | .e4m3 => if away then 0x7F else f.maxCode
    | .e2m1 => f.maxCode

/-- R64: `rnd(x, F, mode, sat)` and the status a conversion records (R71 to R73). -/
def Fmt.rnd (f : Fmt) (mode : BitVec 2) (sat : Bool) (x : Exact) : Nat × BitVec 3 :=
  match x with
  | .nan neg =>
    match f with
    | .fp32 => (0x7FC00000, 0)
    | .bf16 => (0x7FC0, 0)
    | .e4m3 => (f.signBit neg + 0x7F, 0)
    | .e5m2 => (f.signBit neg + 0x7E, 0)
    | .e2m1 => (0, cvBits false false true)
  | .inf neg =>
    match f with
    | .fp32 => (f.signBit neg + 0x7F800000, 0)
    | .bf16 => (f.signBit neg + 0x7F80, 0)
    | .e5m2 => (f.signBit neg + 0x7C, 0)
    | .e4m3 => if sat then (f.signBit neg + 0x7E, cvBits false true false) else (f.signBit neg + 0x7F, cvBits false false true)
    | .e2m1 => (f.signBit neg + 7, cvBits false true false)
  | .fin neg m e =>
    if m = 0 then (f.signBit neg, 0)
    else
      let q : Int := max (Nat.log2 m + e - f.mant) (1 - f.bias - f.mant)
      let r := roundMag mode neg m (e - q)
      let code := ((q + f.mant + f.bias).toNat - 1) * 2 ^ f.mant + r.1
      if code > f.maxCode then (f.overflow mode sat neg, cvBits true true false)
      else (f.signBit neg + code, cvBits r.2 false false)

/-! ### Exact arithmetic -/

def Exact.neg : Exact → Bool | .nan n => n | .inf n => n | .fin n _ _ => n
def Exact.isNan : Exact → Bool | .nan _ => true | _ => false
def Exact.isInf : Exact → Bool | .inf _ => true | _ => false
def Exact.isZero : Exact → Bool | .fin _ m _ => m == 0 | _ => false

/-- The value with its sign changed. -/
def Exact.negate : Exact → Exact
  | .nan n => .nan n
  | .inf n => .inf !n
  | .fin n m e => .fin (!n) m e

/-- The exact product; its sign is the exclusive or of the factors' signs (R454). -/
def Exact.mul (a b : Exact) : Exact :=
  let s := a.neg != b.neg
  match a, b with
  | .fin _ m e, .fin _ n f => .fin s (m * n) (e + f)
  | _, _ => if a.isNan || b.isNan || a.isZero || b.isZero then .nan false else .inf s

/-- The finite value × 2^-e as an integer, for e at most its exponent. -/
def Exact.scaled (e : Int) : Exact → Int
  | .fin n m x => (if n then -1 else 1) * (m * 2 ^ (x - e).toNat : Nat)
  | _ => 0

/-- The least exponent among terms, at most 0. -/
def minExp (l : List Exact) : Int :=
  l.foldl (fun e x => match x with | .fin _ m y => if m = 0 then e else min e y | _ => e) 0

/-- The exact sum of terms, with the sign of an exact zero under a rounding mode (R454). -/
def Exact.sum (mode : BitVec 2) (l : List Exact) : Exact :=
  if l.any (fun x => x.isNan) || (l.any (fun x => x == .inf false) && l.any (fun x => x == .inf true)) then .nan false
  else if l.any (fun x => x.isInf) then .inf (l.any (fun x => x == .inf true))
  else
    let e := minExp l
    let z := l.foldl (fun z x => z + x.scaled e) (0 : Int)
    if z = 0 then
      if l.all (fun x => x.isZero && x.neg) then .fin true 0 0
      else if l.all (fun x => x.isZero && !x.neg) then .fin false 0 0
      else .fin (mode == 3) 0 0
    else .fin (decide (z < 0)) z.natAbs e

/-- Whether a < b; false when either is NaN; zeros are equal. -/
def Exact.lt (a b : Exact) : Bool :=
  match a, b with
  | .nan _, _ => false
  | _, .nan _ => false
  | .inf n, .inf m => n && !m
  | .inf n, _ => n
  | _, .inf m => !m
  | x, y => let e := minExp [x, y]
            decide (x.scaled e < y.scaled e)

/-- The order of R69: -0 below +0. -/
def Exact.below (a b : Exact) : Bool := a.lt b || (a.isZero && b.isZero && a.neg && !b.neg)

/-- R69: FMIN or FMAX over codes of a format. -/
def Fmt.pick (f : Fmt) (larger : Bool) (a b : Nat) : Nat :=
  let x := f.dec a
  let y := f.dec b
  if x.isNan then (if y.isNan then (f.rnd 0 false (.nan false)).1 else b)
  else if y.isNan then a
  else if (if larger then x.below y else y.below x) then b else a

/-- R256, FMOD: exact. -/
def Exact.mod (a b : Exact) : Exact :=
  match a, b with
  | .fin n m e, .fin _ m' e' =>
    if m' = 0 then .nan false
    else
      let k := min (min e e') 0
      .fin n (m * 2 ^ (e - k).toNat % (m' * 2 ^ (e' - k).toNat)) k
  | .fin n m e, .inf _ => .fin n m e
  | _, _ => .nan false

/-! ### Special functions (R259) -/

/-- Whether bit b belongs to the root of n above r, from bit `fuel` - 1 down. -/
def isqrtFrom : Nat → Nat → Nat → Nat
  | 0, _, r => r
  | b + 1, n, r => if (r + 2 ^ b) * (r + 2 ^ b) ≤ n then isqrtFrom b n (r + 2 ^ b) else isqrtFrom b n r

/-- The integer part of the square root of n < 4^w. -/
def isqrt (w n : Nat) : Nat := isqrtFrom w n 0

/-- A value known to lie at q × 2^e when `exact`, and strictly between q × 2^e and (q + 1) × 2^e otherwise: a value in that gap, which
rounds alike. -/
def sticky (neg : Bool) (q : Nat) (e : Int) (exact : Bool) : Exact :=
  if exact then .fin neg q e else .fin neg (2 * q + 1) (e - 1)

/-- 1 / a. -/
def Exact.rcp : Exact → Exact
  | .nan n => .nan n
  | .inf n => .fin n 0 0
  | .fin n m e => if m = 0 then .inf n else sticky n (2 ^ 80 / m) (-80 - e) (2 ^ 80 % m == 0)

/-- A magnitude and exponent with an even exponent. -/
def evenExp (m : Nat) (e : Int) : Nat × Int := if e % 2 = 0 then (m, e) else (2 * m, e - 1)

/-- The square root. -/
def Exact.sqrt : Exact → Exact
  | .nan n => .nan n
  | .inf n => if n then .nan false else .inf false
  | .fin n m e =>
    if m = 0 then .fin n 0 0
    else if n then .nan false
    else
      let p := evenExp m e
      let q := isqrt 128 (p.1 * 2 ^ 128)
      sticky false q (p.2 / 2 - 64) (q * q == p.1 * 2 ^ 128)

/-- 1 / √a. -/
def Exact.rsq : Exact → Exact
  | .nan n => .nan n
  | .inf n => if n then .nan false else .fin false 0 0
  | .fin n m e =>
    if m = 0 then .inf n
    else if n then .nan false
    else
      let p := evenExp m e
      let q := isqrt 81 (2 ^ 160 / p.1)
      sticky false q (-80 - p.2 / 2) (q * q * p.1 == 2 ^ 160)

/-- 2^(F / 2^64) scaled by 2^256, from the roots of 2: `r` is 2^(2^-(64 - n)) scaled. The error is below 2^-240 of the value, far
below the distance of any result from a rounding boundary (log 27). -/
def exp2Frac : Nat → Nat → Nat → Nat → Nat
  | 0, _, _, acc => acc
  | n + 1, F, r, acc =>
    let r := isqrt 264 (r * 2 ^ 256)
    exp2Frac n F r (if F / 2 ^ n % 2 = 1 then acc * r / 2 ^ 256 else acc)

/-- 2^a. -/
def Exact.exp2 : Exact → Exact
  | .nan n => .nan n
  | .inf n => if n then .fin false 0 0 else .inf false
  | .fin n m e =>
    if m = 0 then .fin false 1 0
    else
      let top : Int := Nat.log2 m + e
      if top ≥ 10 then (if n then .fin false 1 (-1000) else .fin false 1 1000)
      else if top < -40 then (if n then .fin false (2 ^ 60 - 1) (-60) else .fin false (2 ^ 60 + 1) (-60))
      else
        let x : Int := (if n then -1 else 1) * (m * 2 ^ (e + 64).toNat : Nat)
        let k := x / 2 ^ 64
        let F := (x % 2 ^ 64).toNat
        if F = 0 then .fin false 1 k else sticky false (exp2Frac 64 F (2 ^ 257) (2 ^ 256)) (k - 256) false

/-- Fraction bits of log2 of y / 2^400, for 1 ≤ y / 2^400 < 2, one by each squaring. -/
def log2Frac : Nat → Nat → Nat → Nat
  | 0, _, acc => acc
  | n + 1, y, acc =>
    let z := y * y / 2 ^ 400
    if z ≥ 2 ^ 401 then log2Frac n (z / 2) (2 * acc + 1) else log2Frac n z (2 * acc)

/-- log2 a (log 27). -/
def Exact.log2 : Exact → Exact
  | .nan n => .nan n
  | .inf n => if n then .nan false else .inf false
  | .fin n m e =>
    if m = 0 then .inf true
    else if n then .nan false
    else
      let p := Nat.log2 m
      let k : Int := p + e
      if m = 2 ^ p then .fin (decide (k < 0)) k.natAbs 0
      else
        let z : Int := k * 2 ^ 128 + log2Frac 128 (m * 2 ^ 400 / 2 ^ p) 0
        if z ≥ 0 then .fin false (2 * z.natAbs + 1) (-129) else .fin true (2 * z.natAbs - 1) (-129)

/-! ### Codes -/

/-- The value of an FP32 word. -/
def f32 (x : Lane) : Exact := Fmt.fp32.dec x.toNat
/-- The value of a BF16 half. -/
def b16 (x : BitVec 16) : Exact := Fmt.bf16.dec x.toNat
/-- FP32 under a mode, SAT = 0. -/
def toF32 (mode : BitVec 2) (x : Exact) : Lane := BitVec.ofNat 32 (Fmt.fp32.rnd mode false x).1
/-- BF16 under a mode, SAT = 0. -/
def toB16 (mode : BitVec 2) (x : Exact) : BitVec 16 := BitVec.ofNat 16 (Fmt.bf16.rnd mode false x).1

/-- R64: fadd, fmul, ffma in FP32. -/
def fadd32 (mode : BitVec 2) (a b : Lane) : Lane := toF32 mode (Exact.sum mode [f32 a, f32 b])
def fmul32 (mode : BitVec 2) (a b : Lane) : Lane := toF32 mode ((f32 a).mul (f32 b))
def ffma32 (mode : BitVec 2) (a b c : Lane) : Lane := toF32 mode (Exact.sum mode [(f32 a).mul (f32 b), f32 c])
/-- R69 in FP32. -/
def fmin32 (a b : Lane) : Lane := BitVec.ofNat 32 (Fmt.fp32.pick false a.toNat b.toNat)
def fmax32 (a b : Lane) : Lane := BitVec.ofNat 32 (Fmt.fp32.pick true a.toNat b.toNat)

/-- R85: one group of a matrix sum: c plus sixteen products, exact and rounded once. -/
def groupSum (c : Lane) (ps : List Exact) : Lane := toF32 0 (Exact.sum 0 (f32 c :: ps))

/-- R75: FP32 to INT32 and its status. -/
def cvtToInt (mode : BitVec 2) (x : Exact) : Lane × BitVec 3 :=
  let bad := cvBits false false true
  match x with
  | .nan _ => (0, bad)
  | .inf n => (if n then 0x80000000 else 0x7FFFFFFF, bad)
  | .fin n m e =>
    let r := roundMag mode n m e
    if n && r.1 > 2 ^ 31 then (0x80000000, bad)
    else if !n && r.1 ≥ 2 ^ 31 then (0x7FFFFFFF, bad)
    else (BitVec.ofInt 32 (if n then -(r.1 : Int) else r.1), cvBits r.2 false false)

/-- R75: INT32 to FP32 and its status. -/
def cvtFromInt (mode : BitVec 2) (a : Lane) : Lane × BitVec 3 :=
  let z := a.toInt
  let r := Fmt.fp32.rnd mode false (.fin (decide (z < 0)) z.natAbs 0)
  (BitVec.ofNat 32 r.1, r.2)

/-- The floating format of a page format code, if it is one. -/
def fmtOfCode (f : Nat) : Option Fmt :=
  match f with
  | 0x08 => some .fp32 | 0x09 => some .bf16 | 0x0A => some .e4m3 | 0x0B => some .e5m2 | 0x0C => some .e2m1
  | _ => none

/-- One element converted between two floating formats (R71 to R74). -/
def convElem (src dst : Fmt) (mode : BitVec 2) (sat : Bool) (c : Nat) : Nat × BitVec 3 := dst.rnd mode sat (src.dec c)

end Sys2Proof.Machine
end

