-- ==== Sys2Proof/Machine/Fetch.lean ====
section
/-! DEFINITION. The instruction buffer and the fetch of a word (R195). -/

namespace Sys2Proof.Machine

/-- The line of the buffer that holds VA `pc` for a domain. -/
def Core.iline? (k : Core) (dom : Nat) (pc : Word) : Option ILine :=
  k.ibuf.find? fun l => l.dom == dom && l.line == pc.toNat / 64

/-- The word at `pc`, when its line is in the buffer. -/
def Core.fetchWord (k : Core) (pc : Word) : Option Word :=
  (k.iline? k.domain.toNat pc).map fun l => BitVec.ofNat 64 (leNat ((l.bytes.drop (pc.toNat % 64)).take 8))

/-- The buffer with a line at its most recently used end; it holds 1,024 (R195). -/
def Core.putLine (k : Core) (l : ILine) : Core :=
  { k with ibuf := (l :: k.ibuf.filter fun x => !(x.dom == l.dom && x.line == l.line)).take Config.ibufLines }

/-- The buffer after a hit. -/
def Core.touchLine (k : Core) (pc : Word) : Core :=
  match k.iline? k.domain.toNat pc with
  | some l => k.putLine l
  | none => k

end Sys2Proof.Machine
end

