-- ==== Sys2Proof/Machine/Translate.lean ====
section
/-! DEFINITION. Buffer records, page tables, translation and its checks in the order of R94 (R88 to R108), page formats and what
they admit (R96, R97), linings (R106, R107), queue control lines (R145), collars (R379 to R381). -/

namespace Sys2Proof.Machine

/-! ### Buffer records (Table 4-7) -/

/-- Bits [lo + n - 1 : lo] of a record, as a number. -/
def rfld {m : Nat} (r : BitVec m) (lo n : Nat) : Nat := (r.extractLsb' lo n).toNat

/-- The record's fields. -/
def recKind (r : BitVec 256) : Nat := rfld r 252 4
def recView (r : BitVec 256) : Nat := rfld r 247 5
def recBounds (r : BitVec 256) : Nat := rfld r 245 2
def recPlaned (r : BitVec 256) : Bool := r.getLsbD 244
def recBase (r : BitVec 256) : Nat := rfld r 192 52
def recExtent (r : BitVec 256) : Nat := rfld r 152 40
def recStride1 (r : BitVec 256) : Int := (r.extractLsb' 120 32).toInt
def recStride2 (r : BitVec 256) : Int := (r.extractLsb' 88 32).toInt
def recN2 (r : BitVec 256) : Nat := rfld r 72 16
def recN1 (r : BitVec 256) : Nat := rfld r 56 16
def recN0 (r : BitVec 256) : Nat := rfld r 40 16
def recLid (r : BitVec 256) : Nat := rfld r 28 12

/-- RING fields (Table 4-7): slot size, slot count N, lead L, stage pointer P, VA of the slot barrier array. -/
def ringS (r : BitVec 256) : Nat := rfld r 120 32
def ringN (r : BitVec 256) : Nat := rfld r 66 6
def ringL (r : BitVec 256) : Nat := rfld r 60 6
def ringP (r : BitVec 256) : Nat := rfld r 54 6
def ringBar (r : BitVec 256) : Nat := rfld r 72 48 * 16

/-- A record with its stage pointer replaced. -/
def ringSetP (r : BitVec 256) (p : Nat) : BitVec 256 :=
  (r &&& ~~~((63 : BitVec 256) <<< 54)) ||| ((BitVec.ofNat 256 (p % 64)) <<< 54)

/-! ### Page formats (Tables 4-5 and 4-6) -/

/-- R96: the reserved codes. -/
def fmtReserved (f : Nat) : Bool :=
  f == 0x0E || f == 0x0F || (0x13 ≤ f && f ≤ 0x17) || (0x19 ≤ f && f ≤ 0x1B) || 0x20 ≤ f

/-- The block formats. -/
def fmtDb (f : Nat) : Bool := 0x10 ≤ f && f ≤ 0x12

/-- The element formats. -/
def fmtElement (f : Nat) : Bool := 0x01 ≤ f && f ≤ 0x0D

/-- Element size in half bytes of a view (R103); DB elements are 4, 8 and 16 bits. -/
def viewHalf (f : Nat) : Nat :=
  match f with
  | 0x01 => 2 | 0x02 => 4 | 0x03 => 8 | 0x04 => 16 | 0x05 => 2 | 0x06 => 4 | 0x07 => 8 | 0x08 => 8 | 0x09 => 4
  | 0x0A => 2 | 0x0B => 2 | 0x0C => 1 | 0x0D => 2 | 0x10 => 1 | 0x11 => 2 | 0x12 => 4 | _ => 2

/-- R104, Table 5-19: the conversion codes' from-format and to-format. -/
def convFormats (c : Nat) : Option (Nat × Nat) :=
  match c with
  | 0x01 => some (0x08, 0x09) | 0x02 => some (0x09, 0x08) | 0x03 => some (0x08, 0x0A) | 0x04 => some (0x08, 0x0B)
  | 0x05 => some (0x08, 0x0C) | 0x06 => some (0x0A, 0x08) | 0x07 => some (0x0B, 0x08) | 0x08 => some (0x0C, 0x08)
  | 0x09 => some (0x09, 0x0A) | 0x0A => some (0x09, 0x0B) | 0x0B => some (0x09, 0x0C) | 0x0C => some (0x0A, 0x09)
  | 0x0D => some (0x0B, 0x09) | 0x0E => some (0x0C, 0x09) | 0x10 => some (0x09, 0x10) | 0x11 => some (0x09, 0x11)
  | 0x12 => some (0x09, 0x12) | 0x13 => some (0x08, 0x10) | 0x14 => some (0x08, 0x11) | 0x15 => some (0x08, 0x12)
  | 0x18 => some (0x10, 0x08) | 0x19 => some (0x11, 0x08) | 0x1A => some (0x12, 0x08) | 0x1B => some (0x10, 0x09)
  | 0x1C => some (0x11, 0x09) | 0x1D => some (0x12, 0x09) | _ => none

/-- The conversion code between two formats, if one exists (R104). -/
def convCode (src dst : Nat) : Option Nat := (List.range 32).find? fun c => convFormats c == some (src, dst)

/-- R104: a view that the page's format reaches. -/
def viewReaches (page view : Nat) (write : Bool) : Bool :=
  view == page
    || (view == 0 && (page == 0 || fmtElement page || fmtDb page))
    || (if write then (convCode view page).isSome else (convCode page view).isSome)

/-- What an access does, for Table 4-6; `wide` are the loads other than LD, which a CODE page does not admit. -/
inductive Use where
  | load | wide | store | atomic (fadd : Bool) | copy | stream | matrix | fetch | barrier | queue | counter | any
deriving DecidableEq, Repr

/-- Table 4-6: what a page format admits. A SCALE page takes part in a copy only when both operands are SCALE, which the copy
checks; SAVE pages admit privileged loads and stores, whose privilege is checked before (R97). -/
def admits (u : Use) (f : Nat) : Bool :=
  match u with
  | .load => f == 0 || fmtElement f || fmtDb f || f == 0x1D || f == 0x1E || f == 0x1F
  | .wide => f == 0 || fmtElement f || fmtDb f || f == 0x1D || f == 0x1F
  | .store => f == 0 || fmtElement f || fmtDb f || f == 0x1D || f == 0x1F
  | .atomic fadd => if fadd then f == 0x08 else f == 0 || fmtElement f || f == 0x1D
  | .copy => f == 0 || fmtElement f || fmtDb f || f == 0x18 || f == 0x1E
  | .stream => f == 0 || fmtElement f || fmtDb f
  | .matrix => fmtDb f
  | .fetch => f == 0x1E
  | .barrier => f == 0x1C
  | .queue => f == 0x1D
  | .counter => f == 0 || f == 0x04
  | .any => true

/-! ### Page-table entries (Table 4-4) -/

def pteType (p : BitVec 128) : Nat := rfld p 0 2
def ptePpn (p : BitVec 128) : Nat := rfld p 16 32
def pteRd (p : BitVec 128) : Bool := p.getLsbD 63
def pteWr (p : BitVec 128) : Bool := p.getLsbD 64
def pteEx (p : BitVec 128) : Bool := p.getLsbD 65
def ptePv (p : BitVec 128) : Bool := p.getLsbD 66
def pteSize (p : BitVec 128) : Bool := p.getLsbD 67
def ptePlaned (p : BitVec 128) : Bool := p.getLsbD 68
def pteFmt (p : BitVec 128) : Nat := rfld p 69 5
def pteDom (p : BitVec 128) : Nat := rfld p 74 4
def pteNode (p : BitVec 128) : Nat := rfld p 78 12
def pteSpage (p : BitVec 128) : Nat := rfld p 90 32
def pteSslot (p : BitVec 128) : Nat := rfld p 122 3

/-- R89: a physical page number that names no home: HBM bits [46:41] are to be 0; a scratchpad core is at most 383. -/
def ppnBad (ppn : Nat) : Bool :=
  let pa := ppn * 2 ^ 16
  if bits pa 47 47 = 1 then bits pa 46 33 != 0 || bits pa 32 24 ≥ Config.numCores else bits pa 46 41 != 0

/-- Whether a physical page number lies in a scratchpad slice. -/
def ppnSlice (ppn : Nat) : Bool := ppn / 2 ^ 31 % 2 == 1

/-- R94: whether an entry that is not invalid is malformed at a level. -/
def pteBad (level : Nat) (p : BitVec 128) : Bool :=
  if pteType p = 1 then
    level == 3 || rfld p 48 80 != 0 || rfld p 2 14 != 0 || ppnBad (ptePpn p) || ppnSlice (ptePpn p)
  else
    level != 3 || rfld p 125 3 != 0 || rfld p 48 15 != 0 || rfld p 2 14 != 0 || fmtReserved (pteFmt p)
      || (!fmtDb (pteFmt p) && (pteSslot p != 0 || pteSpage p != 0 || ptePlaned p))
      || (fmtDb (pteFmt p) && ppnBad (pteSpage p))
      || (if pteType p = 3 then pteSize p || ptePpn p ≥ 4096
          else ppnBad (ptePpn p) || (pteSize p && (ppnSlice (ptePpn p) || ptePpn p % 32 != 0)))

/-- An XLATE trap (Table 20-5): 0 invalid, 1 malformed, 2 out of range or disabled, 3 gated slice, 4 lining; the level that failed. -/
def xlateTrap (detail va level : Nat) : Trap :=
  { cause := .xlate, detail := detail, info1 := BitVec.ofNat 64 va, info2 := BitVec.ofNat 64 level }

/-- One entry of a table: 16 bytes at base + 16 × index (Table 4-2). -/
def State.pteAt (s : State) (base index : Nat) : BitVec 128 := BitVec.ofNat 128 (s.load (base + 16 * index) 16)

/-- A table entry that leads to the next level. -/
def nextTable (p : BitVec 128) (va level : Nat) : Except Trap Nat :=
  if pteType p = 0 then .error (xlateTrap 0 va level)
  else if pteBad level p || pteType p ≠ 1 then .error (xlateTrap 1 va level)
  else .ok (ptePpn p * 2 ^ 16)

/-- R91: the walk of three levels. An entry of size 1 that is not the first of its 32 maps its 2 MiB all the same (log 42). -/
def State.walk (s : State) (ptbase : Word) (va : Nat) : Except Trap (BitVec 128) :=
  if !ptbase.getLsbD 0 then .error (xlateTrap 2 va 0)
  else do
    let t2 ← nextTable (s.pteAt (rfld ptbase 16 32 * 2 ^ 16) (bits va 51 40)) va 1
    let t3 ← nextTable (s.pteAt t2 (bits va 39 28)) va 2
    let big := s.pteAt t3 (bits va 27 21 * 32)
    let p := if pteSize big then big else s.pteAt t3 (bits va 27 16)
    if pteType p = 0 then .error (xlateTrap 0 va 3)
    else if pteBad 3 p then .error (xlateTrap 1 va 3)
    else .ok p

/-- Who translates: its die's buffers, its domain, its privilege, its table base; the core whose buffer it uses, if it is one, and the
port that waits for a walk (R100); without a port the walk is made at once. -/
structure Issuer where
  die : Nat
  dom : Nat
  priv : Bool
  ptbase : Word
  core : Option Nat
  port : Option Port
deriving DecidableEq, Repr

/-- The translation of a page in a core's buffer (R99). -/
def Core.buffered (k : Core) (va : Nat) : Option (BitVec 128) :=
  (k.tlb.find? fun e => e.1 == va / 2 ^ 16).map fun e => e.2

/-- The translation of a page in a die's buffer (R99). -/
def State.dieBuffered (s : State) (die dom va : Nat) : Option (BitVec 128) :=
  (s.tlb.find? fun e => e.die == die && e.dom == dom && e.page == va / 2 ^ 16).map fun e => e.pte

/-- The buffered translation of a page, if the issuer's core or die holds one (R99). -/
def State.buffered (s : State) (i : Issuer) (va : Nat) : Option (BitVec 128) :=
  match i.core.bind fun c => (s.core c).buffered va with
  | some p => some p
  | none => s.dieBuffered i.die i.dom va

/-- R100: the fault of an ended walk that a port has still to take. -/
def State.walkFault (s : State) (i : Issuer) (p : Port) (va : Nat) : Option Trap :=
  (s.walks.find? fun w => w.fault.isSome && w.die == i.die && w.dom == i.dom && w.page == va / 2 ^ 16 && w.ports.contains p).bind
    fun w => w.fault.map fun t => { t with info1 := BitVec.ofNat 64 va }

/-- The page-table entry of a VA, with translation enabled (R92): buffered, or walked: a port takes the fault that its walk ended with,
or waits for one. -/
def State.entryOf (s : State) (i : Issuer) (va : Nat) : Except Trap (BitVec 128) :=
  if !i.ptbase.getLsbD 0 then .error (xlateTrap 2 va 0)
  else match s.buffered i va with
    | some p => .ok p
    | none => match i.port with
      | none => s.walk i.ptbase va
      | some p => match s.walkFault i p va with
        | some t => .error t
        | none => .error (walkMiss va)

/-- How many entries a die's buffer and a core's buffer hold (R99). -/
def tlbSize : Nat := 4096
def coreTlbSize : Nat := 512

/-- A core's buffer with one more entry; when 512 are held, which one goes is open. -/
def State.keepCore (s : State) (c page : Nat) (p : BitVec 128) : State :=
  let k := s.core c
  if (k.tlb.any fun e => e.1 == page) then s
  else
    let k' := { k with tlb := (page, p) :: k.tlb }
    if k.tlb.length < coreTlbSize then s.setCore c k'
    else match k.tlb[Config.freeNat s.fresh % coreTlbSize]? with
      | none => s.setCore c k'
      | some e => { s.setCore c { k' with tlb := k'.tlb.erase e } with fresh := s.fresh + 1 }

/-- A die's buffer with one more entry; when 4,096 are held, which one goes is open. -/
def State.keepDie (s : State) (die dom page : Nat) (p : BitVec 128) : State :=
  if (s.dieBuffered die dom (page * 2 ^ 16)).isSome then s
  else
    let mine := s.tlb.filter fun e => e.die == die
    let s' := { s with tlb := ⟨die, dom, page, p⟩ :: s.tlb }
    if mine.length < tlbSize then s'
    else match mine[Config.freeNat s.fresh % tlbSize]? with
      | none => s'
      | some e => { s' with tlb := s'.tlb.erase e, fresh := s.fresh + 1 }

/-- The buffers after an access that translated (R99): a valid entry is kept in the issuer's core, and in its die. -/
def State.remember (s : State) (i : Issuer) (va : Nat) : State :=
  match s.buffered i va with
  | some p => i.core.elim s fun c => s.keepCore c (va / 2 ^ 16) p
  | none =>
    match i.port, s.walk i.ptbase va with
    | none, .ok p =>
      let s := s.keepDie i.die i.dom (va / 2 ^ 16) p
      i.core.elim s fun c => s.keepCore c (va / 2 ^ 16) p
    | _, _ => s

/-- A translated page: the key of VA bits [15:0] = 0, its format, layout, scale address, lining id and page-table entry. -/
structure Page where
  key : Nat
  fmt : Nat
  planed : Bool
  scale : Nat
  lid : Option Nat
  dom : Nat
  node : Nat
deriving DecidableEq, Repr

/-- R142: a node number; this module's own is treated as 0. -/
def State.nodeOf (s : State) (n : Nat) : Nat := if n = s.node then 0 else n

/-- R419: an access to a key of a node that has been declared unreachable traps at issue. -/
def State.lostNode (s : State) (va key : Nat) : Option Trap :=
  let n := key / 2 ^ 48
  if n ≠ 0 ∧ s.unreachable.contains n then some { cause := .link, info1 := BitVec.ofNat 64 va, info2 := BitVec.ofNat 64 n } else none

/-- The scale metadata's address of a page's byte 0 (R98): spage, sslot and the size of the page. -/
def scaleBase (p : BitVec 128) (slot : Nat) (pageOff : Nat) : Nat :=
  pteSpage p * 2 ^ 16 + slot * (if pteSize p then 262144 else 8192) + pageOff

/-- Lining descriptor `n`. -/
def State.lining (s : State) (n : Nat) : Lining := s.linings.get Lining.reset n

/-- R89, R107: the physical page and set that a lined page's access reaches; `into` asks for the lining. A descriptor that names a
malformed address is malformed, and so is one whose pair entry does. -/
def State.linedPage (s : State) (p : BitVec 128) (va : Nat) (into : Bool) : Except Trap (Nat × Bool) :=
  let d := s.lining (ptePpn p)
  let v := va / 2 ^ 16
  if !d.valid || d.dom.toNat != pteDom p || v < d.vbase.toNat || d.npages.toNat ≤ v - d.vbase.toNat then
    .error (xlateTrap 4 va 0)
  else
    let set1 := d.fl != into
    let e := s.load (d.pairs.toNat * 2 ^ 16 + 8 * (v - d.vbase.toNat)) 8
    let ppn := if set1 then bits e 63 32 else bits e 31 0
    if ppnBad d.pairs.toNat || ppnSlice d.pairs.toNat || ppnBad ppn then .error (xlateTrap 1 va 0) else .ok (ppn, set1)

/-- R94: a VA translated and checked: range, walk, lining and gate; domain; permissions for what is attempted (`rd`, `wr`, or a
fetch); format. `lined` is the lid of a LINED record, through which no atomic goes (R364). A fetch from a page that is not CODE and has ex = 0
takes PROT, by that order (log 23). -/
def State.translate (s : State) (i : Issuer) (u : Use) (rd wr : Bool) (lined : Option Nat) (va : Nat) (view : Nat := 0) :
    Except Trap Page := do
  if Config.vaLimit ≤ va then throw (xlateTrap 2 va 0)
  let p ← s.entryOf i va
  let into := wr && pteType p == 3 && lined == some (ptePpn p)
  let (ppn, set1) ← if pteType p = 3 then s.linedPage p va into else pure (ptePpn p, false)
  if ppnSlice ppn && s.nodeOf (pteNode p) == 0 && (s.core (bits (ppn * 2 ^ 16) 32 24)).sgate then throw (xlateTrap 3 va 0)
  if pteDom p ≠ i.dom then
    throw { cause := .domain, info1 := BitVec.ofNat 64 va, info2 := BitVec.ofNat 64 (pteDom p) }
  let fetch := u == .fetch
  let okRead := if fetch then pteEx p else (!rd || pteRd p) && (!wr || pteWr p)
  let cp := match u with | .load => true | .wide => true | .store => true | .atomic _ => true | _ => false
  let okPriv := (!ptePv p && !(pteFmt p == 0x1F && cp)) || i.priv
  if !okRead || !okPriv then
    throw { cause := .prot, info1 := BitVec.ofNat 64 va,
            info2 := BitVec.ofNat 64 ((if fetch then 4 else (if rd then 1 else 0) + (if wr then 2 else 0)) + (if okPriv then 0 else 8)) }
  let atomic := match u with | .atomic _ => true | _ => false
  if !admits u (pteFmt p) || (lined.isSome && atomic) || (lined.isSome && lined != (if pteType p = 3 then some (ptePpn p) else none)) then
    throw { cause := .format, info1 := BitVec.ofNat 64 va, info2 := BitVec.ofNat 64 (pteFmt p + view * 2 ^ 8) }
  let off := if pteSize p then va % 2 ^ 21 / 2 ^ 16 * 2 ^ 16 else 0
  let slot := if pteType p = 3 && set1 then Nat.xor (pteSslot p) 1 else pteSslot p
  let gb := if pteFmt p = 0x10 then 128 else if pteFmt p = 0x11 then 256 else 512
  return ⟨memKey (s.nodeOf (pteNode p)) (ppn * 2 ^ 16 + off), pteFmt p, ptePlaned p, scaleBase p slot (16 * (off / gb)),
          if pteType p = 3 then some (ptePpn p) else none, pteDom p, s.nodeOf (pteNode p)⟩

/-- R145: the valid queue whose control line a VA of a domain names, the lowest-numbered of several (log 42). -/
def State.ctlQueue (s : State) (dom va : Nat) : Option Nat :=
  (List.find? (fun e => e.2.valid && e.2.dom.toNat == dom && e.2.ctl.toNat == va / 64) s.queues).map fun e => e.1

/-- R145: the lines of a page of a domain, VA[51:16], that are control lines of valid queues, each with its queue. -/
def State.ctlLines (s : State) (dom page : Nat) : List (Nat × Nat) :=
  s.queues.filterMap fun e =>
    if e.2.valid && e.2.dom.toNat == dom && e.2.ctl.toNat / 1024 == page then some (e.2.ctl.toNat % 1024, e.1) else none

/-- The home of a translated byte (R26, R145): a queue's control line is at its hem die whatever page maps it. -/
def State.homeOf (s : State) (p : Page) (va : Nat) : Home :=
  match s.ctlQueue p.dom va with
  | some q => .ctl q (va % 64)
  | none => .mem (p.key + va % 2 ^ 16)

end Sys2Proof.Machine
end

