-- ==== Sys2Proof/Machine/Db.lean ====
section
/-! DEFINITION. The dual-exponent block formats DB4, DB8 and DB16 (R76 to R82). -/

namespace Sys2Proof.Machine

/-- R76: magnitude bits of a DB page format. -/
def dbM (fmt : Nat) : Nat := if fmt = 0x10 then 2 else if fmt = 0x11 then 6 else 14

/-- R77: bytes of a scale group. -/
def dbGroup (fmt : Nat) : Nat := if fmt = 0x10 then 128 else if fmt = 0x11 then 256 else 512

/-- Table 3-9: the scale, a block's offsets, and whether bytes 9 to 15 are 0 (R78). -/
def metaX (w : BitVec 128) : Nat := rfld w 0 8
def metaE (w : BitVec 128) (b : Nat) (sel : Bool) : Nat := rfld w (8 * (b + 1) + if sel then 4 else 0) 4
def metaBad (w : BitVec 128) : Bool := rfld w 72 56 != 0

/-- R77: the value of the element with code `c` and index `i` in its group. -/
def dbValue (M : Nat) (w : BitVec 128) (i c : Nat) : Exact :=
  let neg := c / 2 ^ M % 2 == 1
  if metaX w = 0xFF then .nan false
  else .fin neg (c % 2 ^ M) ((metaX w : Int) - 127 - metaE w (i / 32) (c / 2 ^ (M + 1) % 2 == 1) - (M - 1))

/-- R82: DB to FP32 or BF16. -/
def dbTo (M : Nat) (w : BitVec 128) (dst : Fmt) (mode : BitVec 2) (sat : Bool) (i c : Nat) : Nat × BitVec 3 :=
  dst.rnd mode sat (dbValue M w i c)

/-- A code from its selector, sign and magnitude (Table 3-8). -/
def dbCode (M : Nat) (sel neg : Bool) (m : Nat) : Nat :=
  (if sel then 2 ^ (M + 1) else 0) + (if neg then 2 ^ M else 0) + m

/-- floor(log2 |x|) of a nonzero finite value. -/
def Exact.top? : Exact → Option Int
  | .fin _ m e => if m = 0 then none else some (Nat.log2 m + e)
  | _ => none

/-- The largest floor(log2 |x|) over nonzero values. -/
def topOf (xs : List Exact) : Option Int :=
  xs.foldl (fun t x => match t, x.top? with
    | none, y => y
    | some a, some b => some (max a b)
    | some a, none => some a) none

/-- R80: one element at a block's offsets: its code and status. -/
def dbElement (M : Nat) (mode : BitVec 2) (Eg : Int) (e0 e1 : Nat) (x : Exact) : Nat × BitVec 3 :=
  match x with
  | .fin n m e =>
    let unit (k : Nat) : Int := Eg - k - (M - 1)
    let q1 := roundMag mode n m (e - unit e1)
    if q1.1 < 2 ^ M then (dbCode M true n q1.1, cvBits q1.2 false false)
    else
      let q0 := roundMag mode n m (e - unit e0)
      if q0.1 < 2 ^ M then (dbCode M false n q0.1, cvBits q0.2 false false)
      else (dbCode M false n (2 ^ M - 1), cvBits true true false)
  | _ => (0, 0)

/-- R80: the offsets of a block. -/
def dbOffsets (M : Nat) (Eg : Int) (xs : List Exact) : Nat × Nat :=
  match topOf xs with
  | none => (15, 15)
  | some Eb => let e0 := min 15 (Eg - Eb).toNat
               (e0, min 15 (e0 + M))

/-- What converting a group gives: element codes, metadata, status. -/
structure DbGroup where
  codes : List Nat
  scale : BitVec 128
  status : BitVec 3
deriving DecidableEq, Repr

/-- The metadata word of a scale and eight blocks' offsets. -/
def metaWord (x : Nat) (es : List (Nat × Nat)) : BitVec 128 :=
  BitVec.ofNat 128 (x + leNat (es.map fun e => BitVec.ofNat 8 (e.1 + 16 * e.2)) * 256)

/-- Block `b` of a group. -/
def blockOf {α : Type} (xs : List α) (b : Nat) : List α := (xs.drop (32 * b)).take 32

/-- R80: a scale group of 256 values converted into DB; a shorter one has missing elements +0 (R81). -/
def toDb (M : Nat) (mode : BitVec 2) (src : List Exact) : DbGroup :=
  let xs : List Exact := (src ++ List.replicate 256 (Exact.fin false 0 0)).take 256
  if xs.any fun x => x.isNan || x.isInf then
    ⟨List.replicate 256 0, 0xFF, if xs.any (fun x => x.isInf) then cvBits false false true else 0⟩
  else match topOf xs with
    | none => ⟨xs.map fun x => dbCode M false x.neg 0, 0, 0⟩
    | some Emax =>
      let X := max 0 (Emax + 127)
      let Eg := X - 127
      let es := (List.range 8).map fun b => dbOffsets M Eg (blockOf xs b)
      let rs := (List.range 8).flatMap fun b =>
        let e := es.getD b (15, 15)
        (blockOf xs b).map (dbElement M mode Eg e.1 e.2)
      ⟨rs.map fun r => r.1, metaWord X.toNat es, rs.foldl (fun st r => st ||| r.2) 0⟩

/-! ### Layouts (R76, R79) -/

/-- The bit of a code that plane word `w` holds: σ, sign, then magnitude bits from M - 1 down. -/
def planeBit (M w c : Nat) : Nat := c / 2 ^ (M + 1 - w) % 2

/-- A planed block: M + 2 words of 32 bits. -/
def planeWords (M : Nat) (codes : List Nat) : List (BitVec 32) :=
  (List.range (M + 2)).map fun w =>
    BitVec.ofNat 32 ((codes.take 32).reverse.foldl (fun acc c => 2 * acc + planeBit M w c) 0)

/-- The bytes of a block of 32 codes, dense or planed. -/
def blockBytes (M : Nat) (planed : Bool) (codes : List Nat) : List Byte :=
  if planed then (planeWords M codes).flatMap fun w => leBytes 4 w.toNat
  else leBytes (4 * (M + 2)) ((codes.take 32).reverse.foldl (fun acc c => 2 ^ (M + 2) * acc + c) 0)

/-- The 32 codes of a block's bytes. -/
def blockCodes (M : Nat) (planed : Bool) (bytes : List Byte) : List Nat :=
  let v := leNat bytes
  (List.range 32).map fun j =>
    if planed then (List.range (M + 2)).foldl (fun acc w => 2 * acc + v / 2 ^ (32 * w + j) % 2) 0
    else v / 2 ^ ((M + 2) * j) % 2 ^ (M + 2)

end Sys2Proof.Machine
end

