-- ==== Sys2Proof/Machine/Access.lean ====
section
/-! DEFINITION. One access through a buffer record or a VA: bounds, collar, translation, view, alignment (R94, R103 to R107, R319,
R379 to R383); its request, where it travels and which permits it takes (R317, R318, R341, R345). -/

namespace Sys2Proof.Machine

/-- The issuer of a slot's accesses (R94). -/
def State.issuerOf (s : State) (core : Nat) (priv : Bool) (port : Option Port := none) : Issuer :=
  let k := s.core core
  ⟨dieOf core, k.domain.toNat, priv, k.ptbase, some core, port⟩

/-- The issuer of a slot's accesses. -/
def State.slotIssuer (s : State) (c n : Nat) : Issuer :=
  s.issuerOf c ((s.core c).slot n).priv (some ((s.core c).slotPort c n))

/-- The issuer of the running slot. -/
def State.curIssuer (s : State) : Issuer := s.slotIssuer s.cur.core s.cur.slot

/-- Table 4-7: the reserved fields of a record of its kind. -/
def recReserved (r : BitVec 256) : BitVec 256 :=
  let lid : BitVec 256 := if recKind r = 1 then 0 else 0xFFF <<< 28
  let ring : BitVec 256 := if recKind r = 2 then 0x3FFF <<< 40 else 0
  0xFFFFFFF ||| lid ||| ring

/-- R8: a record as it is read: a reserved field reads as 0. -/
def recRead (r : BitVec 256) : BitVec 256 := r &&& ~~~(recReserved r)

/-- R8, R104, R105, R140, R379: codes, limits and nonzero reserved fields that make every use of a record trap FORMAT. -/
def recBad (r : BitVec 256) : Bool :=
  r &&& recReserved r != 0 || recKind r ≥ 3 || fmtReserved (recView r) || recBounds r == 3 || (recPlaned r && !fmtDb (recView r))
    || (recKind r == 2 &&
        (ringN r < 2 || ringL r < 1 || ringN r ≤ ringL r || ringS r == 0 || ringS r % 64 != 0
          || recExtent r != ringN r * ringS r))

/-- R107: the lining that a record names, if it is LINED. -/
def recLined (r : BitVec 256) : Option Nat := if recKind r = 1 then some (recLid r) else none

/-- A FORMAT trap (Table 20-5): VA, page format, view. -/
def formatTrap (va fmt view : Nat) : Trap :=
  { cause := .format, info1 := BitVec.ofNat 64 va, info2 := BitVec.ofNat 64 (fmt + view * 2 ^ 8) }

/-- A BOUNDS trap: record offset, record number. -/
def boundsTrap (o : Int) (ix : Nat) : Trap := { cause := .bounds, info1 := wordOf o, info2 := BitVec.ofNat 64 ix }

/-- Where a record offset falls: the offset from the record's base of the slot or buffer it is in, the offset inside it, the size
that bounds it, the slot barrier that holds a read. -/
structure Spot where
  base : Nat
  off : Int
  limit : Nat
  hold : Option Nat
deriving DecidableEq, Repr

/-- R380, R381: ring-relative slot `j` at byte `b`. -/
def ringSpot (r : BitVec 256) (ix : Nat) (j : Int) (b : Int) (read write : Bool) : Except Trap Spot :=
  let n := ringN r
  let bad := if write then decide (j ≥ ringL r ∨ j ≤ -(n : Int)) else decide (j.natAbs ≥ n)
  if bad then .error { cause := .collar, info1 := wordOf j,
                       info2 := BitVec.ofNat 64 (ix + ringP r * 2 ^ 8 + if write then 2 ^ 14 else 0) }
  else
    let p := ((ringP r + j) % n).toNat
    .ok ⟨p * ringS r, b, ringS r, if read then some (ringBar r + 16 * p) else none⟩

/-- R380: the spot of a record offset. -/
def spotOf (r : BitVec 256) (ix : Nat) (o : Int) (read write : Bool) : Except Trap Spot :=
  if recKind r = 2 then ringSpot r ix (o / ringS r) (o % ringS r) read write
  else .ok ⟨0, o, recExtent r, none⟩

/-- What bounds leave of an access of `size` bytes (R103): nothing, or these bytes at this offset. -/
inductive Bounded where
  | nothing
  | part (off : Int) (lo len : Nat)
deriving DecidableEq, Repr

/-- R103: an offset under the record's bounds mode; an atomic faults whatever the mode (R364). -/
def boundOf (r : BitVec 256) (ix : Nat) (sp : Spot) (size : Nat) (write atomic : Bool) : Except Trap Bounded :=
  if 0 ≤ sp.off ∧ sp.off + size ≤ sp.limit then .ok (.part sp.off 0 size)
  else if atomic || recBounds r = 0 then .error (boundsTrap sp.off ix)
  else if recBounds r = 1 then
    let lo := (-sp.off).toNat
    let hi := min (sp.off + size) sp.limit
    let len := (hi - max sp.off 0).toNat
    if len = 0 then .ok .nothing else .ok (.part sp.off lo len)
  else if write then .ok .nothing
  else if sp.limit < size then .error (boundsTrap sp.off ix)
  else if sp.off < 0 then .ok (.part 0 0 size)
  else .ok (.part (((sp.limit - size) / size * size : Nat)) 0 size)

/-- The position of a home in one line of bytes: the control lines lie above memory. -/
def Home.pos : Home → Nat
  | .mem key => key
  | .ctl q off => 2 ^ 64 + 64 * q + off

/-- The home at a position. -/
def homeAt (pos : Nat) : Home := if pos < 2 ^ 64 then .mem pos else .ctl ((pos - 2 ^ 64) / 64) (pos % 64)

/-- R145, R156: rules of queue lines and COMMAND rings for a write of `size` bytes. -/
def State.queueRules (s : State) (home : Home) (dom va size : Nat) (host : Bool) : Option Trap :=
  let cmd := s.queue dom
  let inRing := cmd.valid && cmd.type == 2 && cmd.ring.toNat * 2 ^ 10 ≤ va && va < cmd.ring.toNat * 2 ^ 10 + 64 * 2 ^ cmd.logn.toNat
  match home with
  | .ctl q off =>
    if off < 32 && (size != 8 || off % 8 != 0) then some (formatTrap va 0x1D 0)
    else if !host && (s.queue q).type == 2 && off / 8 == 1 then
      some { cause := .domain, info1 := BitVec.ofNat 64 va, info2 := BitVec.ofNat 64 dom }
    else none
  | .mem _ =>
    if !host && inRing then some { cause := .domain, info1 := BitVec.ofNat 64 va, info2 := BitVec.ofNat 64 dom } else none

/-- R145, R156: the rules of a write of a unit for one element: by byte, its position and VA, none where bounds drop it. An element that is not
one aligned word of the first four is no 8-byte access there (log 43). -/
def State.elementRules (s : State) (dom : Nat) (bs : List (Option (Nat × Nat))) : Option Trap :=
  (bs.zipIdx).findSome? fun e => e.1.bind fun b => match homeAt b.1 with
    | .mem key => s.queueRules (.mem key) dom b.2 1 false
    | .ctl q off => s.queueRules (.ctl q (off - e.2)) dom b.2 (if e.2 ≤ off then bs.length else 0) false

/-- A VA of `size` bytes translated and checked (R94, then alignment, R145, R156, R419). A control-processor access is checked for
a reserved view only, since the view converts nothing for it (R319, log 25). Bytes lo to lo + len - 1 are performed. -/
def State.target (s : State) (i : Issuer) (u : Use) (rd wr : Bool) (lined : Option Nat) (view : Nat) (va : Int)
    (size lo len : Nat) (hold : Option Nat) : Except Trap Target := do
  if va < 0 then throw { cause := .xlate, detail := 2, info1 := wordOf va }
  let v := va.toNat
  let p ← s.translate i u rd wr lined v view
  if v % size ≠ 0 then throw { cause := .align, info1 := BitVec.ofNat 64 v }
  let home := s.homeOf p v
  if wr then
    match s.queueRules home p.dom v size false with
    | some t => throw t
    | none => pure ()
  if p.node ≠ 0 && s.unreachable.contains p.node then
    throw { cause := .link, info1 := BitVec.ofNat 64 v, info2 := BitVec.ofNat 64 p.node }
  return ⟨home, v, size, lo, len, hold⟩

/-- An access of `size` bytes at offset `o` through record `r` (number `ix`): what is performed, if anything. -/
def State.recAccess (s : State) (i : Issuer) (r : BitVec 256) (ix : Nat) (o : Int) (size : Nat) (u : Use) (rd wr : Bool) :
    Except Trap (Option Target) := do
  let atomic := match u with | .atomic _ => true | _ => false
  if recBad r then throw (formatTrap (recBase r) 0 (recView r))
  let sp ← spotOf r ix o rd wr
  match ← boundOf r ix sp size wr atomic with
  | .nothing => return none
  | .part off lo len =>
    return some (← s.target i u rd wr (recLined r) (recView r) ((recBase r + sp.base : Nat) + off) size lo len sp.hold)

/-! ### Reading a home -/

/-- Table 6-2: the line as a number. -/
def Queue.line (x : Queue) : Nat :=
  x.head.toNat + x.tail.toNat * 2 ^ 64 + ((if x.closed then 1 else 0) + if x.faulted then 2 else 0) * 2 ^ 128
    + x.resv.toNat * 2 ^ 192

/-- The `n` bytes of a home from offset `lo` of it. -/
def State.homeLoad (s : State) (h : Home) (lo n : Nat) : Nat :=
  match h with
  | .mem key => s.load (key + lo) n
  | .ctl q off => (s.queue q).line / 2 ^ (8 * (off + lo)) % 2 ^ (8 * n)

/-- Whether a home's bytes are poisoned (R417). -/
def State.homePoisoned (s : State) (h : Home) (lo n : Nat) : Bool :=
  match h with
  | .mem key => s.poisonedAt (key + lo) n
  | .ctl _ _ => false

/-- The ECC trap of a read of poisoned bytes (R203, Table 20-5). -/
def eccTrap (t : Target) : Trap :=
  { cause := .ecc, info1 := BitVec.ofNat 64 t.va,
    info2 := match t.home with | .mem key => BitVec.ofNat 64 (key % 2 ^ 48) | .ctl _ _ => 0 }

/-- The targets of `n` 8-byte words from VA `va` upward, read by an issuer as CP loads. -/
def State.wordTargets (s : State) (i : Issuer) : Nat → Nat → Except Trap (List Target)
  | 0, _ => .ok []
  | n + 1, va => do
    let t ← s.target i .load true false none 0 va 8 0 8 none
    let rest ← s.wordTargets i n (va + 8)
    return t :: rest

/-! ### Requests and where they travel -/

/-- Where a request goes. -/
inductive Dest where
  | slice (core : Nat)
  | stack (n : Nat)
  | hem (h : Nat)
  | node (n : Nat)
  | channel (core : Nat)
deriving DecidableEq, Repr

/-- The destination of a home (R26, Table 4-1). -/
def destOf : Home → Dest
  | .ctl q _ => .hem (q / Config.queuesPerHem)
  | .mem key =>
    let node := key / 2 ^ 48
    let pa := key % 2 ^ 48
    if node ≠ 0 then .node node
    else if bits pa 47 47 = 1 then .slice (bits pa 32 24)
    else .stack (bits pa 40 36)

/-- The positions that a target's performed bytes cover: first and one past the last. -/
def Target.span (t : Target) : Nat × Nat := (t.home.pos + t.lo, t.home.pos + t.lo + t.len)

/-- Whether two targets name a byte in common. -/
def Target.overlaps (t u : Target) : Bool :=
  decide (0 < t.len ∧ 0 < u.len ∧ t.span.1 < u.span.2 ∧ u.span.1 < t.span.2)

/-- The destination of a request. -/
def Req.dest (r : Req) : Dest :=
  match r.op with
  | .send core _ _ _ => .channel core
  | .pop _ _ q => .hem (q / Config.queuesPerHem)
  | .reserve q => .hem (q / Config.queuesPerHem)
  | .pushTail q _ => .hem (q / Config.queuesPerHem)
  | .publish lid _ _ => .hem (lid / 1024)
  | .message core _ _ => .channel core
  | .report core _ _ => .channel core
  | .publishWord lid _ => .hem (lid / 1024)
  | .value _ _ => .hem 0
  | .steer _ _ _ => .hem 0
  | _ => destOf r.tgt.home

/-- Whether a destination is the core's own slice or channels, reached without the mesh (R317). -/
def Dest.isLocal (core : Nat) : Dest → Bool
  | .slice c => c == core
  | .channel c => c == core
  | _ => false

/-- R345: how many requests to a destination a core may have outstanding. -/
def Dest.permits : Dest → Option Nat
  | .slice _ => some 16
  | .stack _ => some 8
  | .channel _ => some 4
  | _ => none

/-- The mesh coordinates at which traffic for a destination leaves the routers (R21, R24, R341); a stack's column, a node's hem
die and the row of a hem die's traffic are log 24's. -/
def Dest.exit (core : Nat) : Dest → Nat × Nat
  | .slice c => (coreX c, coreY c)
  | .channel c => (coreX c, coreY c)
  | .stack n => (6 * (n / 2 % 8) + (if n % 2 = 0 then 1 else 4), if n / 2 < 8 then 0 else 7)
  | .hem h => (if h < 2 then 0 else 47, if h % 2 = 0 then min (coreY core) 3 else max (coreY core) 4)
  | .node _ => (0, coreY core)

/-- R345: whether a core has a permit left for a destination. -/
def Core.permitted (k : Core) (core : Nat) (d : Dest) : Bool :=
  d.isLocal core || match d.permits with
    | none => true
    | some n => (k.reqs.filter fun r => r.dest == d && (match r.phase with | .back _ => false | .unsent => false | _ => true)).length < n

/-- Table 14-2: the virtual channel of a request. -/
def Req.vc (r : Req) : Nat :=
  match r.op with
  | .send _ _ _ _ | .publish _ _ _ | .message _ _ _ | .report _ _ _ | .publishWord _ _ => 3
  | .load _ _ | .store _ | .recld _ => if r.bulk then 1 else 0
  | .fetch => if r.bulk then 1 else 0
  | .put _ _ _ | .combine _ _ _ _ | .decrement => 1
  | _ => 0

/-- Table 15-1: the flits of a request. -/
def Req.flits (r : Req) : Nat :=
  match r.op with
  | .store _ | .binit _ _ | .bexp _ | .pushTail _ _ => 2
  | .atomic _ .inc _ _ => 1
  | .atomic _ _ _ _ => 2
  | .send _ _ _ _ | .message _ _ _ | .report _ _ _ => 3
  | .put _ _ _ | .combine _ _ _ _ => if r.tgt.len ≤ 32 then 2 else 3
  | _ => 1

/-- A packet enters a router by an input port: 0 to 4 are north, south, east, west and local (R341). -/
def Router.inject (r : Router) (port vc : Nat) (p : Packet) : Router :=
  { r with queues := r.queues.upd [] (4 * port + vc) fun q => q ++ [p] }

/-- R21, R341: the port by which traffic for a destination leaves its last router, and its replies enter: the row end's for a hem die or
a node, whose traffic a hem die carries. -/
def Dest.port (x : Nat) : Dest → Nat
  | .hem _ => if x = 0 then 3 else 2
  | .node _ => if x = 0 then 3 else 2
  | _ => 4

/-- A numbered request sets out: it travels, or is at its home at once (R200, R317). -/
def Core.depart (k : Core) (core : Nat) (r : Req) : Core :=
  let here := r.dest.isLocal core
  let e := r.dest.exit core
  { k with
    reqs := k.reqs ++ [{ r with phase := if here then .home else .sent }]
    router := if here then k.router else k.router.inject 4 r.vc ⟨core, r.id, false, e.1, e.2, r.flits, 0⟩ }

/-- A request leaves the running slot under the next number. -/
def Core.issueReq (k : Core) (core : Nat) (r : Req) : Core :=
  { k.depart core { r with id := k.nextReq } with nextReq := k.nextReq + 1 }

/-- A reply that needs no travel: it is back at once (R200). -/
def Core.issueReply (k : Core) (r : Req) (p : Reply) : Core :=
  { k with reqs := k.reqs ++ [{ r with id := k.nextReq, phase := .back p }], nextReq := k.nextReq + 1 }

/-- R21, R23: the hem die whose scale-up ports carry a core's traffic to other nodes (log 24), and the number of the port's link: 26
and upward, 18 to a hem die. -/
def nodeHem (core : Nat) : Nat := coreY core / 4
def nodeLink (core n : Nat) : Nat := 26 + Config.portsPerHem * nodeHem core + Config.nodePort n % Config.portsPerHem

/-- A request not yet performed at its home. -/
def Req.unperformed (r : Req) : Bool :=
  match r.phase with | .unsent => true | .sent => true | .home => true | _ => false

/-- R358, R372: a request that is an acquire, or that may turn out to be one when it is performed: a read of a barrier word, whose
instance is then known. -/
def Req.acquires (r : Req) : Bool := r.ord.getLsbD 0 || match r.op with | .brd _ _ => true | _ => false

/-- R358: an acquire of the slot that is not performed yet. A port is a slot (R357), whichever of its tasks issued. -/
def Core.acquiring (k : Core) (slot : Nat) : Bool :=
  k.reqs.any fun r => r.slot == slot && r.unperformed && r.acquires

/-- Whether every access of the slot is performed at its home. -/
def Core.drained (k : Core) (slot : Nat) : Bool := !k.reqs.any fun r => r.slot == slot && r.unperformed

/-- A request of the running slot. -/
def State.newReq (s : State) (op : ReqOp) (t : Target) (ord : BitVec 2) (scope : BitVec 3) (bulk : Bool) : Req :=
  ⟨0, s.cur.slot, true, s.curSlot.gang, s.curCore.domain.toNat, s.curSlot.priv, op, t, ord, scope, bulk, 0, .sent, none, 0, false, none, false, 0, none⟩

/-- A target of nothing, for requests that name no bytes. -/
def noTarget : Target := ⟨.mem 0, 0, 0, 0, 0, none⟩

/-- An empty reply. -/
def Reply.empty : Reply := ⟨[], [], [], none, none, [], [], none⟩

/-- R318: a request of no port sets out on VC3 from a home to a destination; core `c` keeps it, of whose domain it is. -/
def State.sendFrom (s : State) (home : Dest) (c : Nat) (op : ReqOp) : State :=
  let k := s.core c
  let e := home.exit c
  let r : Req := ⟨k.nextReq, 16, true, none, k.domain.toNat, true, op, noTarget, 0, 0, false, 0, .sent, none, 0, false, none, false, 0, none⟩
  let dest := r.dest.exit c
  (s.setCore c { k with reqs := k.reqs ++ [r], nextReq := k.nextReq + 1 }).onCore (e.1 + 48 * e.2) fun x =>
    { x with router := x.router.inject (home.port e.1) r.vc ⟨c, r.id, false, dest.1, dest.2, r.flits, 0⟩ }

/-- R49, R318: a message of a hardware source at a home sets out for a channel of core `c`: it is posted at once from the core's own slice, and
travels from elsewhere. -/
def State.postFrom (s : State) (d : Dest) (c ch : Nat) (m : Msg) : State :=
  if d.isLocal c then s.onCore c fun k => k.post ch m else s.sendFrom d c (.message c ch m)

/-- R430: a gang's mark for a record on the core. -/
def Core.markRecord (k : Core) (g : Option GangId) (n : Nat) : Core :=
  match g with
  | none => k
  | some g => k.onGang g fun i => { i with marks := { i.marks with records := i.marks.records ||| (1 <<< n) } }

/-- R430: a gang's mark for a counter on the core. -/
def Core.markCounter (k : Core) (g : Option GangId) (n : Nat) : Core :=
  match g with
  | none => k
  | some g => k.onGang g fun i => { i with marks := { i.marks with counters := i.marks.counters ||| (1 <<< n) } }

/-- R430: the mark of the slice page that an access of a gang reaches, on the core that owns the slice. -/
def State.markPage (s : State) (g : Option GangId) (h : Home) : State :=
  match g, destOf h, h with
  | some g, .slice c, .mem key =>
    s.onCore c fun k => k.onGang g fun i =>
      { i with marks := { i.marks with pages := i.marks.pages ||| (1 <<< (key % 2 ^ 24 / 2 ^ 16)) } }
  | _, _, _ => s

/-- R430: the slice pages that hold bytes of a range of VAs are marked, as its translations stand. -/
def State.markSpan (s : State) (g : Option GangId) (i : Issuer) (va len : Nat) : State :=
  (List.range (len / 2 ^ 16 + 2)).foldl (fun (s : State) n =>
    let v := (va / 2 ^ 16 + n) * 2 ^ 16
    if v < va + len then
      match s.translate { i with port := none } .any false false none v with
      | .ok p => s.markPage g (.mem p.key)
      | .error _ => s
    else s) s

/-- R430: the pages of a collar that a region's frame or token names are marked: its slots and its slot barriers (log 45). -/
def State.markCollar (s : State) (g : Option GangId) (i : Issuer) (r : BitVec 256) : State :=
  if recKind r = 2 ∧ !recBad r then (s.markSpan g i (recBase r) (ringN r * ringS r)).markSpan g i (ringBar r) (16 * ringN r) else s

/-- R324: a RECLD to the record is outstanding. -/
def recldPending (k : Core) (n : RecIx) : Bool := k.reqs.any fun r => r.op == .recld n

/-- What an access of slot `n` of core `c` leaves in the translation buffers (R99) and in its gang's page marks (R430). -/
def State.noteAt (s : State) (c n : Nat) (t : Target) : State :=
  (s.remember (s.slotIssuer c n) t.va).markPage ((s.core c).slot n).gang t.home

/-- What an access of the running slot leaves there. -/
def State.noteAccess (s : State) (t : Target) : State := s.noteAt s.cur.core s.cur.slot t

/-- An instruction that names a record: it stalls while a RECLD to the record is outstanding (R324), and traps while the record is
marked poisoned (R322). The gang's mark is set (R430). -/
def withRecord (n : RecIx) (s : State) (body : State → BitVec 256 → Out) : Out :=
  let k := s.curCore
  if recldPending k n then stall s
  else match k.badRecords.find? n.toNat with
    | some t => trap t s
    | none => body (s.setCurCore (k.markRecord s.curSlot.gang n.toNat)) (k.record n.toNat)

/-- An access checked before anything is sent: its trap is precise (R203). -/
def checked {α : Type} (r : Except Trap α) (s : State) (body : α → Out) : Out :=
  match r with
  | .error t => trap t s
  | .ok a => body a

/-- R345: a request with no permit waits at its source. -/
def permitting (d : Dest) (s : State) (body : Out) : Out :=
  if s.curCore.permitted s.cur.core d then body else stall s

/-- R358: later accesses of a port are issued only after its acquires are performed. -/
def afterAcquires (s : State) (body : Out) : Out := if s.curCore.acquiring s.cur.slot then stall s else body

/-- The request `r` is issued by the running slot, whose registers are `sl`, and the word retires. -/
def sendReq (r : Req) (sl : Slot) (s : State) : Out :=
  retireCore ((s.curCore.issueReq s.cur.core r).setSlot s.cur.slot sl) s

/-- A reply that is back at once, and the word retires. -/
def sendReply (r : Req) (p : Reply) (sl : Slot) (s : State) : Out :=
  retireCore ((s.curCore.issueReply r p).setSlot s.cur.slot sl) s

end Sys2Proof.Machine
end

