-- ==== Sys2Proof/Machine/Barrier.lean ====
section
/-! DEFINITION. Barrier words (R369 to R378): fields, membership, completion of a phase with its publish and rotation (R371, R385),
and the five operations at the word's home. -/

namespace Sys2Proof.Machine

/-- Table 16-4. -/
def barPhase (w : BitVec 128) : Nat := rfld w 124 4
def barArrv (w : BitVec 128) : Nat := rfld w 100 24
def barReload (w : BitVec 128) : Nat := rfld w 76 24
def barSect (w : BitVec 128) : Nat := rfld w 40 36
def barPub (w : BitVec 128) : Bool := w.getLsbD 39
def barRot (w : BitVec 128) : Bool := w.getLsbD 38
def barScope (w : BitVec 128) : Nat := rfld w 35 3
def barLid (w : BitVec 128) : Nat := rfld w 20 12
def barCore (w : BitVec 128) : Nat := rfld w 11 9
def barHdl (w : BitVec 128) : Nat := rfld w 8 3
def barRrec (w : BitVec 128) : Nat := rfld w 0 8

/-- A word with bits [lo + n - 1 : lo] replaced. -/
def setFld {m : Nat} (w : BitVec m) (lo n v : Nat) : BitVec m :=
  (w &&& ~~~(BitVec.ofNat m (2 ^ n - 1) <<< lo)) ||| (BitVec.ofNat m (v % 2 ^ n) <<< lo)

/-- The barrier word at a key. -/
def State.barWord (s : State) (key : Nat) : BitVec 128 := BitVec.ofNat 128 (s.load key 16)

/-- The module with a barrier word stored. -/
def State.setBarWord (s : State) (key : Nat) (w : BitVec 128) : State := s.storeBytes key (leBytes 16 w.toNat)

/-- The handle of the region that stands for a CP task's REGION instance: the lowest of its gang on its core (R39, R359). -/
def Core.regionOf (k : Core) (g : Option GangId) : Option Nat :=
  (List.range 8).find? fun h => (k.regions.find? h).elim false fun r => g == some r.gang

/-- R359: whether an issuer is a privileged task outside any gang, which acts at CORE where it names REGION or GANG. -/
def coreWide (gang : Option GangId) (priv : Bool) : Bool := gang.isNone && priv

/-- R359, R369, R372, R374: whether an issuer on core `c`, of a gang, belongs to a word's instance; `wide`: a privileged task outside any gang
initialised the word, which then names its core's instance where its scope is REGION or GANG. -/
def State.barMember (s : State) (c : Nat) (gang : Option GangId) (priv wide : Bool) (w : BitVec 128) : Bool :=
  let home := barCore w
  let owner := ((s.core home).regions.find? (barHdl w)).map fun r => r.gang
  match barScope w with
  | 0 => c == home && (wide || coreWide gang priv || (s.core c).regionOf gang == some (barHdl w))
  | 1 => c == home
  | 2 => if wide || coreWide gang priv then c == home else gang.isSome && gang == owner
  | 3 => dieOf c == dieOf home
  | _ => true

/-- Where a VA of a core's domain lies, whatever its permissions (R92). -/
def State.keyOf (s : State) (c va : Nat) : Option Nat :=
  match s.translate (s.issuerOf c true) .any false false none va with
  | .ok p => some (p.key + va % 2 ^ 16)
  | .error _ => none

/-- R371 step 4, Table 2-4: the barrier-phase message to every bound channel whose word lies at `key`. -/
def State.postPhase (s : State) (key phase : Nat) : State :=
  s.cores.foldl (fun s e => (List.range 64).foldl (fun (s : State) n =>
    let ch := (s.core e.1).chan n
    let va := ch.param.toNat * 16
    if ch.valid && ch.src == 2 && s.keyOf e.1 va == some key then
      s.postFrom (destOf (.mem key)) e.1 n (sourceMsg (BitVec.ofNat 64 va) (BitVec.ofNat 64 phase) 0)
    else s) s) s

/-- R106, R336: face and lining of an id are exchanged. -/
def State.swapLining (s : State) (lid : Nat) : State :=
  let d := s.lining lid
  { s with linings := s.linings.set lid { d with fl := !d.fl } }

/-- R318, R371: a kind-4 BARRIER report on the word's core, which travels from the word's home. -/
def State.barReport (s : State) (key : Nat) (w : BitVec 128) (detail va info2 : Nat) : State :=
  let c := barCore w
  let t : Trap := { cause := .barrier, detail := detail, info1 := BitVec.ofNat 64 (va / 16 * 16), info2 := BitVec.ofNat 64 info2 }
  let g := ((s.core c).regions.find? (barHdl w)).map fun r => r.gang
  if (destOf (.mem key)).isLocal c then s.report c t g 0 else s.sendFrom (destOf (.mem key)) c (.report c t g)

/-- R371 step 1, at the hem die: whether a lining is one that a word's completion may publish. -/
def State.mayPublish (s : State) (lid key : Nat) : Bool :=
  (s.lining lid).valid && (s.lining lid).dom == (s.core (barCore (s.barWord key))).domain

/-- R385: whether a record is a ring whose slot barrier of P lies at `key`. -/
def State.rotates (s : State) (c : Nat) (r : BitVec 256) (key : Nat) : Bool :=
  recKind r == 2 && s.keyOf c (ringBar r + 16 * ringP r) == some key

/-- A ring record after one rotation. -/
def rotated (r : BitVec 256) : BitVec 256 := ringSetP r ((ringP r + 1) % ringN r)

/-- Whether a saved member keeps record `n` of core `c` as such a ring. -/
def State.savedRing (s : State) (c n key : Nat) (m : MemberSave) : Bool :=
  m.core == c && m.records.any fun e => e.1 == n && s.rotates c e.2 key

/-- A saved member with its record `n` rotated. -/
def MemberSave.rotate (m : MemberSave) (n : Nat) : MemberSave :=
  { m with records := m.records.map fun e => if e.1 = n then (n, rotated e.2) else e }

/-- R386: the record as a saved gang keeps it, which the rotation reaches at resume. -/
def State.rotateSaved (s : State) (c n key : Nat) : Option State :=
  let member (m : MemberSave) := if s.savedRing c n key m then m.rotate n else m
  let saved (g : Saved) : Saved := { g with members := g.members.map member }
  if s.saves.any (fun g => g.members.any (s.savedRing c n key)) then some { s with saves := s.saves.map saved } else none

/-- R371 step 2, R385. -/
def State.barRotate (s : State) (key : Nat) (w : BitVec 128) (va : Nat) : State :=
  let c := barCore w
  let n := barRrec w
  let k := s.core c
  let r := k.record n
  if s.rotates c r key then s.setCore c { k with records := k.records.set n (rotated r) }
  else match s.rotateSaved c n key with
    | some s => s
    | none => s.barReport key w (if recKind r = 2 then 6 else 4) va n

/-- R371 steps 2 to 4: the rotation, the new phase, the waiters; `w` is the word as the completing operation left it. -/
def State.newPhase (s : State) (key va : Nat) (w : BitVec 128) : State :=
  let s := if barRot w then s.barRotate key w va else s
  let p := (barPhase w + 1) % 16
  (s.setBarWord key (setFld (setFld w 124 4 p) 100 24 (barReload w))).postPhase key p

/-- R371 step 1: a word that publishes asks the lining's hem die, and meanwhile withholds acknowledgement, with both counts 0. -/
def State.askPublish (s : State) (key va : Nat) (w : BitVec 128) : State :=
  { (s.setBarWord key w).sendFrom (destOf (.mem key)) (barCore w) (.publishWord (barLid w) key) with
    completing := s.completing ++ [⟨key, va, w⟩] }

/-- R371: a phase completes. -/
def State.completePhase (s : State) (key va : Nat) (w : BitVec 128) : State :=
  if barPub w then s.askPublish key va w else s.newPhase key va w

/-- R371: the hem die's answer is back at a word that publishes: a lining that it could not publish is reported, and the phase completes. -/
def State.wordPublished (s : State) (key : Nat) (ok : Bool) : State :=
  match s.completing.find? fun x => x.key == key with
  | none => s
  | some x =>
    let s := { s with completing := s.completing.filter fun y => y.key != key }
    let s := if ok then s else s.barReport key x.w 5 x.va (barLid x.w)
    s.newPhase key x.va x.w

/-- R371: whether the completion of a word at a key is in progress. -/
def State.completes (s : State) (key : Nat) : Bool := s.completing.any fun x => x.key == key

/-- The word after an arrival or decrement: stored, or completed when both counts are 0. -/
def State.barSettle (s : State) (key va : Nat) (w : BitVec 128) : State :=
  if barArrv w = 0 ∧ barSect w = 0 then s.completePhase key va w else s.setBarWord key w

/-- A BARRIER trap (Table 20-5). -/
def barTrap (detail va : Nat) : Trap := { cause := .barrier, detail := detail, info1 := BitVec.ofNat 64 va }

/-- R375: an arrival; the old phase. -/
def State.arrive (s : State) (key va : Nat) : Except Trap (State × Nat) :=
  let w := s.barWord key
  if barArrv w = 0 then .error (barTrap 0 va)
  else .ok (s.barSettle key va (setFld w 100 24 (barArrv w - 1)), barPhase w)

/-- R330: a sector decrement. -/
def State.decrement (s : State) (key va : Nat) : Except Trap State :=
  let w := s.barWord key
  if barSect w = 0 then .error (barTrap 1 va)
  else .ok (s.barSettle key va (setFld w 40 36 (barSect w - 1)))

/-- R376: sectors expected. -/
def State.expect (s : State) (key va n : Nat) : Except Trap State :=
  let w := s.barWord key
  if barSect w + n ≥ 2 ^ 36 then .error (barTrap 3 va)
  else .ok (s.setBarWord key (setFld w 40 36 (barSect w + n)))

/-- R374: a whole word written; `wide`: by a privileged task outside any gang, whose core's instance it then names. -/
def State.initWord (s : State) (key : Nat) (w : BitVec 128) (core : Nat) (wide : Bool) : State :=
  let old := s.barWord key
  let w := setFld (setFld w 100 24 (barReload w)) 11 9 core
  let others := s.coreWords.filter fun x => x != key
  let s := { s.setBarWord key w with coreWords := if wide then key :: others else others }
  if barPhase w ≠ barPhase old then s.postPhase key (barPhase w) else s

/-- R377: one half. -/
def State.barHalf (s : State) (key : Nat) (high : Bool) : Word := (s.barWord key).extractLsb' (if high then 64 else 0) 64

end Sys2Proof.Machine
end

