-- ==== Sys2Proof/Machine/LoadStore.lean ====
section
/-! DEFINITION. Loads, stores and record instructions (R319 to R323), atomics as they issue (R364, R365), and forwarding inside a
speculating slot (R228). -/

namespace Sys2Proof.Machine

/-- Bytes of a size code (Table 5-9). -/
def sizeOf (sz : BitVec 2) : Nat := 2 ^ sz.toNat

/-- R228: what the queued stores hold for a read of these bytes: nothing, all of them, or a part. -/
inductive Forward where
  | none
  | whole (bs : List Byte)
  | part
deriving DecidableEq, Repr

/-- R228: the youngest queued store that covers a load's bytes; a partial overlap is found first. The list is oldest first. -/
def forward (t : Target) (stores : List Req) : Forward :=
  stores.foldl (fun acc r =>
    match r.op with
    | .store data =>
      if !t.overlaps r.tgt then acc
      else if r.tgt.span.1 ≤ t.span.1 && t.span.2 ≤ r.tgt.span.2 then
        .whole ((data.drop (r.tgt.lo + (t.span.1 - r.tgt.span.1))).take t.len)
      else .part
    | _ => acc) .none

/-- R228: what the slot's own queued stores hold for a read. -/
def Slot.forwards (sl : Slot) (t : Target) : Forward :=
  match sl.spec with
  | none => .none
  | some sp => forward t sp.stores

/-- A load that is checked: it marks its destinations empty and is issued (R320), or takes its bytes from the slot's own queued
stores (R228). `d2` is the second register of LDP. -/
def issueLoad (d : Reg) (pair : Bool) (t : Option Target) (ord : BitVec 2) (scope : BitVec 3) (bulk : Bool) (s : State) : Out :=
  let sl := s.curSlot
  let marked := if pair then (sl.markEmpty d).markEmpty (d + 1) else sl.markEmpty d
  let op := ReqOp.load d pair
  match t with
  | none =>
    sendReply (s.newReq op noTarget ord scope bulk)
      { Reply.empty with regs := if pair then [(d, 0), (d + 1, 0)] else [(d, 0)] } marked s
  | some t =>
    match sl.forwards t with
    | .part => stall s
    | .whole bs =>
      let v := leNat (List.replicate t.lo 0 ++ bs)
      sendReply (s.newReq op t ord scope bulk)
        { Reply.empty with regs := if pair then [(d, BitVec.ofNat 64 v), (d + 1, BitVec.ofNat 64 (v / 2 ^ 64))]
                                   else [(d, BitVec.ofNat 64 v)] } marked s
    | .none =>
      permitting (destOf t.home) s <| sendReq (s.newReq op t ord scope bulk) marked (s.noteAccess t)

/-- R228: a store of a speculating slot waits in its queue of 32; one with order other than RLX stalls. -/
def queueStore (r : Req) (lined : Option Nat) (sp : Spec) (s : State) : Out :=
  if r.ord ≠ 0 || sp.stores.length ≥ Config.specStores then stall s
  else retire { s.curSlot with spec := some { sp with stores := sp.stores ++ [r], into := sp.into ++ [lined] } } s

/-- A store that is checked is issued, or queued while the slot speculates, with the lining that its record names. -/
def issueStore (data : List Byte) (t : Option Target) (lined : Option Nat) (ord : BitVec 2) (scope : BitVec 3) (bulk : Bool) (s : State) : Out :=
  match t with
  | none => retire s.curSlot s
  | some t =>
    let r := s.newReq (.store data) t ord scope bulk
    match s.curSlot.spec with
    | some sp => queueStore r lined sp s
    | none => permitting (destOf t.home) s <| sendReq r s.curSlot (s.noteAccess t)

/-- R320, R201: a load's destinations under fed: 1 traps EMPTY when one is already empty, 0 waits for its fill. -/
def loadDest (d : Reg) (fed : Bool) (s : State) (body : Out) : Out :=
  if (s.curSlot.cell d).empty then
    if fed then trap { cause := .empty, info1 := d.setWidth 64 } s else stall s
  else body

/-- R319: offset and record of an M-form access. -/
def memOffset (a : Word) (imm : BitVec 21) : Int := a.toInt + imm.toInt

/-- LD and LDP. -/
def loadForm (o : OpsMem) (size : Nat) (pair : Bool) (s : State) : Out :=
  guarded o.g s <| withReg o.a o.fea s fun a => loadDest o.d o.fed s <|
    (if pair then loadDest (o.d + 1) o.fed s else id) <| withRecord o.br s fun s' r =>
      afterAcquires s <|
      checked (s.recAccess s.curIssuer r o.br.toNat (memOffset a o.imm) size (if pair then .wide else .load) true false) s fun t =>
        issueLoad o.d pair t o.ord o.scope o.bulk s'

/-- R320, LD. -/
def execLd (o : OpsMem) (s : State) : Out := loadForm o (sizeOf o.sz) false s

/-- R320, LDP. -/
def execLdp (o : OpsMem) (s : State) : Out := loadForm o 16 true s

/-- ST and STP: `regs` are the data registers, low first. -/
def storeForm (o : OpsMem) (size : Nat) (regs : List Reg) (s : State) : Out :=
  guarded o.g s <| withReg o.a o.fea s fun a => withRegs o.fed s regs fun vs => withRecord o.br s fun s' r =>
    afterAcquires s <|
    checked (s.recAccess s.curIssuer r o.br.toNat (memOffset a o.imm) size .store false true) s fun t =>
      issueStore ((vs.flatMap fun v => leBytes 8 v.toNat).take size) t (recLined r) o.ord o.scope o.bulk s'

/-- R320, ST. -/
def execSt (o : OpsMem) (s : State) : Out := storeForm o (sizeOf o.sz) [o.d] s

/-- R320, STP. -/
def execStp (o : OpsMem) (s : State) : Out := storeForm o 16 [o.d, o.d + 1] s

/-- R322: the VA of RECLD and RECST. -/
def recordVa (a : Word) (imm : BitVec 21) : Int := a.toInt + imm.toInt

/-- R322, RECLD: it alone may name a record that is marked poisoned. While the slot speculates it is a load of R228. -/
def execRecld (o : OpsRecMem) (s : State) : Out :=
  guarded o.g s <| withReg o.a o.fea s fun a =>
    if recldPending s.curCore o.br then stall s
    else afterAcquires s <|
      checked (s.target s.curIssuer .wide true false none 0 (recordVa a o.imm) 32 0 32 none) s fun t =>
        let r := s.newReq (.recld o.br) t o.ord o.scope o.bulk
        let s' := s.setCurCore (s.curCore.markRecord s.curSlot.gang o.br.toNat)
        match s.curSlot.forwards t with
        | .part => stall s
        | .whole bs => sendReply r { Reply.empty with record := some (o.br, BitVec.ofNat 256 (leNat bs)) } s.curSlot s'
        | .none => permitting (destOf t.home) s <| sendReq r s.curSlot (s'.noteAccess t)

/-- R322, RECST: the record's reserved fields are stored as 0 (R8). -/
def execRecst (o : OpsRecMem) (s : State) : Out :=
  guarded o.g s <| withReg o.a o.fea s fun a => withRecord o.br s fun s' r => afterAcquires s <|
    checked (s.target s.curIssuer .store false true none 0 (recordVa a o.imm) 32 0 32 none) s fun t =>
      issueStore (leBytes 32 (recRead r).toNat) (some t) none o.ord o.scope o.bulk s'

/-- A record with 64-bit word `w` replaced, under the rules of the stage pointer (R105, R386). -/
def recSetWord (r : BitVec 256) (w : BitVec 2) (v : Word) : BitVec 256 :=
  let lo := 64 * w.toNat
  let new := (r &&& ~~~((BitVec.allOnes 64).setWidth 256 <<< lo)) ||| (v.setWidth 256 <<< lo)
  if recKind new = 2 then ringSetP new (if recKind r = 2 then ringP r else 0) else new

/-- R323, RECSET: it takes effect at issue, and is not among what a failed speculation restores (R227, R231). -/
def execRecset (o : OpsRecWord) (s : State) : Out :=
  guarded o.g s <| withReg o.d o.fed s fun v => withRecord o.br s fun s' r =>
    retireCore { s'.curCore with records := s'.curCore.records.set o.br.toNat (recSetWord r o.w v) } s'

/-- R323, R8, RECGET: the word is taken at issue, when every earlier RECLD and RECSET has taken effect. -/
def execRecget (o : OpsRecWord) (s : State) : Out :=
  guarded o.g s <| loadDest o.d o.fed s <| withRecord o.br s fun s' r =>
    let v := (recRead r).extractLsb' (64 * o.w.toNat) 64
    sendReply (s.newReq (.value o.d v) noTarget 0 0 false) { Reply.empty with regs := [(o.d, v)] } (s.curSlot.markEmpty o.d) s'

/-- R364, R365: an atomic issues. -/
def atomForm (o : OpsAtom) (op : AtomOp) (s : State) : Out :=
  guarded o.g s <| withReg o.a o.fea s fun a => loadDest o.d o.fed s <| withReg o.v false s fun v =>
    withReg o.cmp false s fun c => withRecord o.br s fun s' r => unspeculated s <| afterAcquires s <|
      let size := sizeOf o.sz
      let use := Use.atomic (op == .fadd)
      checked (s.recAccess s.curIssuer r o.br.toNat (a.toInt + o.imm.toInt) size use true true) s fun t? =>
        match t? with
        | none => retire s.curSlot s
        | some t =>
          permitting (destOf t.home) s <|
            sendReq (s.newReq (.atomic o.d op v c) t o.ord o.scope false)
              (s.curSlot.markEmpty o.d) (s'.noteAccess t)

/-- R365, AADD. -/
def execAadd (o : OpsAtom) (s : State) : Out := atomForm o .add s
/-- R365, AMIN. -/
def execAmin (o : OpsAtom) (s : State) : Out := atomForm o (.min o.uns) s
/-- R365, AMAX. -/
def execAmax (o : OpsAtom) (s : State) : Out := atomForm o (.max o.uns) s
/-- R365, AAND. -/
def execAand (o : OpsAtom) (s : State) : Out := atomForm o .and s
/-- R365, AOR. -/
def execAor (o : OpsAtom) (s : State) : Out := atomForm o .or s
/-- R365, AXOR. -/
def execAxor (o : OpsAtom) (s : State) : Out := atomForm o .xor s
/-- R365, AXCHG. -/
def execAxchg (o : OpsAtom) (s : State) : Out := atomForm o .xchg s
/-- R365, ACAS. -/
def execAcas (o : OpsAtom) (s : State) : Out := atomForm o .cas s
/-- R365, AINC. -/
def execAinc (o : OpsAtom) (s : State) : Out := atomForm o .inc s
/-- R365, AFADD. -/
def execAfadd (o : OpsAtom) (s : State) : Out := atomForm o .fadd s
/-- R365, AMAXW. -/
def execAmaxw (o : OpsAtom) (s : State) : Out := atomForm o .maxw s

end Sys2Proof.Machine
end

