-- ==== Sys2Proof/Machine/Task.lean ====
section
/-! DEFINITION. Task instructions (R221 to R225), continuations (R55 to R58), speculation (R226 to R232), dispatch (R50 to R54) and
the timer source (R49). -/

namespace Sys2Proof.Machine

/-! ### Queues as tasks see them -/

/-- R151: a valid WORK queue of the issuer's domain. -/
def State.workQueue (s : State) (q dom : Nat) : Except Trap Unit :=
  let x := s.queue q
  let bad d : Except Trap Unit := .error { cause := .queue, detail := d, info1 := BitVec.ofNat 64 q }
  if !x.valid then bad 0
  else if x.type ≠ 1 then bad 1
  else if x.dom.toNat ≠ dom then
    .error { cause := .domain, info1 := BitVec.ofNat 64 q, info2 := BitVec.ofNat 64 x.dom.toNat }
  else .ok ()

/-- The hem die's issuer for a queue of a domain (R143, R447). -/
def State.hemIssuer (s : State) (hem dom : Nat) : Issuer := ⟨16 + hem, dom, true, s.tables.get 0 dom, none, none⟩

/-- Where entry `i` of a queue lies (R147). -/
def State.entryKey (s : State) (q : Nat) (i : Word) : Except Trap Nat :=
  let x := s.queue q
  let va := x.ring.toNat * 2 ^ 10 + 64 * (i.toNat % 2 ^ x.logn.toNat)
  (s.translate (s.hemIssuer (q / Config.queuesPerHem) x.dom.toNat) .queue true false none va).map fun p => p.key + va % 2 ^ 16

/-- R147: whether entry `i` is published; one whose translation fails is not, and a poisoned sequence word is read as it stands (log 42). -/
def State.published (s : State) (q : Nat) (i : Word) : Bool :=
  match s.entryKey q i with
  | .ok key => BitVec.ofNat 64 (s.load key 8) == i + 1
  | .error _ => false

/-- R148: whether the head entry may be dispensed. -/
def State.dispensable (s : State) (q : Nat) : Bool :=
  let x := s.queue q
  let d := (x.tail - x.head).toNat
  x.valid && !x.faulted && decide (0 < d ∧ d < 2 ^ 63) && s.published q x.head

/-- R149: closed and drained. -/
def Queue.over (x : Queue) : Bool := x.closed && x.head == x.tail

/-- R224: the payload of the head entry as seven words. -/
def State.payload (s : State) (q : Nat) : List Word :=
  match s.entryKey q (s.queue q).head with
  | .ok key => (List.range 7).map fun j => BitVec.ofNat 64 (s.load (key + 8 + 8 * j) 8)
  | .error _ => List.replicate 7 0

/-- The registers g1 to g8. -/
def popRegs : List Reg := (List.range 8).map fun j => BitVec.ofNat 6 (j + 1)

/-- R203: the payload registers that poisoned words of the head entry fill poisoned. -/
def State.payloadBad (s : State) (q : Nat) : List (Reg × Trap) :=
  let x := s.queue q
  match s.entryKey q x.head with
  | .error _ => []
  | .ok key => (List.range 7).filterMap fun j =>
      if s.poisonedAt (key + 8 + 8 * j) 8 then
        some (BitVec.ofNat 6 (j + 1),
          eccTrap ⟨.mem (key + 8 + 8 * j), x.ring.toNat * 2 ^ 10 + 64 * (x.head.toNat % 2 ^ x.logn.toNat) + 8 + 8 * j, 8, 0, 8, none⟩)
      else none

/-- Dispensing advances head by one (R148); the next entry is not yet seen. -/
def State.advanceHead (s : State) (q : Nat) : State :=
  let x := s.queue q
  s.setQueue q { x with head := x.head + 1, headSeen := false, awaitsMet := [] }

/-! ### Instructions that wait for their own request -/

/-- R222, R373: an instruction that issues one request and stalls until it is performed. Once issued, it ends as `fin` says, or traps
with the error that the reply carries; before, it begins with `start`. -/
def resuming (fin : Reply → State → Out) (s : State) (start : Out) : Out :=
  let k := s.curCore
  let sl := s.curSlot
  match sl.prog with
  | .awaiting id =>
    match k.reqs.find? fun x => x.id == id with
    | none => start
    | some x =>
      match x.phase with
      | .back p =>
        let s := s.setCurCore { k.setSlot s.cur.slot { sl with prog := .idle } with reqs := k.reqs.filter fun y => y.id != id }
        match p.error with
        | some t => trap t s
        | none => fin p s
      | _ => stall s
  | _ => start

/-- The request is issued, and the slot awaits it. -/
def awaitReq (r : Req) (s : State) : Out :=
  let k := s.curCore
  afterAcquires s <| permitting r.dest s <|
    stall (s.setCurCore ((k.issueReq s.cur.core r).setSlot s.cur.slot { s.curSlot with prog := .awaiting k.nextReq }))

/-- The seven payload registers from gB (R222). -/
def payloadRegs (b : Reg) : List Reg := (List.range 7).map fun j => b + BitVec.ofNat 6 j

/-- R221, END. Requests already issued complete; the handler of a record ends it as the END column of Table 20-6 says (R407). -/
def execEndTask (o : OpsG) (s : State) : Out :=
  guarded o.g s <| unspeculated s <|
    let k := match s.curSlot.handler with
      | none => s.curCore
      | some ix => s.curCore.resolve ix .ended
    .next (s.setCurCore (k.endTask s.cur.slot))

/-- R222, SEND. -/
def execSend (o : OpsAB) (s : State) : Out :=
  guarded o.g s <| withReg o.a o.fea s fun a => withRegs o.feb s (payloadRegs o.b) fun vs => unspeculated s <|
    resuming (fun _ s => retire s.curSlot s) s <|
      let core := a.toNat / 2 ^ 6 % 2 ^ 9
      let chan := a.toNat % 2 ^ 6
      let dst : Word := BitVec.ofNat 64 (core * 2 ^ 6 + chan)
      if core ≥ Config.numCores then trap { cause := .chan, detail := 3, info1 := dst } s
      else if (s.core core).domain ≠ s.curCore.domain then
        trap { cause := .domain, info1 := dst, info2 := (s.core core).domain.setWidth 64 } s
      else
        awaitReq (s.newReq (.send core chan vs (BitVec.ofNat 64 (s.cur.core * 16 + s.cur.slot))) noTarget 0 0 false) s

/-! ### Continuations -/

/-- Table 9-3: the traps of one condition at issue. -/
def State.condCheck (s : State) (c : Cond) : Except Trap Unit :=
  let k := s.curCore
  let queue (q : Nat) : Except Trap Unit :=
    let x := s.queue q
    if !x.valid then .error { cause := .queue, info1 := BitVec.ofNat 64 q }
    else if x.dom ≠ k.domain then
      .error { cause := .domain, info1 := BitVec.ofNat 64 q, info2 := BitVec.ofNat 64 x.dom.toNat }
    else .ok ()
  match c.kind.toNat with
  | 1 => (s.translate s.curIssuer .barrier true false none (bits c.arg.toNat 51 4 * 16)).map fun _ => ()
  | 3 => queue (c.arg.toNat % 2 ^ 16)
  | 5 =>
    let h := c.arg.toNat % 8
    if (k.regions.find? h).elim false fun g => some g.gang == s.curSlot.gang then .ok ()
    else .error { cause := .frame, detail := 1, info2 := BitVec.ofNat 64 h }
  | 7 => queue (c.arg.toNat / 2 ^ 48)
  | _ => .ok ()

/-- Every condition's check in order. -/
def State.condChecks (s : State) : List Cond → Except Trap Unit
  | [] => .ok ()
  | c :: cs => match s.condCheck c with
    | .error t => .error t
    | .ok () => s.condChecks cs

/-- R223, R55: whether g48 to g63 are full, and what they hold, poison with them. -/
def Slot.keptFull (sl : Slot) : Bool := !(List.range 16).any fun j => (sl.cell (BitVec.ofNat 6 (48 + j))).empty
def Slot.kept (sl : Slot) : List RegCell := (List.range 16).map fun j => sl.cell (BitVec.ofNat 6 (48 + j))

/-- Tables 9-3 and 2-6: what a condition of a continuation observes on core `c` when it holds now. -/
def State.observe (s : State) (c : Nat) (t : Cont) (x : Cond) : Option Word :=
  let k := s.core c
  match x.kind.toNat with
  | 1 =>
    let va := bits x.arg.toNat 51 4 * 16
    match s.translate ⟨dieOf c, t.dom, t.priv, k.ptbase, some c, none⟩ .barrier true false none va with
    | .error _ => none
    | .ok p =>
      let phase := s.load (p.key + va % 2 ^ 16) 16 / 2 ^ 124
      if phase ≠ x.arg.toNat % 16 then some (BitVec.ofNat 64 phase) else none
  | 2 =>
    let v := (k.sb (x.arg.toNat % 32)).toNat
    if v ≤ bits x.arg.toNat 31 8 then some (BitVec.ofNat 64 v) else none
  | 3 => let q := x.arg.toNat % 2 ^ 16
    if s.dispensable q then some (s.queue q).tail else none
  | 4 => if x.arg.toNat ≤ s.stitch.toNat then some s.stitch else none
  | 5 => match k.regions.find? (x.arg.toNat % 8) with
    | none => none
    | some g => match g.run, g.doneOwed with
      | .done st, none => some (BitVec.ofNat 64 st)
      | _, _ => none
  | 6 => if (k.chan (x.arg.toNat % 64)).fifo.isEmpty then none else some 1
  | 7 =>
    let q := s.queue (x.arg.toNat / 2 ^ 48)
    if (x.arg.toNat % 2 ^ 48 + 2 ^ 48 - q.head.toNat % 2 ^ 48) % 2 ^ 48 < 2 ^ q.logn.toNat then some q.head else none
  | _ => none

/-- R57: each condition with what it observes now; one once found to hold stays held in mode all. -/
def State.look (s : State) (c : Nat) (t : Cont) (all : Bool) (cs : List Cond) : List Cond :=
  cs.map fun x => if all && x.held.isSome then x else { x with held := s.observe c t x }

/-- R57: whether the slots as looked at post the continuation. -/
def contHolds (all : Bool) (cs : List Cond) : Bool :=
  let used := cs.filter fun x => x.kind != 0
  if all then used.all fun x => x.held.isSome else used.isEmpty || used.any fun x => x.held.isSome

/-- The mask of g8 (Table 2-5). -/
def heldMask (cs : List Cond) : Word :=
  (cs.zipIdx).foldl (fun (m : Word) (e : Cond × Nat) => if e.1.held.isSome && e.1.kind != 0 then m ||| (1 <<< e.2) else m) 0

/-- R56: the record's message is posted on its channel, or dropped and reported when the channel is unbound (R55). -/
def State.postCont (s : State) (c ix : Nat) (t : Cont) (g : List Word) (aux : Word) (bad : List (Reg × Trap)) : State :=
  let k := s.core c
  let ch := k.chan t.chan.toNat
  if ch.valid then
    s.setCore c { k.post t.chan.toNat ⟨g, aux, bad, t.kept, none, some ix, false⟩ with
      conts := k.conts.set ix { t with posted := true } }
  else
    (s.setCore c { k with conts := k.conts.erase ix }).report c
      { cause := .chan, detail := 2, info1 := BitVec.ofNat 64 (c * 2 ^ 6 + t.chan.toNat) } t.gang 0

/-- R56, R224: record `ix` as it is looked at: one whose condition holds posts its message; one whose condition does not is left. -/
def State.lookCont (s : State) (c ix : Nat) : State :=
  let k := s.core c
  match k.conts.find? ix with
  | none => s
  | some t =>
    if t.posted then s
    else match t.kind with
      | .wait all cs =>
        let cs' := s.look c t all cs
        let t' := { t with kind := .wait all cs' }
        if contHolds all cs' then
          s.postCont c ix t' (cs'.map fun x => (if x.kind = 0 then none else x.held).getD 0) (heldMask cs') []
        else if all then s.setCore c { k with conts := k.conts.set ix t' }
        else s
      | .pop q _ =>
        if s.dispensable q then (s.advanceHead q).postCont c ix t (s.payload q) (s.queue q).head (s.payloadBad q)
        else if (s.queue q).over then s.postCont c ix t [0, 0, 0, 0, 0, 0, 1] (BitVec.allOnes 64) []
        else s

/-- R55: the task ends and its continuation record is created, or it traps CHAN with none free. A condition found to hold at issue posts
the record at once (R223, R224). A handler leaves its record as by END (log 15). -/
def makeCont (c : Cont) (s : State) : Out :=
  let k := s.curCore
  match firstFree (fun i => (k.conts.find? i).isSome) Config.numConts with
  | none => trap { cause := .chan, detail := 1, info1 := BitVec.ofNat 64 (s.cur.core * 2 ^ 6 + c.chan.toNat) } s
  | some ix =>
    let k := match s.curSlot.handler with
      | none => k
      | some r => k.resolve r .ended
    .next ((s.setCurCore { k.endTask s.cur.slot with conts := k.conts.set ix c }).lookCont s.cur.core ix)

/-- R223, WAIT. A handler that ends by WAIT leaves its record as by END (log 15). -/
def execWait (o : OpsWait) (s : State) : Out :=
  guarded o.g s <|
    let cs := [o.c0, o.c1, o.c2, o.c3]
    withRegs false s (cs.map fun c => c.reg) fun vs => withReg o.tmo false s fun tmo => unspeculated s <|
      if !s.curSlot.keptFull then stall s
      else
        let conds := List.zipWith (fun (c : WCond) v => (⟨c.kind, v, none⟩ : Cond)) cs vs
        checked (s.condChecks conds) s fun _ =>
          let k := conds.foldl (fun k c =>
            if c.kind = 2 then k.markCounter s.curSlot.gang (c.arg.toNat % 32) else k) s.curCore
          makeCont ⟨o.chan, .wait o.all conds, if o.tmo = 0 then none else some tmo.toNat, s.curSlot.kept, s.curSlot.gang,
            s.curCore.domain.toNat, s.curSlot.priv, false⟩ (s.setCurCore k)

/-- R224, POP in fail mode; its address is the control line's (log 22): gD, g1 to g8 are marked empty and pS is pending until the queue's hem die answers. -/
def execPopFail (o : OpsPopF) (s : State) : Out :=
  guarded o.g s <| withReg o.a o.fea s fun a => unspeculated s <|
    let q := a.toNat % 2 ^ 16
    let rs : List Reg := o.d :: (List.range 8).map fun j => BitVec.ofNat 6 (j + 1)
    if rs.any (fun r => (s.curSlot.cell r).empty) || (s.curSlot.pcell o.p).pending then stall s
    else checked (s.workQueue q s.curCore.domain.toNat) s fun _ => afterAcquires s <|
      let sl := rs.foldl (fun sl r => sl.markEmpty r) s.curSlot
      let sl := sl.setPred o.p { sl.pcell o.p with pending := true }
      sendReq (s.newReq (.pop o.d o.p q) ⟨.ctl q 0, (s.queue q).ctl.toNat * 64, 8, 0, 8, none⟩ 1 5 false) sl s

/-- R224, POP in block mode. -/
def execPopBlock (o : OpsPopB) (s : State) : Out :=
  guarded o.g s <| withReg o.a o.fea s fun a => unspeculated s <|
    if !s.curSlot.keptFull then stall s
    else
      let q := a.toNat % 2 ^ 16
      checked (s.workQueue q s.curCore.domain.toNat) s fun _ =>
        makeCont ⟨o.chan, .pop q s.fresh, none, s.curSlot.kept, s.curSlot.gang, s.curCore.domain.toNat, s.curSlot.priv, false⟩
          { s with fresh := s.fresh + 1 }

/-- R225: the target of entry `i` of a queue, `n` bytes at offset `off`. -/
def State.entryTarget (s : State) (q : Nat) (i : Word) (off n : Nat) : Except Trap Target :=
  do
    let key ← s.entryKey q i
    let va := (s.queue q).ring.toNat * 2 ^ 10 + 64 * (i.toNat % 2 ^ (s.queue q).logn.toNat) + off
    if let some t := s.lostNode va key then throw t
    return ⟨.mem (key + off), va, n, 0, n, none⟩

/-- R225: PUSH goes on with step `step`: with what it has gathered, and the request of the step issued or, with no permit, still to issue. -/
def pushStep (step : Nat) (i : Word) (data : List Word) (r : Req) (s : State) : Out :=
  let k := s.curCore
  let ready := k.permitted s.cur.core r.dest && !k.acquiring s.cur.slot
  let sl := { s.curSlot with prog := .push step (if ready then some k.nextReq else none) i data }
  stall (s.setCurCore ((if ready then k.issueReq s.cur.core r else k).setSlot s.cur.slot sl))

/-- R225: what the request of the current step brought, once it is back. -/
def Core.stepDone (k : Core) (id : Nat) : Option Reply :=
  match k.reqs.find? fun x => x.id == id with
  | none => some Reply.empty
  | some x => match x.phase with
    | .back p => some p
    | _ => none

/-- R225: the request of a step: a word of the payload (0), the reservation (1), the payload's store to entry `i` (2), the sequence word's
release at SYSTEM scope (3), the tail (4). -/
def State.pushReq (s : State) (step q : Nat) (i b : Word) (data : List Word) : Except Trap Req :=
  match step with
  | 0 => (s.target s.curIssuer .load true false none 0 (b.toNat + 8 * data.length : Nat) 8 0 8 none).map fun t =>
      s.newReq .payload t 0 0 false
  | 1 => .ok (s.newReq (.reserve q) ⟨.ctl q 24, (s.queue q).ctl.toNat * 64 + 24, 8, 0, 8, none⟩ 0 5 false)
  | 2 => (s.entryTarget q i 8 56).map fun t => s.newReq (.store (data.flatMap fun w => leBytes 8 w.toNat)) t 0 5 false
  | 3 => (s.entryTarget q i 0 8).map fun t => s.newReq (.store (leBytes 8 (i + 1).toNat)) t 2 5 false
  | _ => .ok (s.newReq (.pushTail q (i + 1)) ⟨.ctl q 8, (s.queue q).ctl.toNat * 64 + 8, 8, 0, 8, none⟩ 0 5 false)

/-- R225: a step begins, or traps: PUSH then begins that step anew when it is resumed. -/
def pushGo (step q : Nat) (i b : Word) (data : List Word) (s : State) : Out :=
  let s' := s.setCurSlot { s.curSlot with prog := .push step none i data }
  checked (s.pushReq step q i b data) s' fun r => pushStep step i data r s'

/-- R225: the step after one whose reply is `p`: the seven words of the payload are read one by one. -/
def pushNext (step q : Nat) (i b : Word) (data : List Word) (p : Reply) (s : State) : Out :=
  let v := ((p.regs.head?).map fun e => e.2).getD 0
  match step with
  | 0 => pushGo (if data.length < 6 then 0 else 1) q i b (data ++ [v]) s
  | 1 => pushGo 2 q v b data s
  | 2 => pushGo 3 q i b data s
  | 3 => pushGo 4 q i b data s
  | _ => retire s.curSlot s

/-- R225, PUSH: its payload is read as CP loads; an index is reserved, the payload written, the sequence word released, the tail advanced. -/
def execPush (o : OpsAB) (s : State) : Out :=
  guarded o.g s <| withReg o.a o.fea s fun a => withReg o.b o.feb s fun b => unspeculated s <|
    let q := a.toNat % 2 ^ 16
    match s.curSlot.prog with
    | .push step none i data => pushGo step q i b data s
    | .push step (some id) i data =>
      match s.curCore.stepDone id with
      | none => stall s
      | some p =>
        let s := s.setCurCore { s.curCore with reqs := s.curCore.reqs.filter fun y => y.id != id }
        match p.error with
        | some t => trap t (s.setCurSlot { s.curSlot with prog := .push step none i data })
        | none => pushNext step q i b data p s
    | _ =>
      checked (s.workQueue q s.curCore.domain.toNat) s fun _ =>
        if b.toNat % 8 ≠ 0 then trap { cause := .align, info1 := b } s
        else checked (s.wordTargets s.curIssuer 7 b.toNat) s fun _ => afterAcquires s <| pushGo 0 q 0 b [] s

/-! ### Speculation -/

/-- R226, R227, SPEC. -/
def execSpec (o : OpsSpec) (s : State) : Out :=
  guarded o.g s <|
    let sl := s.curSlot
    let c := sl.cell o.a
    let target := targetOf8 sl.pc o.imm
    if c.empty then
      if sl.spec.isSome then stall s
      else retire { sl with spec := some ⟨o.a, o.cond, target, sl.pc, sl.regs, sl.preds, sl.loops, [], none, s.curCore.nextReq, [], false⟩ } s
    else if c.poison.isSome || !condHolds o.cond c.v 0 then transfer sl target s
    else retire sl s
where
  targetOf8 (pc : Word) (off : BitVec 32) : Word := pc + 8 * sext off

/-- R229: the queued stores of slot `n` are issued in program order, as though at this moment, as far as the permits go (R345); the ones left
are still queued. -/
def State.commitStores (s : State) (c n : Nat) : List Req → State × List Req
  | [] => (s, [])
  | r :: rs =>
    if (s.core c).permitted c r.dest then
      ((s.noteAt c n r.tgt).onCore c fun k => k.issueReq c { r with inOrder := true }).commitStores c n rs
    else (s, r :: rs)

/-- R229: queued stores as they translate at this moment, each with the lining that its record names. -/
def State.retranslated (s : State) (i : Issuer) : List (Req × Option Nat) → Except Trap (List Req)
  | [] => .ok []
  | (r, lined) :: rest => do
    let t ← s.target i .store false true lined 0 r.tgt.va r.tgt.size r.tgt.lo r.tgt.len none
    let rs ← s.retranslated i rest
    return { r with tgt := t } :: rs

/-- R229: the slot as it was at the checkpoint; a register that was empty there has taken what its reply brought. -/
def Slot.restore (sl : Slot) (sp : Spec) : Slot :=
  { sl with regs := sp.regs, preds := sp.preds, loops := sp.loops, pc := sp.pc, spec := none, prog := .idle }

/-- R229: replies to requests issued after the SPEC are discarded on arrival, those of record loads too. -/
def Core.dropSince (k : Core) (slot mark : Nat) : Core :=
  { k with reqs := k.reqs.map fun r =>
      if r.slot == slot && mark ≤ r.id then { r with live := false, op := match r.op with | .recld _ => .payload | op => op } else r }

/-- R229: the stores of slot `n` whose SPEC held are issued; until the last one is, the slot issues nothing. -/
def State.commit (s : State) (c n : Nat) (sp : Spec) : State :=
  let r := s.commitStores c n sp.stores
  r.1.onCore c fun k => k.setSlot n { k.slot n with
    spec := if r.2.isEmpty then none else some { sp with stores := r.2, into := [], committing := true } }

/-- R229: a speculation whose condition held ends: its stores translate at this moment and begin to be issued. One whose page is not buffered waits
for its walk (R100); one that no longer translates takes the slot back to its SPEC, which finds gA full (log 26). -/
def State.resolveHeld (s : State) (c n : Nat) (sp : Spec) : State :=
  let sl := (s.core c).slot n
  if sp.committing then s.commit c n sp
  else match s.retranslated (s.slotIssuer c n) (sp.stores.zip sp.into) with
    | .ok rs => s.commit c n { sp with stores := rs }
    | .error t =>
      if t.isMiss then s.miss c ((s.core c).slotPort c n) t.info1
      else (s.onCore c fun k => (k.dropSince n sp.mark).setSlot n (sl.restore sp)).tookFault ((s.core c).slotPort c n)

/-- R229, SPEC_RESOLVE: the fill of gA has decided the condition (R230). -/
def execSpecResolve (o : SlotAt) (s : State) : Out :=
  let k := s.core o.core
  let sl := k.slot o.slot
  match sl.spec.bind fun sp => sp.outcome.map fun holds => (sp, holds) with
  | none => .next s
  | some (sp, true) => .next (s.resolveHeld o.core o.slot sp)
  | some (sp, false) =>
    .next (s.setCore o.core ((k.dropSince o.slot sp.mark).setSlot o.slot ((sl.restore sp).jump sp.target)))

/-! ### Continuations come to hold -/

/-- R56, CONTINUATION_POST: a record whose condition holds posts its message; one whose condition does not is left. -/
def execContinuationPost (o : CmdAt) (s : State) : Out := .next (s.lookCont o.core o.ix)

/-- R57, WAIT_TIMEOUT: a timeout that is due, with no condition holding at that moment, posts g7 = 1; a condition that holds then
wins. -/
def execWaitTimeout (o : CmdAt) (s : State) : Out :=
  let k := s.core o.core
  match k.conts.find? o.ix with
  | none => .next s
  | some t =>
    if t.posted || t.left != some 0 then .next s
    else match t.kind with
      | .wait all cs =>
        if contHolds all (s.look o.core t all cs) then execContinuationPost o s
        else .next (s.postCont o.core o.ix t [0, 0, 0, 0, 0, 0, 1] 0 [])
      | .pop _ _ => .next s

/-! ### Dispatch -/

/-- R51: the lowest-numbered free slot that a task of this privilege may use. -/
def Core.freeSlot (k : Core) (priv : Bool) : Option Nat :=
  (List.range 16).find? fun n => (k.slot n).status == .free && (n < 15 || priv)

/-- R52: a channel's effective priority, raised one level by each 32 passes, up to 7. -/
def Chan.level (c : Chan) : Nat := min 7 (c.prio.toNat + c.passes / 32)

/-- Whether the channel's head message may use a free slot. `ok` are the channels of gangs that are not halted (R422). -/
def Core.eligible (k : Core) (ok : Nat → Bool) (n : Nat) : Bool :=
  let c := k.chan n
  !c.fifo.isEmpty && ok n && (k.freeSlot c.priv).isSome

/-- R52: the channel that a decision chooses. -/
def Core.choose (k : Core) (ok : Nat → Bool) : Option Nat :=
  if k.eligible ok 63 then some 63
  else
    let order := (List.range 64).map fun i => (k.lastChan + 1 + i) % 64
    let el := order.filter fun n => k.eligible ok n
    let top := el.foldl (fun m n => max m (k.chan n).level) 0
    el.find? fun n => (k.chan n).level == top

/-- Table 2-5, R55, R203: the registers of a task dispatched for a message; the kept ones as they stood. -/
def Msg.regs (m : Msg) : Tab RegCell :=
  let low := (m.g.zipIdx).foldl (fun (t : Tab RegCell) e => t.set (e.2 + 1) ⟨e.1, false, none⟩) []
  let low := m.bad.foldl (fun (t : Tab RegCell) e => t.set e.1.toNat ⟨(t.get RegCell.zero e.1.toNat).v, false, some e.2⟩) (low.set 8 ⟨m.aux, false, none⟩)
  (m.kept.zipIdx).foldl (fun (t : Tab RegCell) e => t.set (48 + e.2) { e.1 with empty := false }) low

/-- R54: the slot of a task dispatched from channel `n` for a message. -/
def Core.taskSlot (k : Core) (n : Nat) (c : Chan) (m : Msg) : Slot where
  status := .occupied
  pc := c.entry.setWidth 64 <<< 3
  regs := m.regs
  preds := []
  loops := []
  spec := none
  serial := k.serial + 1
  chan := BitVec.ofNat 6 n
  priv := c.priv
  handler := m.frec
  gang := c.gang
  prog := .idle
  fromQueue := m.fromQueue

/-- R52: passes after a decision that chose `n`: c63's decisions count none. -/
def Core.agePasses (k : Core) (ok : Nat → Bool) (n : Nat) : Core :=
  if n = 63 then k
  else
    let k' := (List.range 64).foldl (fun (a : Core) i =>
      if i != n && k.eligible ok i then a.setChan i { k.chan i with passes := (k.chan i).passes + 1 } else a) k
    { k'.setChan n { k.chan n with passes := 0 } with lastChan := n }

/-- R52 to R54: one dispatch decision. -/
def Core.dispatch (k : Core) (ok : Nat → Bool) : Core :=
  match k.choose ok with
  | none => k
  | some n =>
    let c := k.chan n
    match c.fifo, k.freeSlot c.priv with
    | m :: _, some sl =>
      let k := k.agePasses ok n
      let k := k.setChan n (k.chan n).take
      let k := match m.cont with
        | none => k
        | some ix => { k with conts := k.conts.erase ix }
      ({ k.setSlot sl (k.taskSlot n c m) with serial := k.serial + 1 } : Core).powered fun u => u == .cp
    | _, _ => k

/-- R52, R176, DISPATCH: a CP that a message reaches wakes. A report that waits for a fault record is posted before (R402). -/
def execDispatch (o : CoreAt) (s : State) : Out :=
  let s := s.postHeld o.core
  .next (s.onCore o.core fun k => k.dispatch fun n => !s.frozen (k.chan n).gang)

/-- R49: a timer channel after `n` reference ticks: whole periods are counted as elapsed. -/
def Chan.tickTimer (c : Chan) (n : Nat) : Chan :=
  let period := c.param.toNat % 2 ^ 32
  if !(c.valid && c.src == 4) || period = 0 then c
  else if n < c.timerLeft then { c with timerLeft := c.timerLeft - n }
  else { c with elapsed := c.elapsed + 1 + (n - c.timerLeft) / period, timerLeft := period - (n - c.timerLeft) % period }

/-- R49, TIMER_SOURCE: `ix` is the channel. Elapsed periods post one message that counts them; with a full FIFO it is held. -/
def execTimerSource (o : CmdAt) (s : State) : Out :=
  let k := s.core o.core
  let c := k.chan o.ix
  if c.valid && c.src == 4 && o.ix < 64 && c.elapsed != 0 && c.held.isEmpty && c.fifo.length < Config.fifoDepth then
    .next (s.setCore o.core (k.setChan o.ix
      { c.post (sourceMsg s.tick (BitVec.ofNat 64 c.elapsed) 0) with elapsed := 0 }))
  else .next s

end Sys2Proof.Machine
end

