-- ==== Sys2Proof/Machine/Perform.lean ====
section
/-! DEFINITION. What requests do at their homes (R145, R146, R319, R356 to R358, R364, R365, R383), how replies come back and fill
(R200 to R204), and how a request fails: abandoned (R415), refused (R418), sent again (R419). -/

namespace Sys2Proof.Machine

/-! ### Queue control lines (R145, R146, R148, R149) -/

/-- Whether the queue non-empty source of a channel has a message pending or being served (R49). -/
def Core.queueServed (k : Core) (n : Nat) : Bool :=
  let c := k.chan n
  c.fifo.any (fun m => m.fromQueue) || c.held.any (fun m => m.fromQueue)
    || k.reqs.any (fun r => match r.op with | .message _ ch m => ch == n && m.fromQueue | _ => false)
    || k.slots.any fun e => e.2.fromQueue && e.2.chan.toNat == n

/-- R49: the queue non-empty source posts on every bound channel that has none pending or served. -/
def State.postQueue (s : State) (q : Nat) : State :=
  let m : Msg := { sourceMsg (BitVec.ofNat 64 q) (s.queue q).tail 0 with fromQueue := true }
  s.cores.foldl (fun s e => (List.range 64).foldl (fun (s : State) n =>
    let ch := (s.core e.1).chan n
    if ch.valid && ch.src == 3 && ch.param.toNat % 2 ^ 16 == q && !(s.core e.1).queueServed n then
      s.postFrom (.hem (q / Config.queuesPerHem)) e.1 n m
    else s) s) s

/-- R148: the controller rereads the head entry. -/
def State.reread (s : State) (q : Nat) : State :=
  if s.dispensable q then (s.setQueue q { s.queue q with headSeen := true }).postQueue q else s

/-- R148: what the controllers do at least once in a stitch: every head entry that has not been found published is read again. -/
def State.rereadHeads (s : State) : State :=
  (s.queues.filter fun e => e.2.valid && !e.2.headSeen).foldl (fun (s : State) e => s.reread e.1) s

/-- R146: `v` is written to the tail if it lies ahead of it and the queue is open. -/
def State.tailTo (s : State) (q : Nat) (v : Word) : State :=
  let x := s.queue q
  let d := (v - x.tail).toNat
  if !x.closed && decide (0 < d ∧ d < 2 ^ 63) then (s.setQueue q { x with tail := v }).reread q else s

/-- R145: writing 1 to closed sets it. -/
def State.closeQueue (s : State) (q : Nat) : State := s.setQueue q { s.queue q with closed := true }

/-- R145: an 8-byte write of a control line at an offset. -/
def State.ctlWrite (s : State) (q off : Nat) (v : Word) : State :=
  match off / 8 with
  | 1 => s.tailTo q v
  | 2 => if v.getLsbD 0 then s.closeQueue q else s
  | 3 => s.setQueue q { s.queue q with resv := v }
  | _ => s

/-- Bytes written at a home. -/
def State.homeStore (s : State) (h : Home) (bs : List Byte) : State :=
  match h with
  | .mem key => s.storeBytes key bs
  | .ctl q off => if off < 32 then s.ctlWrite q off (BitVec.ofNat 64 (leNat bs)) else s

/-! ### Atomics (Table 16-2) -/

/-- The stored value, of `w` bits. -/
def atomNew (op : AtomOp) (w old v cmp : Nat) : Nat :=
  let m := 2 ^ w
  let v := v % m
  match op with
  | .add => (old + v) % m
  | .min uns => if uns then Nat.min old v else if signed w v < signed w old then v else old
  | .max uns => if uns then Nat.max old v else if signed w old < signed w v then v else old
  | .and => Nat.land old v
  | .or => Nat.lor old v
  | .xor => Nat.xor old v
  | .xchg => v
  | .cas => if old = cmp % m then v else old
  | .inc => (old + 1) % m
  | .fadd => (fadd32 0 (BitVec.ofNat 32 old) (BitVec.ofNat 32 v)).toNat
  | .maxw => let d := (v + m - old) % m
             if 0 < d ∧ d < m / 2 then v else old

/-! ### Half bytes (R7) -/

/-- The half byte at half key `h`. -/
def State.half (s : State) (h : Nat) : Nat := (readByte s.mem (h / 2)).toNat / (if h % 2 = 0 then 1 else 16) % 16

/-- The module with a half byte written. -/
def State.setHalf (s : State) (h v : Nat) : State :=
  let b := (readByte s.mem (h / 2)).toNat
  let n := if h % 2 = 0 then b / 16 * 16 + v % 16 else b % 16 + v % 16 * 16
  { s with mem := writeByte s.mem (h / 2) (BitVec.ofNat 8 n) }

/-- R145: the half byte that a control line or memory holds at half key `h`: positions of control lines lie above memory. -/
def State.homeHalf (s : State) (h : Nat) : Nat :=
  match homeAt (h / 2) with
  | .mem _ => s.half h
  | .ctl q off => (s.queue q).line / 2 ^ (8 * off + 4 * (h % 2)) % 16

/-- Half bytes as a number, the lowest address first. -/
def ofHalves : List Nat → Nat
  | [] => 0
  | h :: t => h + 16 * ofHalves t

/-- The `n` low half bytes of a number. -/
def toHalves : Nat → Nat → List Nat
  | 0, _ => []
  | n + 1, v => v % 16 :: toHalves n (v / 16)

/-- Poison of the 64-bit words that some bytes cover whole is gone (R417). -/
def State.clearPoison (s : State) (keys : List Nat) : State :=
  { s with poisoned := s.poisoned.filter fun w => !((List.range 8).all fun j => keys.contains (8 * w + j)) }

/-- R145, R146: half bytes written at once to 8-byte word `w` (position / 8) of a control line: the others of the word are as they stand. -/
def State.putWord (s : State) (w : Nat) (p : Part) : State :=
  match homeAt (8 * w) with
  | .mem _ => s
  | .ctl q off =>
    let old := (s.queue q).line / 2 ^ (8 * off) % 2 ^ 64
    s.ctlWrite q off (BitVec.ofNat 64 (ofHalves ((List.range 16).map fun j => ((p.find? fun e => e.1 % 16 == j).map fun e => e.2 % 16).getD (old / 16 ^ j % 16))))

/-- Half bytes written at once, in memory or in control lines. -/
def State.putPart (s : State) (p : Part) : State :=
  let mem := p.filter fun e => e.1 < 2 ^ 65
  let s := (mem.foldl (fun (s : State) e => s.setHalf e.1 e.2) s).clearPoison (mem.map fun e => e.1 / 2)
  let ctl := p.filter fun e => 2 ^ 65 ≤ e.1
  ((ctl.map fun e => e.1 / 16).eraseDups).foldl (fun (s : State) w => s.putWord w (ctl.filter fun e => e.1 / 16 == w)) s

/-- The half bytes of bytes stored from a position. -/
def bytePart (pos : Nat) (bs : List Byte) : Part :=
  (bs.zipIdx).flatMap fun e => [(2 * (pos + e.2), e.1.toNat % 16), (2 * (pos + e.2) + 1, e.1.toNat / 16)]

/-- The parts that may be performed next: those that no earlier one shares a byte with (R357). -/
def readyParts (ps : List Part) : List Nat :=
  (List.range ps.length).filter fun i =>
    (ps.take i).all fun p => p.all fun a => (ps.getD i []).all fun b => a.1 / 2 != b.1 / 2

/-- The part performed next, which of those that may be is open. -/
def State.nextPart (s : State) (ps : List Part) : Nat :=
  let l := readyParts ps
  l.getD (Config.freeNat s.fresh % l.length) 0

/-- Table 14-5: a combine of CPYR on codes of the destination view. -/
def combine (op : BitVec 4) (view : Nat) (rnd : BitVec 2) (d x : Nat) : Nat :=
  let w := 4 * viewHalf view
  match op.toNat with
  | 0 => (d + x) % 2 ^ w
  | 1 => match fmtOfCode view with
    | some f => (f.rnd rnd false (Exact.sum rnd [f.dec d, f.dec x])).1
    | none => d
  | 2 => if signed w x < signed w d then x else d
  | 3 => if signed w d < signed w x then x else d
  | 4 => match fmtOfCode view with | some f => f.pick false d x | none => d
  | 5 => match fmtOfCode view with | some f => f.pick true d x | none => d
  | 6 => Nat.land d x
  | _ => Nat.lor d x

/-- R333: one element combined at its home. -/
def State.combineAt (s : State) (op : BitVec 4) (view : Nat) (rnd : BitVec 2) (e : List (Option Nat) × Nat) : State :=
  let v := combine op view rnd (ofHalves (e.1.map fun k => k.elim 0 s.homeHalf)) e.2
  s.putPart ((List.zip e.1 (toHalves e.1.length v)).filterMap fun x => x.1.map fun k => (k, x.2))

/-! ### Performing -/

/-- R336: why a PUBLISH stops at the hem die. -/
def State.publishTrap (s : State) (lid dom va : Nat) : Option Trap :=
  let d := s.lining lid
  if !d.valid then some { cause := .xlate, detail := 4, info1 := BitVec.ofNat 64 va }
  else if d.dom.toNat ≠ dom then some { cause := .domain, info1 := BitVec.ofNat 64 lid, info2 := BitVec.ofNat 64 d.dom.toNat }
  else none

/-- A reply of register values. -/
def Reply.of (rs : List (Reg × Word)) : Reply := { Reply.empty with regs := rs }
/-- A reply that carries an error. -/
def Reply.fail (t : Trap) : Reply := { Reply.empty with error := some t }

/-- R224: a POP in fail mode at its queue's hem die; a poisoned word of the entry fills its register poisoned (R203). -/
def State.popNow (s : State) (d : Reg) (p : PReg) (q : Nat) : State × Reply :=
  if s.dispensable q then
    (s.advanceHead q,
      { Reply.empty with
        regs := List.zip popRegs (s.payload q ++ [(s.queue q).head]) ++ [(d, 2)]
        bad := (s.payloadBad q).filter fun e => e.1 != d
        pred := some (p, true) })
  else
    (s, { Reply.empty with refill := popRegs, regs := [(d, if (s.queue q).over then 1 else 0)], pred := some (p, false) })

/-- What a request does when it is performed: nothing yet, or the module after it and the reply. -/
def State.effect (s : State) (r : Req) : Option (State × Reply) :=
  let t := r.tgt
  let va := t.va
  match r.op, t.home with
  | .load d pair, h =>
    if s.homePoisoned h t.lo t.len then some (s, Reply.fail (eccTrap t))
    else
      let v := s.homeLoad h t.lo t.len * 2 ^ (8 * t.lo)
      some (s, Reply.of (if pair then [(d, BitVec.ofNat 64 v), (d + 1, BitVec.ofNat 64 (v / 2 ^ 64))] else [(d, BitVec.ofNat 64 v)]))
  | .store data, .mem key => some (s.homeStore (.mem (key + t.lo)) ((data.drop t.lo).take t.len), Reply.empty)
  | .store data, .ctl q off => some (s.putPart (bytePart ((Home.ctl q off).pos + t.lo) ((data.drop t.lo).take t.len)), Reply.empty)
  | .atomic d op v cmp, h =>
    if s.homePoisoned h 0 t.size then some (s, Reply.fail (eccTrap t))
    else
      let old := s.homeLoad h 0 t.size
      let new := atomNew op (8 * t.size) old v.toNat cmp.toNat
      some (s.homeStore h (leBytes t.size new), Reply.of [(d, BitVec.ofNat 64 old)])
  | .recld br, h =>
    if s.homePoisoned h 0 32 then some (s, Reply.fail (eccTrap t))
    else some (s, { Reply.empty with record := some (br, BitVec.ofNat 256 (s.homeLoad h 0 32)) })
  | .payload, h =>
    if s.homePoisoned h 0 8 then some (s, Reply.fail (eccTrap t)) else some (s, Reply.of [(0, BitVec.ofNat 64 (s.homeLoad h 0 8))])
  | .pop d p q, _ => some (s.popNow d p q)
  | .brd d high, .mem key =>
    if s.poisonedAt (if high then key + 8 else key) 8 then some (s, Reply.fail (eccTrap t)) else some (s, Reply.of [(d, s.barHalf key high)])
  | .binit w core, .mem key => some (s.initWord key w core (coreWide r.gang r.priv), Reply.empty)
  | .barv, .mem key => if s.poisonedAt key 16 then some (s, Reply.fail (eccTrap t)) else
    match s.arrive key va with
    | .error e => some (s, Reply.fail e)
    | .ok (s', old) => some (s', Reply.of [(0, BitVec.ofNat 64 old)])
  | .bexp n, .mem key => if s.poisonedAt key 16 then some (s, Reply.fail (eccTrap t)) else
    match s.expect key va n with
    | .error e => some (s, Reply.fail e)
    | .ok s' => some (s', Reply.empty)
  | .send core n g aux, _ =>
    let c := (s.core core).chan n
    if !c.valid then some (s, Reply.fail { cause := .chan, info1 := BitVec.ofNat 64 (core * 2 ^ 6 + n) })
    else if !c.held.isEmpty || c.fifo.length ≥ Config.fifoDepth then none
    else some (s.onCore core fun k => k.post n ⟨g, aux, [], [], none, none, false⟩, Reply.empty)
  | .reserve q, _ =>
    let x := s.queue q
    if x.closed then some (s, Reply.fail { cause := .queue, detail := 2, info1 := BitVec.ofNat 64 q })
    else if (x.resv - x.head).toNat ≥ 2 ^ x.logn.toNat then none
    else some (s.setQueue q { x with resv := x.resv + 1 }, Reply.of [(0, x.resv)])
  | .pushTail q v, _ => some (s.tailTo q v, Reply.empty)
  | .fetch, h =>
    let n := match h with | .mem key => key | .ctl _ _ => 0
    some (s, { Reply.empty with
      bytes := leBytes t.len (s.homeLoad h 0 t.len)
      marred := match h with
        | .mem _ => s.poisoned.filter fun w => n / 8 ≤ w && w ≤ (n + t.len - 1) / 8
        | .ctl _ _ => [] })
  | .put ps _ _, _ => some (ps.foldl State.putPart s, Reply.empty)
  | .combine op view rnd es, _ =>
    if es.any fun e => e.1.any fun k => k.any fun h => s.poisonedAt (h / 2) 1 then some (s, Reply.fail (eccTrap t)) else
    some (es.foldl (fun (s : State) e => s.combineAt op view rnd e) s, Reply.empty)
  | .decrement, .mem key => if s.poisonedAt key 16 then some (s, Reply.fail (eccTrap t)) else
    match s.decrement key va with
    | .error e => some (s, Reply.fail e)
    | .ok s' => some (s', Reply.empty)
  | .publish lid _ _, _ =>
    match s.publishTrap lid r.dom va with
    | some e => some (s, Reply.fail e)
    | none => some (s.swapLining lid, Reply.empty)
  | .publishWord lid key, _ =>
    if s.mayPublish lid key then some (s.swapLining lid, Reply.empty) else some (s, Reply.fail { cause := .barrier, detail := 5 })
  | .report core t g, _ => some (s.report core t g 0, Reply.empty)
  | .message core n m, _ => some (if ((s.core core).chan n).valid then s.onCore core fun k => k.post n m else s, Reply.empty)
  | _, _ => none

/-- R349: the class of a request's budget and its cost in units. -/
def Req.cost (r : Req) : Nat × Nat :=
  (if r.bulk then 1 else 0,
   match r.op with
   | .load _ _ | .store _ | .recld _ | .payload | .fetch => (r.tgt.len + 63) / 64
   | .put _ begun _ => if begun then 0 else 1
   | _ => 1)

/-- R352: the core after its permit refill of a stitch, unless that is made: PERMITS is in force and every counter is at its rate. -/
def Core.refill (k : Core) (stitch : Word) : Core :=
  if k.refilled = stitch.toNat then k
  else { k with
    refilled := stitch.toNat
    permitsNow := k.permits
    mxLeft := rfld k.permits 48 16
    regions := k.regions.map fun (e : Nat × Region) => (e.1, { e.2 with fab := { e.2.fab with fabLeft := [], sfuLeft := [], memLeft := none } }) }

/-- R348, R349: the core after its budget reload of a stitch, unless that is made: BUDGET is in force and every arbiter holds the core's whole
budget; a stitch in which a request was held is counted. -/
def Core.reload (k : Core) (stitch : Word) : Core :=
  if k.reloaded = stitch.toNat then k
  else { k with
    reloaded := stitch.toNat
    budgetNow := k.budget
    budgetLeft := []
    budgetHeld := if k.heldNow && k.budgetHeld != BitVec.allOnes 16 then k.budgetHeld + 1 else k.budgetHeld
    heldNow := false }

/-- R348: the budget in force of a class; 0 is unlimited. -/
def Core.budgetRate (k : Core) (cls : Nat) : Nat :=
  if cls = 1 then rfld k.budgetNow 0 16 else rfld k.budgetNow 16 16

/-- R349: units left of a class at a stack's arbiter in this stitch. -/
def Core.unitsLeft (k : Core) (stack cls : Nat) : Nat := k.budgetLeft.get (k.budgetRate cls) (2 * stack + cls)

/-- R349: the core after a request of `n` units at a stack's arbiter, or none when too few are left. -/
def Core.spend (k : Core) (stack cls n : Nat) : Option Core :=
  if k.budgetRate cls = 0 then some k
  else if k.unitsLeft stack cls < n then none
  else some { k with budgetLeft := k.budgetLeft.set (2 * stack + cls) (k.unitsLeft stack cls - n) }

/-- R418: the dies whose gateways a packet from core `c` passes on its way to (x, y), in that order: X first, then Y (R341). -/
def routeDies (c x y : Nat) : List Nat :=
  let row := coreY c / 4 * 8
  let a := coreX c / 6
  let b := x / 6
  let between := (List.range 8).filter fun i => decide (Nat.min a b ≤ i ∧ i ≤ Nat.max a b)
  ((if a ≤ b then between else between.reverse).map fun i => row + i) ++ [y / 4 * 8 + b]

/-- R418: a die of another domain: it has cores, and none of them is of the packet's. -/
def State.foreignDie (s : State) (d dom : Nat) : Bool :=
  !(List.range Config.numCores).any fun c => dieOf c == d && (s.core c).domain.toNat == dom

/-- R418: whether a packet of a domain from core `c` is refused on its way to or at a destination, and the domain that it met. -/
def State.refusedAt (s : State) (c dom : Nat) (d : Dest) : Option Nat :=
  let home := match d with
    | .slice h => if (s.core h).domain.toNat ≠ dom then some (s.core h).domain.toNat else none
    | _ => none
  let e := d.exit c
  let met := ((routeDies c e.1 e.2).find? fun x => x != dieOf c && s.foreignDie x dom).map fun x =>
    (((List.range Config.numCores).find? fun y => dieOf y == x).map fun y => (s.core y).domain.toNat).getD 0
  if d.isLocal c then home else match met with
    | some m => some m
    | none => home

/-- R418: whether a request is refused. -/
def State.refused (s : State) (c : Nat) (r : Req) : Option Nat := s.refusedAt c r.dom r.dest

/-- The port of a request: its unit, or its slot's. -/
def Core.reqPort (k : Core) (c : Nat) (r : Req) : Port := r.unit.getD (k.slotPort c r.slot)

/-- R100, R383: the key of a slot barrier at a VA that a read of a port is held at, once its translation is buffered. -/
def State.collarKey (s : State) (c : Nat) (p : Port) (va : Nat) : Option Nat :=
  match s.translate (s.issuerOf c true (some p)) .any false false none va with
  | .ok x => some (x.key + va % 2 ^ 16)
  | .error _ => none

/-- R100, R383: a read of a port looks at its slot barrier's word: the translation that it lacks is walked for. -/
def State.lookHold (s : State) (c : Nat) (p : Port) (hold : Option Nat) : State :=
  match hold with
  | none => s
  | some va => match s.translate (s.issuerOf c true (some p)) .any false false none va with
    | .ok _ => s.remember (s.issuerOf c true (some p)) va
    | .error t => if t.isMiss then s.miss c p t.info1 else s.tookFault p

/-- R383: whether a read of a port is held at its slot's barrier. -/
def State.heldAt (s : State) (c : Nat) (p : Port) (hold : Option Nat) : Bool :=
  match hold with
  | none => false
  | some va => match s.collarKey c p va with
    | none => true
    | some key => barSect (s.barWord key) != 0

/-- R330, R358, R372: whether a request is a release: it is performed only after every earlier access of its port. -/
def State.releases (s : State) (c : Nat) (r : Req) : Bool :=
  r.ord.getLsbD 1 || match r.op, r.tgt.home with
    | .decrement, _ => true
    | .barv, .mem key => s.barMember c r.gang r.priv (s.coreWords.contains key) (s.barWord key)
    | .binit w core, _ => s.barMember c r.gang r.priv (coreWide r.gang r.priv) (setFld w 11 9 core)
    | _, _ => false

/-- R357: whether two requests are of one port: a unit, or a slot. -/
def Req.samePort (r x : Req) : Bool :=
  x.unit == r.unit && (r.unit.isSome || (x.slot == r.slot && r.slot < 16))

/-- The half bytes that a unit's write names. -/
def ReqOp.halves : ReqOp → List Nat
  | .put ps _ _ => ps.flatMap fun p => p.map fun e => e.1
  | .combine _ _ _ es => es.flatMap fun e => e.1.filterMap id
  | _ => []

/-- Whether two requests name a byte in common: of two writes of units, the bytes themselves. -/
def Req.meets (r x : Req) : Bool :=
  x.tgt.overlaps r.tgt && (r.op.halves.isEmpty || x.op.halves.isEmpty || r.op.halves.any fun a => x.op.halves.any fun b => a / 2 == b / 2)

/-- R336: whether a PUBLISH waits at the hem die: its descriptor is right, and an earlier operation of its slot is not performed. -/
def State.publishWaits (s : State) (c : Nat) (r : Req) : Bool :=
  match r.op with
  | .publish lid slot mark =>
    (s.publishTrap lid r.dom 0).isNone && (s.core c).reqs.any fun x => x.slot == slot && x.id < mark && x.unperformed
  | _ => false

/-- R229, R357, R358, R372, R383: whether an earlier access of the port is to be performed first: to the same byte; before a release; a
queued store before the next; a read that is held at a collar slot, which is an acquire as its hold ends. -/
def State.mustWait (s : State) (c : Nat) (r : Req) : Bool :=
  let release := s.releases c r
  (s.core c).reqs.any fun x =>
    r.samePort x && x.id < r.id && x.unperformed
      && (r.meets x || (release && !(r.op == .decrement && x.op == .fetch)) || (x.inOrder && r.inOrder) || s.heldAt c ((s.core c).reqPort c x) x.tgt.hold)

/-- R419, R420: whether the way from core `c` to another node is open: its links are 26 and upward (log 24). -/
def State.reachable (s : State) (c : Nat) (d : Dest) : Bool :=
  match d with
  | .node n => !s.unreachable.contains n && !s.retraining.contains (nodeLink c n)
  | _ => true

/-- R21, R341: the seams on the way from core `c` to (x, y), by number (log 24): 0 to 13 east to west, 14 to 21 north to south. -/
def pathSeams (c x y : Nat) : List Nat :=
  let row := coreY c / 4
  let a := coreX c / 6
  let b := x / 6
  ((List.range 7).filter fun i => decide (Nat.min a b ≤ i ∧ i < Nat.max a b)).map (fun i => 7 * row + i)
    ++ if row = y / 4 then [] else [14 + b]

/-- The seams and links on the way to a destination: 22 to 25 lead to the hem dies, 26 to 97 are the scale-up links. -/
def Dest.seams (c : Nat) (d : Dest) : List Nat :=
  let e := d.exit c
  pathSeams c e.1 e.2 ++ match d with
    | .hem h => [22 + h]
    | .node n => [22 + nodeHem c, nodeLink c n]
    | _ => []

/-- R420: whether no seam or link on the way to a destination retrains. -/
def State.pathOpen (s : State) (c : Nat) (d : Dest) : Bool := d.isLocal c || !(d.seams c).any s.retraining.contains

/-- The request of a core with number `id`. -/
def Core.req? (k : Core) (id : Nat) : Option Req := k.reqs.find? fun r => r.id == id

/-- The core with request `id` changed. -/
def Core.onReq (k : Core) (id : Nat) (f : Req → Req) : Core :=
  { k with reqs := k.reqs.map fun r => if r.id = id then f r else r }

/-- Where the reply of a request of core `c` goes: to the core, or to the barrier word whose publication it answers (R371). -/
def Req.homeward (r : Req) (c : Nat) : Nat × Nat :=
  match r.op with
  | .publishWord _ key => (destOf (.mem key)).exit c
  | _ => (coreX c, coreY c)

/-- The reply of request `r` of core `c` leaves its home (R317, R341): the core's own needs no mesh. -/
def State.replyFrom (s : State) (c : Nat) (r : Req) (p : Reply) : State :=
  if r.dest.isLocal c then s.onCore c fun k => k.onReq r.id fun r => { r with phase := .back p }
  else
    let e := r.dest.exit c
    let dest := r.homeward c
    let vc := if r.vc = 3 then 3 else 2
    let flits := match r.op with
      | .load _ _ | .recld _ | .atomic _ _ _ _ | .brd _ _ | .pop _ _ _ | .payload => 2
      | .fetch => if r.tgt.len ≤ 32 then 2 else 3
      | _ => 1
    let s := s.onCore c fun k => k.onReq r.id fun r => { r with phase := .done p }
    s.onCore (e.1 + 48 * e.2) fun k => { k with router := k.router.inject (r.dest.port e.1) vc ⟨c, r.id, true, dest.1, dest.2, flits, 0⟩ }

/-! ### HBM arbiters (R349, R350) -/

/-- R371: whether a barrier operation waits while its word's completion is in progress. -/
def State.wordWithholds (s : State) (r : Req) : Bool :=
  match r.op, r.tgt.home with
  | .barv, .mem key => s.completes key
  | .binit _ _, .mem key => s.completes key
  | .bexp _, .mem key => s.completes key
  | .decrement, .mem key => s.completes key
  | _, _ => false

/-- Whether a request that is at its home may be performed there now, an arbiter apart. -/
def State.servable (s : State) (c : Nat) (r : Req) : Bool :=
  r.phase == .home && (s.refused c r).isNone && !s.wordWithholds r && !s.mustWait c r && !s.publishWaits c r && !s.heldAt c ((s.core c).reqPort c r) r.tgt.hold && s.reachable c r.dest

/-- R349: whether core `c` has its budget of this stitch for a request at stack `n`, and units enough left. -/
def State.hasBudget (s : State) (c n : Nat) (r : Req) : Bool :=
  (s.core c).reloaded == s.stitch.toNat && ((s.core c).spend n r.cost.1 r.cost.2).isSome

/-- The requests that stack `n`'s arbiter could serve now, each with its core. -/
def State.waiting (s : State) (n : Nat) : List (Nat × Req) :=
  s.cores.flatMap fun e => (e.2.reqs.filter fun r => r.dest == .stack n && s.servable e.1 r && s.hasBudget e.1 n r).map fun r => (e.1, r)

/-- R350: the latency grants after which a bulk request is served next. -/
def passLimit : Nat := 16

/-- Whether a request arrived before another. -/
def Req.earlier (a b : Req) : Bool := decide (a.arrived.getD 0 < b.arrived.getD 0)

/-- R349, R350: whether it is a request's turn among those waiting: a bulk request that 16 latency grants have passed over is first; then
latency before bulk; within a class the requests that a budget held, in arrival order (log 31). -/
def turnOf (ws : List Req) (r : Req) : Bool :=
  let starved := ws.filter fun x => x.bulk && decide (passLimit ≤ x.passed)
  if starved.isEmpty then
    (!r.bulk || ws.all fun x => x.bulk) && ((ws.filter fun x => x.bulk == r.bulk && x.held).all fun x => r.held && !x.earlier r)
  else r.bulk && decide (passLimit ≤ r.passed) && starved.all fun x => !x.earlier r

/-- R350: the bulk requests waiting at stack `n` after a grant to a request of core `c`. -/
def State.passOver (s : State) (n : Nat) (r : Req) : State :=
  if r.bulk || r.cost.2 == 0 then s
  else (s.waiting n).foldl (fun (s : State) e =>
    if e.2.bulk then s.onCore e.1 fun k => k.onReq e.2.id fun x => { x with passed := x.passed + 1 } else s) s

/-- R349, R350: what the arbiter of a request's stack says: granted, or not now; one that finds too few units is held. Other homes have no
arbiter. -/
def State.grant (s : State) (c : Nat) (r : Req) : State × Bool :=
  match r.dest with
  | .stack n =>
    let k := s.core c
    if k.reloaded ≠ s.stitch.toNat then (s, false)
    else match k.spend n r.cost.1 r.cost.2 with
      | none => (s.setCore c ({ k with heldNow := true }.onReq r.id fun x => { x with held := true }), false)
      | some k => if turnOf ((s.waiting n).map fun e => e.2) r then ((s.passOver n r).onCore c fun x => { x with budgetLeft := k.budgetLeft }, true)
                  else (s, false)
  | _ => (s, true)

/-- R356: what is left of a unit's write after one of its parts is performed, if more than one is left: relaxed accesses to different bytes
are performed in any order (R357). -/
def State.partly (s : State) (c : Nat) (r : Req) : Option State :=
  match r.op with
  | .put (p :: q :: ps) _ data =>
    let l := p :: q :: ps
    let i := s.nextPart l
    some { (s.putPart (l.getD i [])).onCore c fun k => k.onReq r.id fun x => { x with op := .put (l.eraseIdx i) true data } with
      fresh := s.fresh + 1 }
  | _ => none

/-- R100, R423: a logged read of core `c` is issued again: it translates afresh, waits for its walk and its permit, and fails where its
translation does (log 28). -/
def State.reissue (s : State) (c : Nat) (r : Req) : State :=
  let p := (s.core c).slotPort c r.slot
  let i := s.issuerOf c r.priv (some p)
  let failed (s : State) (t : Trap) : State := s.onCore c fun k => k.onReq r.id fun r => { r with phase := .back (Reply.fail t) }
  match s.translate i .any true false none r.tgt.va with
  | .error t => if t.isMiss then s.miss c p t.info1 else failed (s.tookFault p) t
  | .ok x =>
    let r := { r with tgt := { r.tgt with home := s.homeOf x r.tgt.va } }
    match s.lostNode r.tgt.va r.tgt.home.pos with
    | some t => failed s t
    | none =>
      if (s.core c).permitted c r.dest then
        ((s.remember i r.tgt.va).markPage r.gang r.tgt.home).onCore c fun k =>
          { k with reqs := k.reqs.filter fun x => x.id != r.id }.depart c r
      else s

/-- R356: a request that is at its home is performed there, if nothing holds it; of a unit's write, the next part. One that is to be issued again
sets out, unless its gang is halted. -/
def State.performReq (s : State) (c id : Nat) : State :=
  match (s.core c).req? id with
  | none => s
  | some r =>
    if r.phase = .unsent then (if s.frozen r.gang then s else s.reissue c r) else
    let s := if r.phase == .home then s.lookHold c ((s.core c).reqPort c r) r.tgt.hold else s
    if !s.servable c r then s
    else
      let b := s.grant c r
      if b.2 then
        match b.1.partly c r with
        | some s => s
        | none => match b.1.effect r with
          | none => s
          | some (s, p) => s.replyFrom c r p
      else b.1

/-- R356, PERFORMED_AT_HOME. -/
def execPerformedAtHome (o : ReqAt) (s : State) : Out := .next (s.performReq o.core o.id)

/-- R383, COLLAR_READ_RELEASE: a read held at a collar slot proceeds once sect is 0. -/
def execCollarReadRelease (o : ReqAt) (s : State) : Out :=
  match (s.core o.core).req? o.id with
  | none => .next s
  | some r => if r.tgt.hold.isSome then .next (s.performReq o.core o.id) else .next s

/-! ### Replies -/

/-- The registers that a request's reply fills. -/
def Req.dests (r : Req) : List Reg :=
  match r.op with
  | .load d pair => if pair then [d, d + 1] else [d]
  | .atomic d _ _ _ => [d]
  | .brd d _ => [d]
  | .pop d _ _ => d :: popRegs
  | .value d _ => [d]
  | .steer d _ _ => [d]
  | _ => []

/-- R200, R203, R224: the slot after a reply has filled it; `v` is what a poisoned register holds. -/
def Slot.filled (sl : Slot) (r : Req) (p : Reply) (v : Word) : Slot :=
  match p.error with
  | some t =>
    let sl := r.dests.foldl (fun (sl : Slot) d => sl.poisonReg d t v) sl
    match r.op with
    | .pop _ q _ => sl.setPred q { sl.pcell q with pending := false }
    | _ => sl
  | none =>
    let sl := p.refill.foldl (fun (sl : Slot) d => sl.refill d) sl
    let sl := p.regs.foldl (fun (sl : Slot) e => sl.write e.1 e.2) sl
    let sl := p.bad.foldl (fun (sl : Slot) e => sl.poisonReg e.1 e.2 v) sl
    match p.pred with
    | some (q, b) => sl.setPred q ⟨b, false⟩
    | none => sl

/-- R229, R230: the checkpoint after a reply to a request issued before the SPEC; the fill of gA decides the condition, and a poisoned
fill fails it. -/
def Spec.filled (sp : Spec) (sl : Slot) (r : Req) (p : Reply) (v : Word) : Spec :=
  let old := ({ sl with regs := sp.regs, preds := sp.preds } : Slot).filled r p v
  let was := ({ sl with regs := sp.regs, preds := sp.preds } : Slot).cell sp.reg
  let now_ := old.cell sp.reg
  { sp with
    regs := old.regs
    preds := old.preds
    outcome := if sp.outcome.isNone && was.empty && !now_.empty then some (now_.poison.isNone && condHolds sp.cond now_.v 0)
               else sp.outcome }

/-- R229: a reply to a request issued before an unresolved SPEC also reaches its checkpoint. -/
def Slot.filledSpec (sl : Slot) (r : Req) (p : Reply) (v : Word) : Slot :=
  match sl.spec with
  | none => sl.filled r p v
  | some sp => if r.id < sp.mark then { sl.filled r p v with spec := some (sp.filled sl r p v) } else sl.filled r p v

/-- R322, R386: a RECLD's reply reaches its record. -/
def Core.recordReply (k : Core) (r : Req) (p : Reply) : Core :=
  match r.op, p.error, p.record with
  | .recld br, some t, _ => { k with badRecords := k.badRecords.set br.toNat t }
  | .recld br, none, some (_, v) =>
    { k with records := k.records.set br.toNat (if recKind v = 2 then ringSetP v 0 else v),
             badRecords := k.badRecords.erase br.toNat }
  | _, _, _ => k

/-- Whether the running instruction of the request's slot takes its reply itself (R222, R225, R373). -/
def Slot.awaits (sl : Slot) (id : Nat) : Bool :=
  match sl.prog with
  | .awaiting i => i == id
  | .push _ i _ _ => i == some id
  | _ => false

/-- Whether a request's gang is still on the core. -/
def Core.ours (k : Core) (r : Req) : Bool :=
  match r.gang with
  | none => true
  | some g => (k.gangInfo? g).isSome

/-- A reply that is back is delivered, and its request is gone. -/
def Core.deliver (k : Core) (id : Nat) (v : Word) : Core :=
  match k.req? id with
  | none => k
  | some r =>
    match r.phase with
    | .back p =>
      if r.live && (r.unit.isSome || (k.slot r.slot).awaits id) then k
      else
        let k := { k with reqs := k.reqs.filter fun x => x.id != id }
        let k := if k.ours r then k.recordReply r p else k
        if r.live && r.slot < 16 then k.setSlot r.slot ((k.slot r.slot).filledSpec r p v) else k
    | _ => k

/-- R371: what a reply that is back brings about beside its registers: the phase of a barrier word that published. -/
def State.answeredWord (s : State) (c id : Nat) : State :=
  match (s.core c).req? id with
  | none => s
  | some r => match r.op, r.phase with
    | .publishWord _ key, .back p => s.wordPublished key p.error.isNone
    | _, _ => s

/-- A reply that is back is delivered, with an open value for what it poisons. -/
def State.delivered (s : State) (c id : Nat) : State :=
  { (s.answeredWord c id).onCore c fun k => k.deliver id (Config.freeWord s.fresh) with fresh := s.fresh + 1 }

/-- R200, REPLY_FILL. The replies of a halted gang stay in its log (R423). -/
def execReplyFill (o : ReqAt) (s : State) : Out :=
  if (((s.core o.core).req? o.id).elim false fun r => s.frozen r.gang) then .next s
  else .next (s.delivered o.core o.id)

/-! ### Requests that fail -/

/-- The MEMTO trap of a request (Table 20-5). -/
def Req.memtoTrap (r : Req) : Trap :=
  { cause := .memto, info1 := BitVec.ofNat 64 r.tgt.va,
    info2 := match r.tgt.home with
      | .mem key => BitVec.ofNat 64 (key % 2 ^ 48 + key / 2 ^ 48 * 2 ^ 48)
      | .ctl _ _ => 0 }

/-- R415: a request whose timer has reached the core's limit. -/
def Core.expired (k : Core) (r : Req) : Bool :=
  k.memto.toNat != 0 && decide (k.memto.toNat ≤ r.age) && match r.phase with | .back _ => false | _ => true

/-- R415: the request as it goes on without its issuer: it may be performed at any time, or never. It belongs to no port, which
slot number 16 says, and a late record is discarded. -/
def Req.orphan (r : Req) : Req :=
  { r with
    live := false
    slot := 16
    unit := none
    tgt := { r.tgt with hold := none }
    op := match r.op with | .recld _ => .payload | o => o }

/-- R415: a request is abandoned: one that is not performed goes on without its issuer (log 7). -/
def Core.abandon (k : Core) (r : Req) : Core :=
  match r.phase with
  | .done _ => { k with reqs := k.reqs.filter fun x => x.id != r.id }
  | _ => k.onReq r.id Req.orphan

/-- R415: a unit's request as its unit sees it once it is abandoned, under a number of its own. -/
def Core.failUnit (k : Core) (r : Req) (t : Trap) : Core :=
  let k := k.abandon r
  { k with reqs := k.reqs ++ [{ r with id := k.nextReq, phase := .back (Reply.fail t) }], nextReq := k.nextReq + 1 }

/-- R415, MEMTO: the request is abandoned. A destination fills poisoned; an instruction that waits for it traps; a unit faults. -/
def execMemto (o : ReqAt) (s : State) : Out :=
  let k := s.core o.core
  match k.req? o.id with
  | none => .next s
  | some r =>
    if !k.expired r then .next s
    else
      let p := Reply.fail r.memtoTrap
      if r.live && r.unit.isSome then .next (s.setCore o.core (k.failUnit r r.memtoTrap))
      else if r.live && (k.slot r.slot).awaits o.id then
        .next (s.setCore o.core (k.onReq o.id fun r => { r with phase := .back p }))
      else
        let k := if k.ours r then k.recordReply r p else k
        let k := if r.live then k.setSlot r.slot ((k.slot r.slot).filledSpec r p (Config.freeWord s.fresh)) else k
        .next { s.setCore o.core (k.abandon r) with fresh := s.fresh + 1 }

/-- R415, R418, DOMAIN_NACK: the packet is dropped and answered; a store, which has no register to fill, makes a report, unless its issuer has
abandoned it. -/
def execDomainNack (o : ReqAt) (s : State) : Out :=
  match (s.core o.core).req? o.id with
  | none => .next s
  | some r =>
    match s.refused o.core r with
    | none => .next s
    | some dom =>
      if !r.unperformed || r.phase == .unsent then .next s
      else
        let t : Trap := { cause := .domain, detail := 1, info1 := BitVec.ofNat 64 r.tgt.va, info2 := BitVec.ofNat 64 dom }
        let answered (p : Reply) := s.onCore o.core fun k => k.onReq o.id fun r => { r with phase := .back p }
        match r.op with
        | .store _ =>
          if r.live && ((s.core o.core).slot r.slot).awaits o.id then .next (answered (Reply.fail t))
          else if r.slot < 16 then .next ((answered Reply.empty).report o.core t r.gang r.slot)
          else .next (answered Reply.empty)
        | _ => .next (answered (Reply.fail t))

/-- R419, RETRANSMIT: a remote request unanswered after the timer is sent again with the same number. The target performs each number
once, so nothing else changes. -/
def execRetransmit (o : ReqAt) (s : State) : Out :=
  .next (s.onCore o.core fun k => k.onReq o.id fun r =>
    if r.remote.isSome && s.resendLimit ≤ r.resend && (match r.phase with | .back _ => false | _ => true) then { r with resend := 0 }
    else r)

end Sys2Proof.Machine
end

