-- ==== Sys2Proof/Machine/Port.lean ====
section
/-! DEFINITION. The requests of units (R317, R318, R345, R357): an AG, an MSEQ, a command, a matrix token or an SCFG load asks for the
bytes that it reads and sends what it writes, sector by sector; each request travels, waits for its permit, budget and order, and is
answered as a control processor's is. What a unit has asked for stands among its core's requests until the unit takes it. -/

namespace Sys2Proof.Machine

/-- A unit about to act: its core, its port, for whom. -/
structure Requester where
  core : Nat
  port : Port
  gang : Option GangId
  dom : Nat
  priv : Bool
deriving DecidableEq, Repr

/-- The issuer of its translations (R94). -/
def Requester.issuer (u : Requester) (s : State) : Issuer := ⟨dieOf u.core, u.dom, u.priv, (s.core u.core).ptbase, some u.core, some u.port⟩

/-- Whether a request is a port's, and still its. -/
def Req.ofPort (r : Req) (p : Port) : Bool := r.live && r.unit == some p

/-- The requests of a port. -/
def Core.portReqs (k : Core) (p : Port) : List Req := k.reqs.filter fun r => r.ofPort p

/-- Whether a port has nothing outstanding. -/
def Core.portIdle (k : Core) (p : Port) : Bool := (k.portReqs p).isEmpty

/-- Whether every write of a port is performed. -/
def Core.portWritten (k : Core) (p : Port) : Bool := (k.portReqs p).all fun r => r.op == .fetch || !r.unperformed

/-- R39, R279, R359, Table 16-1: the scope of a unit's requests: REGION for a region's units and the engine's tokens, else CORE. -/
def Port.scope : Port → BitVec 3
  | .unit _ _ _ _ => 0
  | .token _ _ => 0
  | _ => 1

/-- Whether a port is a slot's. -/
def Port.isSlot : Port → Bool
  | .slot _ _ _ => true
  | _ => false

/-- A request of a unit: relaxed, in the bulk class (R318); a slot's instruction fetch is in the latency class (log 32). -/
def Requester.req (u : Requester) (op : ReqOp) (t : Target) : Req :=
  ⟨0, 16, true, u.gang, u.dom, u.priv, op, t, 0, u.port.scope, !u.port.isSlot, 0, .sent, none, 0, match op with | .combine _ _ _ _ => true | _ => false,
    none, false, 0, some u.port⟩

/-- R317, R345, R430: a request of a unit sets out, when its core has a permit for its home. -/
def State.ask (s : State) (u : Requester) (op : ReqOp) (t : Target) : Option State :=
  let r := u.req op t
  let k := s.core u.core
  if k.permitted u.core r.dest then some ((s.setCore u.core (k.issueReq u.core r)).markPage u.gang t.home) else none

/-! ### Reading -/

/-- A byte that a unit reads: its key, a VA, the slot barrier that holds the read (R383). -/
structure Want where
  key : Nat
  va : Nat
  hold : Option Nat
deriving DecidableEq, Repr

/-- The bytes of one sector that one request reads. -/
structure Span where
  key : Nat
  va : Nat
  len : Nat
  hold : Option Nat
deriving DecidableEq, Repr

/-- A span that takes in one more byte of its sector. -/
def Span.join (x : Span) (w : Want) : Span :=
  if w.key < x.key then { x with key := w.key, va := w.va, len := x.len + (x.key - w.key) }
  else { x with len := max x.len (w.key + 1 - x.key) }

/-- Whether a byte goes into a span. -/
def Span.takes (x : Span) (w : Want) : Bool := x.key / 64 == w.key / 64 && x.hold == w.hold

/-- The spans of some bytes, sector by sector, in the order of their first bytes. -/
def spansOf (ws : List Want) : List Span :=
  ws.foldl (fun l w =>
    if l.any fun x => x.takes w then l.map fun x => if x.takes w then x.join w else x
    else l ++ [⟨w.key, w.va, 1, w.hold⟩]) []

/-- The target of a span. -/
def Span.target (x : Span) : Target := ⟨homeAt x.key, x.va, x.len, 0, x.len, x.hold⟩

/-- The request that reads a span, if the port has made it. -/
def Core.asked (k : Core) (p : Port) (x : Span) : Option Req :=
  (k.portReqs p).find? fun r => r.op == .fetch && r.tgt.home.pos == x.key && r.tgt.len == x.len && r.tgt.hold == x.hold

/-- What a reply brought. -/
def Req.reply? (r : Req) : Option Reply :=
  match r.phase with
  | .back p => some p
  | _ => none

/-- The error that a port's request came back with. -/
def Core.portError (k : Core) (p : Port) : Option Trap := (k.portReqs p).findSome? fun r => r.reply?.bind fun a => a.error

/-- The module's memory as the replies of a port's reads show it; a control line's bytes stand there at their positions (R145). -/
def State.seen (s : State) (u : Requester) : State :=
  ((s.core u.core).portReqs u.port).foldl (fun (s : State) r => match r.op, r.reply? with
    | .fetch, some a =>
      let key := r.tgt.home.pos
      if a.error.isSome then s
      else { s with
        mem := writeBytes s.mem key a.bytes
        poisoned := (s.poisoned.filter fun w => w < key / 8 || (key + r.tgt.len - 1) / 8 < w) ++ a.marred }
    | _, _ => s) s

/-- What a unit's reads have come to: an error, on the way, or all back, with the memory that they show. -/
inductive Fetched where
  | failed (t : Trap)
  | waiting (s : State)
  | ready (seen : State)
deriving DecidableEq, Repr

/-- The spans that a port has not asked for, asked for as far as permits go; `pay` takes what else a request of the unit needs. -/
def State.askAll (s : State) (u : Requester) (pay : State → Option State) : List Span → State
  | [] => s
  | x :: xs =>
    if ((s.core u.core).asked u.port x).isSome then s.askAll u pay xs
    else match (pay s).bind fun s => s.ask u .fetch x.target with
      | none => s.askAll u pay xs
      | some s => s.askAll u pay xs

/-- Whether a request is the read of one of some spans. -/
def Req.readsOne (r : Req) (xs : List Span) : Bool :=
  xs.any fun x => r.tgt.home.pos == x.key && r.tgt.len == x.len && r.tgt.hold == x.hold

/-- The reads of a port other than those of some spans are nobody's: a translation that has changed leads to other bytes (R336). -/
def Core.keepReads (k : Core) (p : Port) (xs : List Span) : Core :=
  let stale (r : Req) : Bool := r.ofPort p && r.op == .fetch && !r.readsOne xs
  { k with reqs := (k.reqs.filter fun r => !(stale r && r.reply?.isSome)).map fun r => if stale r then { r with live := false } else r }

/-- The bytes `ws` are read: what is missing is asked for; when all are back, the memory that they show. `more` are the spans that the port
reads ahead of need. -/
def State.fetch (s : State) (u : Requester) (ws : List Want) (pay : State → Option State := some) (more : List Span := []) : Fetched :=
  match (s.core u.core).portError u.port with
  | some t => .failed t
  | none =>
    let xs := spansOf ws
    let s := s.onCore u.core fun k => k.keepReads u.port (xs ++ more)
    if xs.all fun x => (((s.core u.core).asked u.port x).bind fun r => r.reply?).isSome then .ready (s.seen u)
    else .waiting (s.askAll u pay xs)

/-- The reads of some spans are done with. -/
def Core.takeSpans (k : Core) (p : Port) (xs : List Span) : Core :=
  let ids := xs.filterMap fun x => (k.asked p x).map fun r => r.id
  { k with reqs := k.reqs.filter fun r => !ids.contains r.id }

/-- The reads of a port are done with: replies are taken, and those still on their way are nobody's. -/
def Core.dropReads (k : Core) (p : Port) : Core :=
  { k with reqs := (k.reqs.filter fun r => !(r.ofPort p && r.op == .fetch && r.reply?.isSome)).map fun r =>
      if r.ofPort p && r.op == .fetch then { r with live := false } else r }

/-- Whether a request came back with an error. -/
def Req.failed (r : Req) : Bool := (r.reply?.bind fun a => a.error).isSome

/-- The requests of a port that came back with an error are gone, and its reads. -/
def Core.dropFailed (k : Core) (p : Port) : Core :=
  let k := k.dropReads p
  { k with reqs := k.reqs.filter fun r => !(r.ofPort p && r.failed) }

/-- The writes of a port that came back with an error, to be sent again. -/
def Core.failedPuts (k : Core) (p : Port) : List Put :=
  (k.portReqs p).filterMap fun r => if !r.failed then none else match r.op with
    | .put ps _ data => some ⟨r.tgt.va, .put ps false data⟩
    | .combine op view rnd es => some ⟨r.tgt.va, .combine op view rnd es⟩
    | _ => none

/-- The writes of a port that came back performed are gone. -/
def Core.takeWritten (k : Core) (p : Port) : Core :=
  { k with reqs := k.reqs.filter fun r => !(r.ofPort p && r.op != .fetch && (r.reply?.elim false fun a => a.error.isNone)) }

/-! ### Writing -/

/-- A write of one sector: the half bytes of parts, each with the VA that it is for. -/
def putOf (va : Nat) (parts : List Part) (data : Bool) : Put := ⟨va, .put parts false data⟩

/-- The target of a write: from its first byte to its last. -/
def Put.target (p : Put) : Target :=
  let ks := p.op.halves.map fun h => h / 2
  match ks with
  | [] => noTarget
  | k :: rest =>
    let lo := rest.foldl min k
    let hi := rest.foldl max k
    ⟨homeAt lo, p.va, hi + 1 - lo, 0, hi + 1 - lo, none⟩

/-- The VA of a half byte of a part that begins at a VA. -/
def partVa (va : Nat) (p : Part) (h : Nat) : Nat :=
  let first := (p.head?).elim 0 fun e => e.1 / 2
  if first / 2 ^ 16 = h / 2 ^ 17 then va + (h / 2 - first) else (va / 64 + 1) * 64

/-- Half bytes written one part after another, so that the last to name a half byte wins. -/
def mergeParts (ps : List Part) : Part :=
  ps.foldl (fun acc p => acc.filter (fun e => !p.any fun x => x.1 == e.1) ++ p) []

/-- Parts, each with a VA, split at sectors and gathered sector by sector; within one, what falls in `grain` half bytes is written at once. -/
def putsOf (grain : Nat) (ps : List (Nat × Part)) (data : Bool) : List Put :=
  let pieces := ps.flatMap fun p => ((p.2.map fun e => e.1 / 128).eraseDups).map fun sec =>
    let mine := p.2.filter fun e => e.1 / 128 == sec
    (sec, partVa p.1 p.2 ((mine.head?).elim 0 fun e => e.1), mine)
  ((pieces.map fun x => x.1).eraseDups).map fun sec =>
    let mine := pieces.filter fun x => x.1 == sec
    let all := mergeParts (mine.map fun x => x.2.2)
    putOf ((mine.head?).elim 0 fun x => x.2.1)
      (((all.map fun e => e.1 / grain).eraseDups).map fun w => all.filter fun e => e.1 / grain == w) data

/-- The writes that a unit has still to send, sent as far as permits go: those left. -/
def State.sendPuts (s : State) (u : Requester) (pay : State → Option State) : List Put → State × List Put
  | [] => (s, [])
  | p :: ps =>
    match (pay s).bind fun s => s.ask u p.op p.target with
    | none => (s, p :: ps)
    | some s => s.sendPuts u pay ps

end Sys2Proof.Machine
end

