-- ==== Sys2Proof/Machine/Walk.lean ====
section
/-! DEFINITION. Instruction fetch (R195) and completed table walks (R100). -/

namespace Sys2Proof.Machine

/-- The instruction fetch of slot `n` of core `c` as a requester. -/
def State.fetcher (s : State) (c n : Nat) : Requester :=
  let sl := (s.core c).slot n
  ⟨c, .slot c n sl.serial, sl.gang, (s.core c).domain.toNat, sl.priv⟩

/-- R195, R419: where the line that a slot misses lies, or the trap that its fetch takes. -/
def State.fetchSpan (s : State) (c n : Nat) : Except Trap Span := do
  let va := ((s.core c).slot n).pc.toNat / 64 * 64
  let p ← (s.translate (s.slotIssuer c n) .fetch false false none ((s.core c).slot n).pc.toNat)
  let key := p.key + va % 2 ^ 16
  if let some t := s.lostNode va key then throw t
  return ⟨key, va, 64, none⟩

/-- A slot's fetch takes a trap, at the word that it was for; one that waits for its walk waits. -/
def State.fetchTrap (s : State) (c n : Nat) (t : Trap) : State :=
  { ({ s with cur := ⟨c, n⟩ } : State).takeTrap t with cur := s.cur, stalled := false }

/-- R195: the reply of a line's read: the line enters the buffer, or the fetch traps. -/
def State.lineBack (s : State) (c n : Nat) (x : Span) (p : Reply) : State :=
  let t := s.onCore c fun k => k.dropReads (s.fetcher c n).port
  match p.error with
  | some e => t.fetchTrap c n { e with info1 := ((s.core c).slot n).pc }
  | none =>
    if p.marred.isEmpty then t.onCore c fun k => k.putLine ⟨(s.core c).domain.toNat, x.va / 64, p.bytes⟩
    else t.fetchTrap c n { cause := .ecc, info1 := ((s.core c).slot n).pc, info2 := BitVec.ofNat 64 (x.key % 2 ^ 48) }

/-- R195, R317, IFETCH_LINE: the next word of a slot misses: its line is asked for, as an access that travels to its home; when it is back it fills
the buffer, or the fetch traps at that word. -/
def execIfetchLine (o : SlotAt) (s : State) : Out :=
  let k := s.core o.core
  let sl := k.slot o.slot
  if sl.status ≠ .occupied ∨ (k.fetchWord sl.pc).isSome ∨ s.frozen sl.gang then .next s
  else match s.fetchSpan o.core o.slot with
    | .error t => .next (s.fetchTrap o.core o.slot t)
    | .ok x =>
      let u := s.fetcher o.core o.slot
      match k.asked u.port x with
      | some r => .next ((r.reply?).elim s fun p => s.lineBack o.core o.slot x p)
      | none => .next ((s.remember (s.slotIssuer o.core o.slot) x.va).ask u .fetch x.target |>.getD s)

/-- The core of a port that waits for a walk. -/
def Port.core : Port → Nat
  | .slot c _ _ => c
  | .unit c _ _ _ => c
  | .command c _ => c
  | .token c _ => c
  | .load c _ => c
  | .image c _ _ => c

/-- R99, R100: walk `w` ends: a valid entry enters the die's buffer and that of every core that waited; a fault waits for each port to take
it. -/
def State.endWalk (s : State) (w : TableWalk) : State :=
  let gone := { s with walks := s.walks.erase w }
  match s.walk w.ptbase (w.page * 2 ^ 16) with
  | .ok p => w.ports.foldl (fun (s : State) x => s.keepCore x.core w.page p) (gone.keepDie w.die w.dom w.page p)
  | .error t => if w.ports.isEmpty then gone else { gone with walks := gone.walks ++ [{ w with fault := some t }] }

/-- R100, TRANSLATION_WALK_DONE: the walk in flight for a page of a core's domain, at its die, ends. -/
def execTranslationWalkDone (o : WalkAt) (s : State) : Out :=
  match s.walks.find? fun w => w.inFlight (dieOf o.core) (s.core o.core).domain.toNat (o.va / 2 ^ 16) with
  | none => .next s
  | some w => .next (s.endWalk w)

end Sys2Proof.Machine
end

