-- ==== Sys2Proof/Machine/Sreg.lean ====
section
/-! DEFINITION. Special registers (R233 to R236 and the rules Table 9-4 names), TRAP and BKPT (R409), ERET (R407), CLASP (R410, R411),
TLBINV (R412, R413), SBAR (R340). -/

namespace Sys2Proof.Machine

/-! ### Reading -/

/-- Tokens now in a clasp's arc (Table 10-16). -/
def Core.claspHeld (k : Core) (c : Clasp) : Nat :=
  (k.regions.find? c.hdl.toNat).elim 0 fun r => (r.fab.arcs.get [] c.arc.toNat).length

/-- Clasp `n` of a core. -/
def Core.clasp (k : Core) (n : Nat) : Clasp := k.clasps.get Clasp.off n

/-- Table 10-16: CLASPn as a word. -/
def Core.claspWord (k : Core) (n : Nat) : Word :=
  let c := k.clasp n
  BitVec.ofNat 64 ((if c.en then 2 ^ 63 else 0) + (if c.hit then 2 ^ 62 else 0) + c.budget.toNat * 2 ^ 40
    + Nat.min (k.claspHeld c) 2 * 2 ^ 32 + c.hdl.toNat * 2 ^ 24 + c.arc.toNat)

/-- R283, R284: clasp `n`, if it withholds a token while hit is 0, sets hit and posts its message. -/
def Core.strikeClasp (k : Core) (n : Nat) : Core :=
  let c := k.clasp n
  if n < 8 && c.en && !c.hit && c.budget == 0 && k.claspHeld c != 0 then
    { k with clasps := k.clasps.set n { c with hit := true } }.postSource 5 (fun p => p.toNat % 8 == n)
      (sourceMsg (BitVec.ofNat 64 n) (c.arc.setWidth 64) (BitVec.ofNat 64 (k.claspHeld c)))
  else k

/-- R430: the gang whose region a clasp names marks it. -/
def Core.markClasp (k : Core) (hdl n : Nat) : Core :=
  match k.regions.find? hdl with
  | none => k
  | some r => k.onGang r.gang fun i => { i with marks := { i.marks with clasps := i.marks.clasps ||| (1 <<< n) } }

/-- CLASPn written: hit is W1C, held is RO; the low four bits of arc are reserved (R8, Table 10-6). -/
def Core.writeClasp (k : Core) (n : Nat) (w : Word) : Core :=
  let k := k.strikeClasp n
  let old := k.clasp n
  let c : Clasp := ⟨w.getLsbD 63, old.hit && !w.getLsbD 62, w.extractLsb' 40 16, w.extractLsb' 24 3, w.extractLsb' 0 24 &&& 0xFFFFF0⟩
  ({ k with clasps := k.clasps.set n c }).markClasp c.hdl.toNat n

/-- Tables 2-2 and 2-3: word 0 or 1 of a binding. -/
def Chan.word (c : Chan) (high : Bool) : Word :=
  if high then
    BitVec.ofNat 64 (c.src.toNat * 2 ^ 60 + c.fifo.length % 32 * 2 ^ 55 + c.param.toNat)
  else
    BitVec.ofNat 64 ((if c.valid then 2 ^ 63 else 0) + c.prio.toNat * 2 ^ 60 + (if c.priv then 2 ^ 59 else 0) + c.entry.toNat * 8)

/-- Table 7-2: RAILSEL as the running task reads it. -/
def State.railsel (s : State) : Word :=
  let k := s.curCore
  let lvl := (s.curSlot.gang.bind fun g => k.gangInfo? g).elim 0 fun i => i.level
  BitVec.ofNat 64 ((if k.sgate then 2 ^ 40 else 0) + lvl % 8 * 2 ^ 32 + k.mxr.toNat * 2 ^ 27 + k.cpr.toNat * 2 ^ 24
    + (s.cmaps.get cmapReset (dieOf s.cur.core)).toNat)

/-- Table 9-6: SPECST. -/
def Slot.specst (sl : Slot) : Word :=
  let pend := (List.range 8).foldl (fun acc n => if (sl.pcell (BitVec.ofNat 3 n)).pending then acc + 2 ^ n else acc) 0
  let sp := match sl.spec with
    | none => 0
    | some sp => sp.cond.toNat * 2 ^ 13 + sp.reg.toNat * 2 ^ 7 + sp.stores.length * 2 + 1
  BitVec.ofNat 64 (pend * 2 ^ 17 + sp)

/-- Whether the running task is a handler: of c62 or c63 (Table 9-6). -/
def Slot.isHandler (sl : Slot) : Bool := sl.chan.toNat ≥ 62

/-- The fault record that the running task handles (R403). -/
def State.curFrec (s : State) : Option Frec := s.curSlot.handler.bind fun ix => s.curCore.frecs.find? ix

/-- R233: the value of register `n`; `a` is the binding index, for CHBIND. None: the number is unlisted. -/
def State.sreg (s : State) (n : Nat) (a : Word) : Option Word :=
  let k := s.curCore
  let sl := s.curSlot
  let info := sl.gang.bind fun g => k.gangInfo? g
  let inRec (f : Frec → Word) : Word := s.curFrec.elim 0 f
  match n with
  | 0x000 => some (sl.serial.setWidth 64)
  | 0x001 => some (BitVec.ofNat 64 s.cur.slot)
  | 0x002 => some (sl.chan.setWidth 64)
  | 0x003 => some (BitVec.ofNat 64 s.cur.core)
  | 0x004 => some (BitVec.ofNat 64 (dieOf s.cur.core))
  | 0x005 => some (BitVec.ofNat 64 (sl.gang.elim 0 fun g => g.inst))
  | 0x006 => some (BitVec.ofNat 64 (info.elim 0 fun i => i.rank))
  | 0x007 => some (BitVec.ofNat 64 (info.elim 0 fun i => i.width))
  | 0x008 => some (BitVec.ofNat 64 (sl.gang.elim 0 fun g => g.launch))
  | 0x009 => some s.stitch
  | 0x00A => some s.tick
  | 0x00B => some ((k.cvstat sl.gang).setWidth 64)
  | 0x00C => some sl.fepend
  | 0x00D => some sl.specst
  | 0x100 => some (inRec fun r => BitVec.ofNat 64 r.cause.code)
  | 0x101 => some (inRec fun r => r.epc)
  | 0x102 => some (inRec fun r => r.info0)
  | 0x103 => some (inRec fun r => r.info1)
  | 0x104 => some (inRec fun r => r.info2)
  | 0x105 => some (inRec fun r => r.info3)
  | 0x106 => some (BitVec.ofNat 64 ((if sl.isHandler then 2 else 0) + if sl.priv then 1 else 0))
  | 0x107 => some ((k.chan (a.toNat % 64)).word (a.getLsbD 6))
  | 0x108 => some s.railsel
  | 0x109 => some k.permits
  | 0x10A => some (BitVec.ofNat 64 (k.budgetHeld.toNat * 2 ^ 32 + k.budget.toNat))
  | 0x10B => some (k.wdog.setWidth 64)
  | 0x10C => some (k.memto.setWidth 64)
  | 0x118 => some (k.domain.setWidth 64)
  | 0x119 => some k.ptbase
  | n => if 0x110 ≤ n ∧ n ≤ 0x117 then some (k.claspWord (n - 0x110)) else none

/-- Table 5-21, checked before the guard (R199 step 1): an unprivileged task and the privileged view, then an unlisted number. -/
def sregAllowed (n : Nat) (read : Bool) (w : Word) (s : State) (body : Out) : Out :=
  if 0x100 ≤ n && !s.curSlot.priv && !(read && n == 0x106) then trap { cause := .priv, info1 := w } s
  else if (s.sreg n 0).isNone then trap { cause := .illegal, info1 := w } s
  else body

/-- R202, R233, R235: the value read at issue is written when gD is full. -/
def captureReg (d : Reg) (v : Word) (s : State) : Out :=
  let sl := s.curSlot
  let v := match sl.prog with
    | .captured w => w
    | _ => v
  if (sl.cell d).empty then stall (s.setCurSlot { sl with prog := .captured v }) else retire (sl.write d v) s

/-- R233, MFS. -/
def execMfs (o : OpsMfs) (s : State) : Out :=
  sregAllowed o.n.toNat true (wordOfInstr (.mfs o)) s <| guarded o.g s <| withReg o.a o.fea s fun a =>
    captureReg o.d ((s.sreg o.n.toNat a).getD 0) s

/-! ### Writing -/

/-- MTS: its checks in order, and its value (R233, R231). -/
def mtsForm (n : Nat) (w : Word) (g : Guard) (a : Reg) (fea : Bool) (s : State) (body : Word → Out) : Out :=
  sregAllowed n false w s <| guarded g s <| withReg a fea s fun v => unspeculated s <| body v

/-- MTS of a register with no row of its own: WDOG, MEMTO (Table 20-7), PTBASE (R92); a write to an RO register is ignored. -/
def execMts (o : OpsMts) (s : State) : Out :=
  mtsForm o.n.toNat (wordOfInstr (.mts o)) o.g o.a o.fea s fun v =>
    let k := s.curCore
    match o.n.toNat with
    | 0x10B => retireCore { k with wdog := v.setWidth 32 } s
    | 0x10C => retireCore { k with memto := v.setWidth 32 } s
    | 0x119 => retireCore { k with ptbase := v &&& 0x0000FFFFFFFF0001 } s
    | _ => retire s.curSlot s

/-- R404: what a message that is discarded with its channel leaves behind: its continuation record is free, its fault record is
never dispatched (log 16). -/
def State.discardMsg (s : State) (c : Nat) (m : Msg) : State :=
  let s := match m.cont with
    | none => s
    | some ix => s.onCore c fun k => { k with conts := k.conts.erase ix }
  match m.frec with
  | none => s
  | some ix =>
    match (s.core c).frecs.find? ix with
    | none => s
    | some r =>
      let s := (s.onCore c fun k => { k with frecs := k.frecs.erase ix }).dealSubject c r
      { s with reports := s.reports ++ [Report.undispatched c r] }

/-- R46, R48: a binding word written to channel `n` of a core. A timer's period begins at a write of word 1 and runs while the channel
is valid (log 16). -/
def State.writeBinding (s : State) (c n : Nat) (high : Bool) (v : Word) : State :=
  let k := s.core c
  let ch := k.chan n
  if high then
    let src := v.extractLsb' 60 4
    let param := v.extractLsb' 0 48
    if src.toNat > 6 || (src == 4 && param.toNat % 2 ^ 32 == 0) then s
    else s.setCore c (k.setChan n { ch with src := if n ≥ 62 then ch.src else src, param := param,
                                            timerLeft := param.toNat % 2 ^ 32, elapsed := 0 })
  else
    let ch' := { ch with valid := v.getLsbD 63, prio := v.extractLsb' 60 3, priv := if n ≥ 62 then ch.priv else v.getLsbD 59,
                         entry := v.extractLsb' 3 49 }
    if v.getLsbD 63 then s.setCore c (k.setChan n ch')
    else (ch.fifo ++ ch.held).foldl (fun s m => s.discardMsg c m) (s.setCore c (k.setChan n { ch' with fifo := [], held := [] }))

/-- R47, MTS of CHBIND: gA names the word and gB is the value. -/
def execMtsChbind (o : OpsAB) (s : State) : Out :=
  mtsForm 0x107 (wordOfInstr (.mtsChbind o)) o.g o.a o.fea s fun a => withReg o.b o.feb s fun v =>
    retireState (s.writeBinding s.cur.core (a.toNat % 64) (a.getLsbD 6) v)

/-- R84, MTS of CVSTAT: W1C on the task's own word. -/
def execMtsCvstat (o : OpsA) (s : State) : Out :=
  mtsForm 0x00B (wordOfInstr (.mtsCvstat o)) o.g o.a o.fea s fun v =>
    retireCore (s.curCore.clearStatus s.curSlot.gang (v.setWidth 3)) s

/-- R172, R174, R177, MTS of RAILSEL. Clearing sgate powers the slice. -/
def execMtsRailsel (o : OpsA) (s : State) : Out :=
  mtsForm 0x108 (wordOfInstr (.mtsRailsel o)) o.g o.a o.fea s fun v =>
    let k := s.curCore
    let sgate := v.getLsbD 40
    let k := { k with sgate := sgate, mxr := v.extractLsb' 27 3, cpr := v.extractLsb' 24 3,
                      gated := if sgate then k.gated else k.gated.filter fun u => u != .slice }
    retireCore k { s with cmaps := s.cmaps.set (dieOf s.cur.core) (v.extractLsb' 0 24) }

/-- R348, R349, MTS of BUDGET: it is in force from the next stitch; any write clears held. -/
def execMtsBudget (o : OpsA) (s : State) : Out :=
  mtsForm 0x10A (wordOfInstr (.mtsBudget o)) o.g o.a o.fea s fun v =>
    retireCore { s.curCore.reload s.stitch with budget := v.setWidth 32, budgetHeld := 0 } s

/-- R351, R352, MTS of PERMITS: it is in force from the next stitch. -/
def execMtsPermits (o : OpsA) (s : State) : Out :=
  mtsForm 0x109 (wordOfInstr (.mtsPermits o)) o.g o.a o.fea s fun v => retireCore { s.curCore.refill s.stitch with permits := v } s

/-- R282, MTS of CLASPk. -/
def execMtsClasp (o : OpsMtsClasp) (s : State) : Out :=
  mtsForm (0x110 + o.k.toNat) (wordOfInstr (.mtsClasp o)) o.g o.a o.fea s fun v =>
    retireCore (s.curCore.writeClasp o.k.toNat v) s

/-- R408, MTS of EPC: a handler of a kind-0 subject may rewrite it. -/
def execMtsEpc (o : OpsA) (s : State) : Out :=
  mtsForm 0x101 (wordOfInstr (.mtsEpc o)) o.g o.a o.fea s fun v =>
    match s.curSlot.handler, s.curFrec with
    | some ix, some r =>
      match r.subject with
      | .slot _ =>
        if v.toNat % 8 ≠ 0 then trap { cause := .align, info1 := v } s
        else retireCore { s.curCore with frecs := s.curCore.frecs.set ix { r with epc := v, moved := true } } s
      | _ => retire s.curSlot s
    | _, _ => retire s.curSlot s

/-! ### Traps, ERET, CLASP, TLBINV, SBAR -/

/-- R409, TRAP. -/
def execTrap (o : OpsCode) (s : State) : Out := guarded o.g s <| trap { cause := .trap, info1 := sext o.imm } s

/-- R409, BKPT. -/
def execBkpt (o : OpsCode) (s : State) : Out := guarded o.g s <| trap { cause := .bkpt, info1 := sext o.imm } s

/-- R407: ERET in a mode. -/
def eret (w : Word) (how : Resolve) (s : State) : Out :=
  match s.curSlot.handler with
  | none => trap { cause := if s.curSlot.priv then .illegal else .priv, info1 := w } s
  | some ix => unspeculated s <| .next (s.setCurCore ((s.curCore.resolve ix how).endTask s.cur.slot))

/-- R407, ERET.RESUME. -/
def execEretResume (o : OpsG) (s : State) : Out := guarded o.g s <| eret (wordOfInstr (.eretResume o)) .resume s

/-- R407, ERET.SKIP. -/
def execEretSkip (o : OpsG) (s : State) : Out := guarded o.g s <| eret (wordOfInstr (.eretSkip o)) .skip s

/-- R411: whether a handle names a live region of the running task's gang on this core. -/
def State.ownRegion (s : State) (h : Nat) : Bool :=
  (s.curCore.regions.find? h).elim false fun r => some r.gang == s.curSlot.gang

/-- R410, CLASP. -/
def execClasp (o : OpsDAB) (s : State) : Out :=
  guarded o.g s <| withReg o.a o.fea s fun a => withReg o.b o.feb s fun b =>
    let n := a.toNat % 8
    let old := s.curCore.clasp n
    if !s.curSlot.priv && !((!old.en || s.ownRegion old.hdl.toNat) && s.ownRegion (rfld b 24 3)) then
      trap { cause := .priv, info1 := wordOfInstr (.clasp o) } s
    else withDest o.d s <|
      let k := s.curCore.strikeClasp n
      retireCore ((k.writeClasp n b).setSlot s.cur.slot (s.curSlot.write o.d (k.claspWord n))) s

/-- R412: a range of VA pages. -/
structure PageRange where
  first : Nat
  count : Nat
  whole : Bool
deriving DecidableEq, Repr

def PageRange.has (r : PageRange) (page : Nat) : Bool := r.whole || (decide (r.first ≤ page) && decide (page < r.first + r.count))

/-- R412, R171, R195: every translation of a domain in the range is gone, with the instruction lines and resident images of those
pages, and with what instruction fetches of them have on the way; an image of the domain that is being fetched is fetched afresh (log 29). -/
def State.invalidate (s : State) (dom : Nat) (r : PageRange) : State :=
  let hit (d page : Nat) : Bool := d == dom && r.has page
  let perCore (k : Core) : Core :=
    { k with
      tlb := k.tlb.filter fun e => !hit k.domain.toNat e.1
      ibuf := k.ibuf.filter fun l => !hit l.dom (l.line / 2 ^ 10)
      store := k.store.filter fun i => !(i.pages.any fun p => hit i.dom p)
      fetches := k.fetches.filter fun x => x.dom != dom
      reqs := (k.disownUnits (Port.ofImage dom)).reqs.map fun q =>
        if q.unit.any Port.isSlot && hit q.dom (q.tgt.va / 2 ^ 16) then { q with live := false } else q }
  { s with tlb := s.tlb.filter fun e => !hit e.dom e.page
           cores := s.cores.map fun e => (e.1, perCore e.2) }

/-- Whether a command holds a translation of the range, to its end (R329). -/
def XuCmd.holds (c : XuCmd) (r : PageRange) : Bool := c.pages.any (fun p => r.has p.page) || c.bar.any fun b => r.has (b.1 / 2 ^ 16)

/-- R412: whether any access of a domain in the range is still to be performed: one sent, or a write that a unit has put together under an old
translation; a command holds its translations to its end. -/
def State.invalidating (s : State) (dom : Nat) (r : PageRange) : Bool :=
  s.cores.any fun e =>
    e.2.reqs.any (fun q => (decide (q.slot < 16) || q.unit.isSome) && q.unperformed && q.dom == dom && q.tgt.size != 0
        && r.has (q.tgt.va / 2 ^ 16))
      || e.2.xus.any (fun c => c.2.dom == dom && c.2.holds r)
      || e.2.mxq.any (fun t => t.dom == dom && t.out.any fun p => r.has (p.va / 2 ^ 16))
      || e.2.regions.any fun g => g.2.dom == dom && g.2.fab.ags.any fun a => a.2.out.any fun p => r.has (p.va / 2 ^ 16)

/-- R412, TLBINV. -/
def execTlbinv (o : OpsAB) (s : State) : Out :=
  guarded o.g s <| withReg o.a o.fea s fun a => withReg o.b o.feb s fun b =>
    if !s.curSlot.priv then trap { cause := .priv, info1 := wordOfInstr (.tlbinv o) } s
    else unspeculated s <|
      if a.toNat ≥ Config.vaLimit then trap { cause := .xlate, detail := 2, info1 := a } s
      else
        let r : PageRange := ⟨a.toNat / 2 ^ 16, b.toNat, b == 0⟩
        let dom := s.curCore.domain.toNat
        match s.curSlot.prog with
        | .invalidated => if s.invalidating dom r then stall s else retire s.curSlot s
        | _ =>
          if s.curCore.drained s.cur.slot then
            let s := s.invalidate dom r
            stall (s.setCurSlot { s.curSlot with prog := .invalidated })
          else stall s

/-- R340, SBAR: every counter named in the mask is 0. -/
def execSbar (o : OpsA) (s : State) : Out :=
  guarded o.g s <| withReg o.a o.fea s fun a =>
    let named := (List.range 32).filter fun n => a.getLsbD n
    let k := named.foldl (fun k n => k.markCounter s.curSlot.gang n) s.curCore
    if named.all fun n => k.sb n == 0 then retireCore k s else stall (s.setCurCore k)

end Sys2Proof.Machine
end

