-- ==== Sys2Proof/Machine/Xfer.lean ====
section
/-! DEFINITION. The transfer unit (R325 to R338): commands as they issue, their operands element by element or scale group by scale
group, their sectors as they are read for, sent and counted, PUBLISH. Data is addressed in half bytes, so that DB4 and E2M1 elements are
addressable (R7). -/

namespace Sys2Proof.Machine

/-! ### Operands -/

/-- One operand of a command: its record's number, element size in half bytes, counts, base VA of the record or slot, the bytes that bound
it, the DB format of a view that is walked by scale groups (R328). -/
structure Operand where
  ix : Nat
  record : BitVec 256
  e : Nat
  n0 : Nat
  n1 : Nat
  n2 : Nat
  base : Nat
  limit : Nat
  db : Option Nat
deriving DecidableEq, Repr

/-- How many elements (R326). -/
def Operand.count (p : Operand) : Nat := (p.n0 + 1) * (p.n1 + 1) * (p.n2 + 1)

/-- The operand's view. -/
def Operand.view (p : Operand) : Nat := recView p.record

/-- R103, R326: the offset in half bytes of element `i` in shape order. -/
def Operand.off (p : Operand) (i : Nat) : Int :=
  let i0 := i % (p.n0 + 1)
  let i1 := i / (p.n0 + 1) % (p.n1 + 1)
  let i2 := i / (p.n0 + 1) / (p.n1 + 1)
  if recKind p.record = 2 then (p.e * (i0 + (p.n0 + 1) * (i1 + (p.n1 + 1) * i2)) : Nat)
  else i0 * p.e + 2 * (i1 * recStride1 p.record + i2 * recStride2 p.record)

/-- The bytes of `cnt` elements of a DB format: whole groups, whole blocks when planed. -/
def groupSpan (fmt : Nat) (planed whole : Bool) (cnt : Nat) : Nat :=
  let m := dbM fmt + 2
  if whole then dbGroup fmt else if planed then (cnt + 31) / 32 * (4 * m) else (cnt * m + 7) / 8

/-- Group `g` of run `r` of a view of DB format `f`: its elements' bytes, or the whole group's. -/
def Operand.groupChunk (p : Operand) (f r g : Nat) (whole : Bool) : Chunk :=
  let run := p.n0 + 1
  let cnt := Nat.min 256 (run - 256 * g)
  ⟨p.off (r * run) + 2 * (g * dbGroup f : Nat), 2 * groupSpan f (recPlaned p.record) whole cnt, r * run + 256 * g, cnt⟩

/-- The chunks of an operand in order; `whole` asks for whole groups, as a destination writes them. -/
def Operand.chunks (p : Operand) (whole : Bool) : List Chunk :=
  match p.db with
  | none => (List.range p.count).map fun i => ⟨p.off i, p.e, i, 1⟩
  | some f => (List.range ((p.n1 + 1) * (p.n2 + 1))).flatMap fun r => (List.range ((p.n0 + 256) / 256)).map fun g => p.groupChunk f r g whole

/-- The chunk that holds element `i`. -/
def Operand.chunkOf (p : Operand) (i : Nat) : Chunk :=
  match p.db with
  | none => ⟨p.off i, p.e, i, 1⟩
  | some f => p.groupChunk f (i / (p.n0 + 1)) (i % (p.n0 + 1) / 256) false

/-- R332: element `i` of an operand placed by an index, at `v` elements from the record's start. -/
def Operand.indexed (p : Operand) (i v : Nat) : Chunk := ⟨(v * p.e : Nat), p.e, i, 1⟩

/-- R103: the half VAs of a chunk's half bytes; `none` for one that bounds drop. -/
def Operand.spots (p : Operand) (c : Chunk) (write : Bool) : Except Trap (List (Option Int)) :=
  let lim : Int := 2 * p.limit
  let at_ (o : Int) : List (Option Int) := (List.range c.len).map fun (h : Nat) => some (2 * p.base + o + h)
  if 0 ≤ c.off ∧ c.off + c.len ≤ lim then .ok (at_ c.off)
  else if recBounds p.record = 0 then .error (boundsTrap (c.off / 2) p.ix)
  else if recBounds p.record = 1 then
    .ok ((List.range c.len).map fun (h : Nat) => if 0 ≤ c.off + h ∧ c.off + h < lim then some (2 * p.base + c.off + h) else none)
  else if write then .ok (List.replicate c.len none)
  else if lim < c.len then .error (boundsTrap (c.off / 2) p.ix)
  else if c.off < 0 then .ok (at_ 0)
  else .ok (at_ ((lim - c.len) / c.len * c.len))

/-- The spots of every chunk, or the first trap. -/
def Operand.allSpots (p : Operand) (write : Bool) : List Chunk → Except Trap (List (List (Option Int)))
  | [] => .ok []
  | c :: cs => do
    let x ← p.spots c write
    let xs ← p.allSpots write cs
    return x :: xs

/-- R105, R326, R380, R381: an operand of a record: counts from the record, a slot or an override, at ring-relative slot `j`. `shaped` says
that its shape is used: then a view of half bytes has whole bytes in a run (R103). -/
def operandOf (ix : Nat) (r : BitVec 256) (ovr : Option Word) (j : Int) (write shaped : Bool) : Except Trap Operand :=
  let view := recView r
  let e := viewHalf view
  let db := if fmtDb view then some view else none
  let n := match ovr with
    | some w => (rfld w 0 16, rfld w 16 16, rfld w 32 16)
    | none => if recKind r = 2 then (ringS r * 2 / e - 1, 0, 0) else (recN0 r, recN1 r, recN2 r)
  if recBad r || (shaped && e == 1 && n.1 % 2 == 0) then .error (formatTrap (recBase r) 0 view)
  else if recKind r = 2 then
    (ringSpot r ix j 0 (!write) write).map fun sp => ⟨ix, r, e, n.1, n.2.1, n.2.2, recBase r + sp.base, ringS r, db⟩
  else .ok ⟨ix, r, e, n.1, n.2.1, n.2.2, recBase r, recExtent r, db⟩

/-! ### Commands and their operands -/

/-- The override word of a command (R326): none with b = g0, and none for FILL, whose gB is the pattern (R335). -/
def XuCmd.over (c : XuCmd) : Option Word := if c.hasCnt && c.op != .fill then some c.gb else none

/-- R326, R381: the ring-relative slots of source and destination. -/
def XuCmd.slotS (c : XuCmd) : Int := if c.hasCnt then (c.gb.extractLsb' 56 8).toInt else 0
def XuCmd.slotD (c : XuCmd) : Int := if c.hasCnt then (c.gb.extractLsb' 48 8).toInt else 0

/-- Whether indices place the command's elements (R332). -/
def XuCmd.indexed (c : XuCmd) : Bool := c.op == .cpyg || c.op == .cpys

/-- The destination, source and index operands, with the counts that an override reaches (Table 14-4). -/
def XuCmd.dstOp (c : XuCmd) : Except Trap Operand :=
  operandOf c.dstIx.toNat c.dst (if c.op = .cpys then none else c.over) c.slotD true (c.op != .cpys)
def XuCmd.rawSrc (c : XuCmd) : Except Trap Operand :=
  operandOf c.srcIx.toNat c.src (if c.op = .cpyg then none else c.over) c.slotS false (c.op != .cpyg)
def XuCmd.idxOp (c : XuCmd) : Except Trap Operand := operandOf c.idxIx.toNat c.idx c.over 0 false true

/-- R334: CPYM's source has n2 = 0 whatever the override. -/
def XuCmd.srcOp (c : XuCmd) : Except Trap Operand := c.rawSrc.map fun p => if c.op = .cpym then { p with n2 := 0 } else p

/-- Whether the command reads a source. -/
def XuCmd.reads (c : XuCmd) : Bool := c.op != .fill && c.op != .publish

/-- R383: the slot barriers that hold a command's reads of a side's record. -/
def holdOf (r : BitVec 256) (j : Int) : Option Nat :=
  if recKind r = 2 then
    match ringSpot r 0 j 0 true false with
    | .ok sp => sp.hold
    | .error _ => none
  else none

/-- R384: the VA of the barrier word that a command decrements. -/
def XuCmd.barVa (c : XuCmd) : Option Nat :=
  if c.hasBar then some c.barrier.toNat
  else if recKind c.dst = 2 then
    match ringSpot c.dst 0 c.slotD 0 true true with
    | .ok sp => sp.hold
    | .error _ => none
  else none

/-! ### Pages of a command -/

/-- The pages of a command on one side; `wr` is the destination's. -/
def XuCmd.page? (c : XuCmd) (wr : Bool) (page : Nat) : Option XuPage := c.pages.find? fun p => p.dst == wr && p.page == page

/-- The page of a half VA of a side. -/
def XuCmd.pageAt (c : XuCmd) (wr : Bool) (h : Int) : Option XuPage := if h < 0 then none else c.page? wr (h.toNat / 2 ^ 17)

/-- R145: the position of the byte at an offset of a page: a control line's bytes are at the line. -/
def XuPage.at_ (p : XuPage) (o : Nat) : Nat :=
  match p.lines.find? fun e => e.1 == o / 64 with
  | some e => (Home.ctl e.2 (o % 64)).pos
  | none => p.key + o

/-- Whether the byte at a position is of a page. -/
def XuPage.covers (p : XuPage) (b : Nat) : Bool := (p.key ≤ b && b < p.key + 2 ^ 16) || p.lines.any fun e => (Home.ctl e.2 0).pos / 64 == b / 64

/-- The half key of a half VA of a side. -/
def XuCmd.halfKey (c : XuCmd) (wr : Bool) (h : Int) : Option Nat :=
  (c.pageAt wr h).map fun p => 2 * p.at_ (h.toNat % 2 ^ 17 / 2) + h.toNat % 2

/-- The page of the first half byte of some spots. -/
def XuCmd.spotPage (c : XuCmd) (wr : Bool) (spots : List (Option Int)) : Option XuPage := (spots.findSome? id).bind (c.pageAt wr)

/-- R327: whether a page's format differs from a view's, so that elements are decoded from it or encoded into it. -/
def XuPage.converts (p : XuPage) (view : Nat) : Bool := view != 0 && view != p.fmt

/-- R98: the key of the metadata of a half VA's scale group. -/
def XuPage.metaKey (p : XuPage) (h : Int) : Nat := p.key / 2 ^ 48 * 2 ^ 48 + p.scale + 16 * (h.toNat / 2 % 2 ^ 16 / dbGroup p.fmt)

/-- The scale group of a DB page that a half VA lies in, and the index there of the element that begins at it. -/
def XuPage.group (p : XuPage) (h : Int) : Nat × Nat :=
  (h.toNat / (2 * dbGroup p.fmt), h.toNat % (2 * dbGroup p.fmt) * 4 / (dbM p.fmt + 2))

/-- R104, R327, R328: a translated page against an operand's view. -/
def pageOk (r : BitVec 256) (wr fill : Bool) (p : XuPage) : Bool :=
  let v := recView r
  (if fill then v == 0 || v == p.fmt else viewReaches p.fmt v wr) && (!fmtDb v || recPlaned r == p.planed)

/-! ### Conversion (R327) -/

/-- One code converted between two formats; other hops than floating ones move the code. -/
def hop (c : XuCmd) (a b : Nat) (v : Nat × BitVec 3) : Nat × BitVec 3 :=
  match fmtOfCode a, fmtOfCode b with
  | some f, some g =>
    if a = b then v
    else let r := convElem f g c.rnd c.sat v.1
         (r.1, v.2 ||| r.2)
  | _, _ => v

/-- The exact value of a code of an element format. -/
def decOf (fmt code : Nat) : Exact := ((fmtOfCode fmt).getD .fp32).dec code

/-- R82: a code of a scale group in an element format. -/
def undb (c : XuCmd) (f : Nat) (w : BitVec 128) (i code g : Nat) : Nat × BitVec 3 :=
  dbTo (dbM f) w ((fmtOfCode g).getD .fp32) c.rnd c.sat i code

/-- A source element on its way: its code, and the status it records. -/
structure Elem where
  code : Nat
  status : BitVec 3
deriving DecidableEq, Repr

/-- A source scale group in its view: codes, metadata, status. -/
structure ElemGroup where
  codes : List Nat
  scale : BitVec 128
  status : BitVec 3
deriving DecidableEq, Repr

/-! ### Reading -/

/-- The source chunk of element `i` of the destination's order (R326, R332, R334). -/
def XuCmd.srcChunk (c : XuCmd) (p : Operand) (i : Nat) : Chunk :=
  if c.op = .cpyg then p.indexed i ((c.index.getD []).getD i 0)
  else p.chunkOf (if c.op = .cpym then i % p.count else i)

/-- What a read of a spot sees in memory `s`: a dropped one reads 0; `old` prefers the byte as it stood before the command (R331). -/
def State.readSpot (s : State) (c : XuCmd) (old : Bool) : Option Int → Nat
  | none => 0
  | some h => match c.halfKey false h with
    | none => 0
    | some k =>
      match if old then List.find? (fun (e : Host.Cell) => e.1 == k / 2) c.undo else none with
      | some e => e.2.toNat / (if k % 2 = 0 then 1 else 16) % 16
      | none => s.half k

/-- R331: whether an element read as it now stands is one that the command itself wrote whole, and the choice is open. -/
def XuCmd.seesOwn (c : XuCmd) (e n : Nat) (dst : Option Nat) (spots : List (Option Int)) : Bool :=
  let keys := spots.filterMap fun x => x.bind fun h => c.halfKey false h
  c.conv == 0 && keys.length == e && keys.all (fun k => c.undo.any fun (u : Host.Cell) => u.1 == k / 2)
    && (match keys.head?, dst with
        | some k, some d => k % e == d % e
        | _, _ => false)
    && (Config.freeByte c.mark n).getLsbD 0

/-- The bytes that a chunk of a source needs (R79, R98): its own; under a DB page's metadata its group's; of a planed page that a view
converts, the whole block. -/
def XuCmd.wants (c : XuCmd) (r : BitVec 256) (spots : List (Option Int)) (hold : Option Nat) : List Want :=
  let own := spots.filterMap fun x => x.bind fun h => (c.halfKey false h).map fun k => ⟨k / 2, h.toNat / 2, hold⟩
  match c.spotPage false spots, spots.findSome? id with
  | some p, some h =>
    if recView r = 0 || !fmtDb p.fmt then own
    else
      let block := if p.converts (recView r) && p.planed then
          let n := 4 * (dbM p.fmt + 2)
          let va := h.toNat / 2 / n * n
          (List.range n).map fun i => (⟨p.at_ (va % 2 ^ 16 + i), va + i, hold⟩ : Want)
        else []
      own ++ block ++ (List.range 16).map fun i => (⟨p.metaKey h + i, h.toNat / 2, hold⟩ : Want)
  | _, _ => own

/-- R203, R417: the ECC fault of reading a poisoned byte. -/
def State.wantPoison (s : State) (ws : List Want) : Option Trap :=
  ws.findSome? fun w => if s.poisonedAt w.key 1 then
      some { cause := .ecc, info1 := BitVec.ofNat 64 w.va, info2 := BitVec.ofNat 64 (w.key % 2 ^ 48) }
    else none

/-- The spots of a source chunk, none of whose bytes is poisoned. -/
def State.goodSpots (s : State) (c : XuCmd) (p : Operand) (u : Chunk) : Except Trap (List (Option Int)) := do
  let sp ← p.spots u false
  match s.wantPoison (c.wants p.record sp none) with
  | some t => throw t
  | none => return sp

/-- The metadata that a page gives a spot; reserved bytes that are not 0 fault (R78). -/
def State.metaAt (s : State) (p : Operand) (g : XuPage) (h : Int) : Except Trap (BitVec 128) :=
  let w : BitVec 128 := BitVec.ofNat 128 (s.load (g.metaKey h) 16)
  if metaBad w then .error (formatTrap (h.toNat / 2) g.fmt p.view) else .ok w

/-- The DB code of the element of a DB page that begins at a half VA, and its index in its scale group (R79). -/
def State.dbCodeAt (s : State) (c : XuCmd) (g : XuPage) (h : Int) (v : Nat) : Nat × Nat :=
  let i := (g.group h).2
  let n := 4 * (dbM g.fmt + 2)
  if g.planed then
    let va := h.toNat / 2 / n * n
    ((blockCodes (dbM g.fmt) true ((List.range n).map fun (j : Nat) => BitVec.ofNat 8 (s.readSpot c false (some (2 * (va + j)))
      + 16 * s.readSpot c false (some (2 * (va + j) + 1))))).getD (i % 32) 0, i)
  else (v % 2 ^ (dbM g.fmt + 2), i)

/-- R103, R104, R327 step 1: an element of a source, in its view; `dk` is the half key that it goes to. -/
def State.sourceElem (s : State) (c : XuCmd) (p : Operand) (dk : Option Nat) (u : Chunk) : Except Trap Elem := do
  let sp ← s.goodSpots c p u
  let v := ofHalves (sp.map (s.readSpot c (!c.seesOwn sp.length u.first dk sp)))
  match c.spotPage false sp, sp.findSome? id with
  | some g, some h =>
    if !g.converts p.view then return ⟨v, 0⟩
    else if fmtDb g.fmt then
      let w ← s.metaAt p g h
      let x := s.dbCodeAt c g h v
      let r := undb c g.fmt w x.2 x.1 p.view
      return ⟨r.1, r.2⟩
    else
      let r := hop c g.fmt p.view (v % 16 ^ viewHalf g.fmt, 0)
      return ⟨r.1, r.2⟩
  | _, _ => return ⟨v, 0⟩

/-- R80, R81, R327 step 1, R328: a scale group of a source, in its view of DB format `f`: as the page holds it, or converted from the
page's elements. -/
def State.sourceGroup (s : State) (c : XuCmd) (p : Operand) (f : Nat) (u : Chunk) : Except Trap ElemGroup := do
  let sp ← s.goodSpots c p u
  let v := ofHalves (sp.map (s.readSpot c true))
  match c.spotPage false sp, sp.findSome? id with
  | some g, some h =>
    if g.fmt = f then
      let m := dbM f
      let w ← s.metaAt p g h
      let codes := (List.range 8).flatMap fun b => blockCodes m (recPlaned p.record) (leBytes (4 * (m + 2)) (v / 2 ^ (32 * (m + 2) * b)))
      return ⟨codes.take u.cnt, w, 0⟩
    else
      let xs := (List.range u.cnt).map fun j => decOf g.fmt (v / 16 ^ (p.e * j) % 16 ^ p.e)
      let r := toDb (dbM f) c.rnd xs
      return ⟨r.codes.take u.cnt, r.scale, r.status⟩
  | _, _ => return ⟨List.replicate u.cnt 0, 0, 0⟩

/-- R327 step 2: element `i` of the destination's order, converted to the destination's element view. -/
def State.viewElem (s : State) (c : XuCmd) (src : Operand) (view : Nat) (dk : Option Nat) (i : Nat) : Except Trap Elem := do
  let u := c.srcChunk src i
  match src.db with
  | some f =>
    let g ← s.sourceGroup c src f u
    let j := (if c.op = .cpym then i % src.count else i) - u.first
    let r := undb c f g.scale j (g.codes.getD j 0) view
    return ⟨r.1, r.2 ||| g.status⟩
  | none =>
    let x ← s.sourceElem c src dk u
    let r := hop c src.view view (x.code, x.status)
    return ⟨r.1, r.2⟩

/-- The elements `is`. -/
def State.viewElems (s : State) (c : XuCmd) (src : Operand) (view : Nat) : List Nat → Except Trap (List Elem)
  | [] => .ok []
  | i :: is => do
    let x ← s.viewElem c src view none i
    let xs ← s.viewElems c src view is
    return x :: xs

/-- The status of some elements together. -/
def statusOf (xs : List Elem) : BitVec 3 := xs.foldl (fun st x => st ||| x.status) 0

/-- R327 step 2: a destination scale group in the destination's DB view `f`: moved from a group of the same format, or converted from
elements (R80). -/
def State.viewGroup (s : State) (c : XuCmd) (src : Operand) (f : Nat) (u : Chunk) : Except Trap ElemGroup :=
  if src.db = some f then s.sourceGroup c src f (c.srcChunk src u.first)
  else do
    let xs ← s.viewElems c src src.view ((List.range u.cnt).map fun j => u.first + j)
    let g := toDb (dbM f) c.rnd (xs.map fun x => decOf src.view x.code)
    return ⟨g.codes.take u.cnt, g.scale, g.status ||| statusOf xs⟩

/-- Table 14-5: whether an operator suits a destination view. -/
def combineOk (op : BitVec 4) (view : Nat) : Bool :=
  let int := view == 0x03 || view == 0x07 || view == 0x04
  let sint := view == 0x03 || view == 0x04
  let flt := view == 0x08 || view == 0x09
  match op.toNat with
  | 0 => int | 1 => flt | 2 => sint | 3 => sint | 4 => flt | 5 => flt | 6 => int | 7 => int | _ => false

/-! ### Pieces of the destination -/

/-- R332: the destination's chunk of element `i`. -/
def XuCmd.dstChunk (c : XuCmd) (p : Operand) (i : Nat) : Chunk :=
  if c.op = .cpys then p.indexed i ((c.index.getD []).getD i 0) else p.chunkOf i

/-- The DB page that an element falls on under a view that converts into it, and its place in its scale group. -/
def XuCmd.gathered (c : XuCmd) (p : Operand) (i : Nat) : Option (Nat × Nat) :=
  match p.spots (c.dstChunk p i) true with
  | .error _ => none
  | .ok sp => match c.spotPage true sp, sp.findSome? id with
    | some g, some h => if fmtDb g.fmt && g.converts p.view then some (g.group h) else none
    | _, _ => none

/-- Element `i`, at place `j` of scale group `g`, added to the group's piece, if there is one; the latest piece stands first. -/
def addGathered (g i j : Nat) : List Piece → Option (List Piece)
  | [] => none
  | .gather h is :: ps =>
    if h = g then some (.gather h (is ++ [(i, j)]) :: ps) else (addGathered g i j ps).map fun t => .gather h is :: t
  | p :: ps => (addGathered g i j ps).map fun t => p :: t

/-- The pieces of a command's destination, in order. FILL's chunks are the bytes that the shape covers (R335). -/
def XuCmd.pieces (c : XuCmd) (dst : Operand) (n : Nat) : List Piece :=
  match dst.db with
  | some _ => (dst.chunks (c.op != .fill)).map .chunk
  | none => List.reverse <| (List.range n).foldl (fun ps i => match if c.op = .fill then none else c.gathered dst i with
    | none => .elem i :: ps
    | some g => (addGathered g.1 i g.2 ps).getD (.gather g.1 [(i, g.2)] :: ps)) []

/-- R103, R328: the half VAs that a piece writes. A group's padded bytes are subject to the record's bounds. -/
def XuCmd.pieceSpots (c : XuCmd) (dst : Operand) : Piece → Except Trap (List (Option Int))
  | .elem i => dst.spots (c.dstChunk dst i) true
  | .chunk u => do
    let sp ← dst.spots u true
    match c.spotPage true sp with
    | some g => if c.op != .fill && g.converts dst.view then return sp.take (u.cnt * dst.e) else return sp
    | none => return sp
  | .gather g _ =>
    let n := match c.pages.find? fun p => p.dst && fmtDb p.fmt && p.page == g * dbGroup p.fmt / 2 ^ 16 with
      | some p => 2 * dbGroup p.fmt
      | none => 0
    .ok ((List.range n).map fun j =>
      let h : Int := (g * n + j : Nat)
      if (2 * dst.base : Nat) ≤ h ∧ h < (2 * (dst.base + dst.limit) : Nat) then some h else none)

/-- The spots of some pieces, or the first trap. -/
def XuCmd.allPieceSpots (c : XuCmd) (dst : Operand) : List Piece → Except Trap (List (Piece × List (Option Int)))
  | [] => .ok []
  | p :: ps => do
    let x ← c.pieceSpots dst p
    let xs ← c.allPieceSpots dst ps
    return (p, x) :: xs

/-- A piece added to the work of a sector, the latest sector first. -/
def addWork (sec : Nat) (p : Piece) : List (Nat × List Piece) → Option (List (Nat × List Piece))
  | [] => none
  | x :: xs => if x.1 = sec then some ((x.1, p :: x.2) :: xs) else (addWork sec p xs).map fun t => x :: t

/-- R330, R337: the destination's 64-byte physical sectors in the order in which the command reaches them, each with its pieces. A combined
element is written whole in the sector of its first half byte (R333). -/
def XuCmd.layout (c : XuCmd) (ps : List (Piece × List (Option Int))) : List (Nat × List Piece) :=
  let l := ps.foldl (fun l e =>
    let keys := (e.2.filterMap fun x => x.bind fun h => (c.halfKey true h).map fun k => k / 128).eraseDups
    let keys := match c.op with | .cpyr _ => keys.take 1 | _ => keys
    keys.foldl (fun l sec => (addWork sec e.1 l).getD ((sec, [e.1]) :: l)) l) []
  l.reverse.map fun x => (x.1, x.2.reverse)

/-- The destination's pieces with their spots. -/
def XuCmd.laidOut (c : XuCmd) : Except Trap (List (Piece × List (Option Int))) := do
  let dst ← c.dstOp
  if c.op = .cpys then
    let src ← c.srcOp
    c.allPieceSpots dst (c.pieces dst src.count)
  else c.allPieceSpots dst (c.pieces dst dst.count)

/-! ### What a piece writes -/

/-- What a piece writes: half VAs with half bytes, a group's metadata, the status it records. -/
structure Writes where
  data : List (Int × Nat)
  scale : Option (Nat × BitVec 128)
  status : BitVec 3
deriving DecidableEq, Repr

/-- The half bytes of a number at a chunk's spots. -/
def spread (spots : List (Option Int)) (v : Nat) : List (Int × Nat) :=
  (List.zip spots (toHalves spots.length v)).filterMap fun e => e.1.map fun h => (h, e.2)

/-- R335: the pattern at a chunk: byte (o mod 8) of gB at destination byte o. -/
def fillHalves (gb : Word) (u : Chunk) (spots : List (Option Int)) : List (Int × Nat) :=
  (List.zip spots (List.range spots.length)).filterMap fun e => e.1.map fun h =>
    (h, gb.toNat / 16 ^ ((u.off + e.2) % 16).toNat % 16)

/-- A scale group's bytes, as a number: codes padded with +0 (R328). -/
def groupNumber (f : Nat) (planed : Bool) (codes : List Nat) : Nat :=
  leNat ((List.range 8).flatMap fun b => blockBytes (dbM f) planed (blockOf ((codes ++ List.replicate 256 0).take 256) b))

/-- R327 step 3, R328: a destination scale group of view `f` as it is written: whole into a page of that format, element by element into
another. -/
def State.chunkWrites (s : State) (c : XuCmd) (src dst : Operand) (f : Nat) (u : Chunk) (spots : List (Option Int)) : Except Trap Writes := do
  let g ← s.viewGroup c src f u
  match c.spotPage true spots with
  | some p =>
    if p.converts f then
      let xs := (g.codes.zipIdx).map fun e => undb c f g.scale e.2 e.1 p.fmt
      return ⟨spread spots (ofHalves (xs.flatMap fun x => toHalves dst.e x.1)), none, xs.foldl (fun st x => st ||| x.2) g.status⟩
    else
      return ⟨spread spots (groupNumber f (recPlaned dst.record) g.codes), (spots.findSome? id).map fun h => (p.metaKey h, g.scale), g.status⟩
  | none => return ⟨[], none, g.status⟩

/-- R80, R104, R327 step 3: the elements that fall in one scale group of a DB page, converted together. -/
def State.gatherWrites (s : State) (c : XuCmd) (src dst : Operand) (is : List (Nat × Nat)) (spots : List (Option Int)) : Except Trap Writes := do
  let xs ← s.viewElems c src dst.view (is.map fun e => e.1)
  match c.spotPage true spots with
  | some p =>
    let placed : Tab Nat := (List.zip is xs).foldl (fun (t : Tab Nat) e => t.set e.1.2 e.2.code) []
    let g := toDb (dbM p.fmt) c.rnd ((List.range 256).map fun j => match placed.find? j with
      | some v => decOf dst.view v
      | none => .fin false 0 0)
    return ⟨spread spots (groupNumber p.fmt p.planed g.codes), (spots.findSome? id).map fun h => (p.metaKey h, g.scale), g.status ||| statusOf xs⟩
  | none => return ⟨[], none, statusOf xs⟩

/-- R327 step 3: an element as it is written. A combined element keeps its view, which is its page's format (R333). -/
def State.elemWrites (s : State) (c : XuCmd) (src dst : Operand) (i : Nat) (spots : List (Option Int)) : Except Trap Writes := do
  let x ← s.viewElem c src dst.view ((spots.head?.bind id).bind fun h => c.halfKey true h) i
  match c.spotPage true spots with
  | some p =>
    let r := if p.converts dst.view then hop c dst.view p.fmt (x.code, x.status) else (x.code, x.status)
    return ⟨spread spots r.1, none, r.2⟩
  | none => return ⟨[], none, x.status⟩

/-- R326 to R335: what a piece writes. -/
def State.pieceWrites (s : State) (c : XuCmd) (dst : Operand) (p : Piece) : Except Trap Writes := do
  let spots ← c.pieceSpots dst p
  if c.op = .fill then
    let u := match p with
      | .elem i => dst.chunkOf i
      | .chunk u => u
      | .gather _ _ => dst.chunkOf 0
    return ⟨fillHalves (if c.hasCnt then c.gb else 0) u spots, none, 0⟩
  else
    let src ← c.srcOp
    match p, dst.db with
    | .elem i, _ => s.elemWrites c src dst i spots
    | .chunk u, some f => s.chunkWrites c src dst f u spots
    | .chunk _, none => return ⟨[], none, 0⟩
    | .gather _ is, _ => s.gatherWrites c src dst is spots

/-- The source elements of a piece. -/
def Piece.elems : Piece → List Nat
  | .elem i => [i]
  | .chunk u => (List.range u.cnt).map fun j => u.first + j
  | .gather _ is => is.map fun e => e.1

/-- The bytes that a piece needs read. -/
def XuCmd.pieceWants (c : XuCmd) (p : Piece) : Except Trap (List Want) :=
  if c.op = .fill then .ok []
  else do
    let src ← c.srcOp
    let us := (p.elems.map (c.srcChunk src)).eraseDups
    let sp ← src.allSpots false us
    return sp.flatMap fun x => c.wants c.src x (holdOf c.src c.slotS)

/-- The bytes that some pieces need read. -/
def XuCmd.allWants (c : XuCmd) : List Piece → Except Trap (List Want)
  | [] => .ok []
  | p :: ps => do
    let x ← c.pieceWants p
    let xs ← c.allWants ps
    return x ++ xs

/-! ### The unit of a command -/

/-- R329: the place of a write among the command's sectors: of its sector, or of the one whose scale group it gives metadata. -/
def XuCmd.sectorOf (c : XuCmd) (p : Put) : Option Nat :=
  let data := match p.op with | .put _ _ data => data | _ => true
  match if data then (p.op.halves.head?).map fun h => h / 128 else (c.halfKey true (2 * p.va : Nat)).map fun k => k / 128, c.laidOut with
  | some sec, .ok ps => ((c.layout ps).map fun x => x.1).idxOf? sec
  | _, _ => none

/-- R329: the command with the sectors of some writes to be put together again: they are unwritten. -/
def XuCmd.unwrite (c : XuCmd) (ps : List Put) : XuCmd :=
  { c with out := [], again := (List.range c.progress).filter fun n => c.again.contains n || (ps.map c.sectorOf).contains (some n) }

/-- R329, R412: the command without the translations it has taken. -/
def XuCmd.untranslated (c : XuCmd) : XuCmd := { c with pages := [], bar := none, work := [] }

/-- The requester of a command. -/
def XuCmd.unit (c : XuCmd) (core ix : Nat) : Requester := ⟨core, .command core ix, c.gang, c.dom, c.priv⟩

/-- A command put back into its place. -/
def State.setCmd (s : State) (core ix : Nat) (c : XuCmd) : State := s.onCore core fun k => { k with xus := k.xus.set ix c }

/-- What the abandoned or refused requests of a command, and its writes not yet sent, leave to be done again: sectors and decrements. -/
def XuCmd.redo (c : XuCmd) (k : Core) (p : Port) : XuCmd :=
  { c.unwrite (c.out ++ k.failedPuts p) with
    owed := c.owed + ((k.portReqs p).filter fun r => r.failed && r.op == .decrement).length }

/-- R329, R402: a command stops with a record of kind 2, once what it has sent is performed; with no record free its unit withholds
acknowledgement. It takes its translations anew when it goes on. A translation that is not buffered is no fault: the command waits for its walk
(R100). -/
def State.xuFault (s : State) (core ix : Nat) (c : XuCmd) (t : Trap) : State :=
  let k := s.core core
  let p := (c.unit core ix).port
  if t.isMiss then s.miss core p t.info1
  else match k.freeFrec with
  | none => s
  | some f =>
    if !k.portWritten p then s
    else
      let r : Frec := ⟨.command ix, t.cause, c.epc, BitVec.ofNat 64 (8 * 2 ^ 44 + t.detail), t.info1, t.info2,
        info3 (.command ix) ix c.gang core c.slot, 0, c.gang, false⟩
      let c := { (c.redo k p).untranslated with phase := .faulted }
      (((s.setCore core (k.dropFailed p)).setCmd core ix c).raise core f r).tookFault p

/-! ### Translations (R329) -/

/-- The pages that a side reaches, by VA[51:16], with a half VA in each; an address below 0 is kept as it is. -/
def pagesOf (spots : List (List (Option Int))) : List Int :=
  (spots.flatMap fun l => l.filterMap id).foldl (fun acc h =>
    if acc.any (fun a => a / 2 ^ 17 == h / 2 ^ 17) then acc else h :: acc) [] |>.reverse

/-- One page of a side translated by an issuer. -/
def State.xuPage (s : State) (i : Issuer) (c : XuCmd) (wr : Bool) (r : BitVec 256) (h : Int) : Except Trap XuPage :=
  if h < 0 then .error { cause := .xlate, detail := 2, info1 := wordOf (h / 2) }
  else
    let va := h.toNat / 2
    let lined := if recKind r = 1 then some (recLid r) else none
    match s.translate i .copy (!wr || (match c.op with | .cpyr _ => true | _ => false)) wr lined va (recView r) with
    | .error t => .error t
    | .ok p =>
      if p.node ≠ 0 && s.unreachable.contains p.node then
        .error { cause := .link, info1 := BitVec.ofNat 64 va, info2 := BitVec.ofNat 64 p.node }
      else .ok ⟨va / 2 ^ 16, wr, p.key, p.fmt, p.planed, p.scale, s.ctlLines p.dom (va / 2 ^ 16)⟩

/-- R333: what a combine asks of a page: the view is its format. -/
def XuCmd.suits (c : XuCmd) (wr : Bool) (r : BitVec 256) (p : XuPage) : Bool :=
  pageOk r wr (c.op == .fill) p && match c.op with
    | .cpyr _ => !wr || recView r == p.fmt
    | _ => true

/-- Pages translated and checked one after another, keeping those already held: the command with those taken, and the fault of the first that
fails. -/
def State.xuPages (s : State) (i : Issuer) (wr : Bool) (r : BitVec 256) : XuCmd → List Int → XuCmd × Option Trap
  | c, [] => (c, none)
  | c, h :: hs =>
    if (c.pageAt wr h).isSome then s.xuPages i wr r c hs
    else match s.xuPage i c wr r h with
      | .error t => (c, some t)
      | .ok p =>
        if c.suits wr r p then s.xuPages i wr r { c with pages := c.pages ++ [p] } hs
        else (c, some (formatTrap (h.toNat / 2) p.fmt (recView r)))

/-- Table 4-6: SCALE pages only on both sides; FILL takes none. -/
def XuCmd.scaleOk (c : XuCmd) : Bool :=
  let scale (side : Bool) := c.pages.any fun p => p.dst == side && p.fmt == 0x18
  if c.op = .fill then !scale true else (!scale true && !scale false) || c.pages.all fun p => p.fmt == 0x18

/-- R332: the spots of elements that indices place. -/
def indexedSpots (p : Operand) (write : Bool) (vs : List Nat) : Except Trap (List (List (Option Int))) :=
  p.allSpots write ((vs.zipIdx).map fun e => p.indexed e.2 e.1)

/-- The half VAs of every spot that a command's source reaches, then of its destination. An indexed side reaches what its indices name. -/
def XuCmd.srcSpots (c : XuCmd) : Except Trap (List (List (Option Int))) :=
  if !c.reads then .ok []
  else do
    let p ← c.srcOp
    if c.op = .cpyg then indexedSpots p false (c.index.getD []) else p.allSpots false (p.chunks false)
def XuCmd.dstSpots (c : XuCmd) : Except Trap (List (List (Option Int))) := do
  let p ← c.dstOp
  if c.op = .cpys then indexedSpots p true (c.index.getD []) else p.allSpots true (p.chunks (c.op != .fill))

/-- The bytes of an element's spots on the destination's side: position and VA. -/
def XuCmd.spotBytes (c : XuCmd) (sp : List (Option Int)) : List (Option (Nat × Nat)) :=
  ((sp.zipIdx).filter fun e => e.2 % 2 == 0).map fun e => e.1.bind fun h => (c.halfKey true h).map fun k => (k / 2, h.toNat / 2)

/-- Whether a page of a domain holds a control line or a part of its COMMAND ring. -/
def State.ruledPage (s : State) (dom : Nat) (p : XuPage) : Bool :=
  let q := s.queue dom
  !p.lines.isEmpty || (q.valid && q.type == 2 && q.ring.toNat / 64 ≤ p.page
    && p.page * 2 ^ 16 < q.ring.toNat * 2 ^ 10 + 64 * 2 ^ q.logn.toNat)

/-- R145, R156: the trap of a command that writes control lines or a COMMAND ring against their rules; `l` are its destination's spots. -/
def State.ruleTrap (s : State) (c : XuCmd) (l : List (List (Option Int))) : Option Trap :=
  if c.pages.any fun p => p.dst && s.ruledPage c.dom p then l.findSome? fun sp => s.elementRules c.dom (c.spotBytes sp) else none

/-- R329: the barrier word's key. -/
def State.barKey (s : State) (i : Issuer) (va : Nat) : Except Trap Nat :=
  if va % 16 ≠ 0 then .error { cause := .align, info1 := BitVec.ofNat 64 va }
  else (s.translate i .barrier true true none va).map fun p => p.key + va % 2 ^ 16

/-- R329: what a command's start has come to: the translations taken, and the fault that stops it. -/
def State.xuTake (s : State) (core ix : Nat) (c : XuCmd) : XuCmd × Option Trap :=
  let i := (c.unit core ix).issuer s
  let side (wr : Bool) (r : BitVec 256) (l : Except Trap (List (List (Option Int)))) (c : XuCmd) : XuCmd × Option Trap :=
    match l with
    | .error t => (c, some t)
    | .ok l => s.xuPages i wr r c (pagesOf l)
  match side false c.src c.srcSpots c with
  | (c, some t) => (c, some t)
  | (c, none) => match side true c.dst c.dstSpots c with
    | (c, some t) => (c, some t)
    | (c, none) => match s.ruleTrap c (c.dstSpots.toOption.getD []) with
    | some t => (c, some t)
    | none =>
      if !c.scaleOk then
        (c, some (formatTrap (((c.pages.find? fun p => p.fmt == 0x18).elim 0 fun p => p.page) * 2 ^ 16) 0x18 0))
      else match c.barVa with
        | none => (c, none)
        | some va => match s.barKey i va with
          | .error t => (c, some t)
          | .ok key => ({ c with bar := some (va, key) }, none)

/-- R332, R383: the index record is read whole: its pages, its words as they come. -/
def State.xuIndex (s : State) (core ix : Nat) (c : XuCmd) : State :=
  let u := c.unit core ix
  match c.idxOp with
  | .error t => s.xuFault core ix c t
  | .ok p =>
    match p.allSpots false (p.chunks false) with
    | .error t => s.xuFault core ix c t
    | .ok spots =>
      match s.xuPages (u.issuer s) false c.idx c (pagesOf spots) with
      | (c, some t) => (s.setCmd core ix c).xuFault core ix c t
      | (c, none) =>
        let ws := spots.flatMap fun x => c.wants c.idx x (holdOf c.idx 0)
        match s.fetch u ws with
        | .failed t => s.xuFault core ix c t
        | .waiting s => s.setCmd core ix c
        | .ready seen =>
          match seen.wantPoison ws with
          | some t => s.xuFault core ix c t
          | none =>
            let c := { c with pages := [], index := some (spots.map fun x => ofHalves (x.map (seen.readSpot c false))) }
            (s.onCore core fun k => k.dropReads u.port).setCmd core ix c

/-- What translations leave: the buffers (R99) and the gang's page marks (R430). -/
def State.xuNotes (s : State) (i : Issuer) (c : XuCmd) : State :=
  c.pages.foldl (fun s p => (s.remember i (p.page * 2 ^ 16)).markPage c.gang (.mem p.key)) s

/-- R329: a command starts, or goes on from its progress: every translation is taken and checked before anything is written, then its
sectors are laid out. A fault leaves nothing taken. -/
def State.xuBegin (s : State) (core ix : Nat) (c : XuCmd) : State :=
  if c.indexed && c.index.isNone then s.xuIndex core ix c
  else match s.xuTake core ix c with
    | (c, some t) => (if t.isMiss then s.setCmd core ix c else s).xuFault core ix c t
    | (c, none) =>
      match c.laidOut with
      | .error t => s.xuFault core ix c t
      | .ok ps =>
        let todo := ((c.layout ps).zipIdx).filter fun e => c.again.contains e.2 || c.progress ≤ e.2
        (s.xuNotes ((c.unit core ix).issuer s) c).setCmd core ix { c with phase := .moving, work := todo.map fun e => e.1 }

/-! ### A sector (R329, R330, R337) -/

/-- The writes of some pieces, or the first trap. -/
def State.allWrites (s : State) (c : XuCmd) (dst : Operand) : List Piece → Except Trap (List (Piece × Writes))
  | [] => .ok []
  | p :: ps => do
    let x ← s.pieceWrites c dst p
    let xs ← s.allWrites c dst ps
    return (p, x) :: xs

/-- The half bytes that a piece held over from an earlier sector writes. -/
def XuCmd.heldOver (c : XuCmd) (p : Piece) : Option (List (Nat × Nat)) := (c.buf.find? fun e => e.1 == p).map fun e => e.2

/-- R145: the byte at a position. -/
def State.byteAt (s : State) (b : Nat) : Byte := BitVec.ofNat 8 (s.homeHalf (2 * b) + 16 * s.homeHalf (2 * b + 1))

/-- R331: the command with the bytes that a source of it may hold, as they stand before it writes them. -/
def State.undone (s : State) (c : XuCmd) (keys : List Nat) : XuCmd :=
  keys.foldl (fun (c : XuCmd) b =>
    if c.pages.any (fun p => !p.dst && p.covers b) && !(c.undo.any fun (u : Host.Cell) => u.1 == b) then
      { c with undo := (b, s.byteAt b) :: c.undo }
    else c) c

/-- R334: what CPYM has read stands in its memory; it asks for nothing of it again. -/
def XuCmd.unread (c : XuCmd) (ws : List Want) : List Want := ws.filter fun w => !c.once.any fun (e : Host.Cell) => e.1 == w.key
def State.reread_ (s : State) (c : XuCmd) : State :=
  { s with mem := c.once.foldl (fun (m : List Host.Cell) (e : Host.Cell) => writeByte m e.1 e.2) s.mem }

/-- R334: the command with the bytes that it has read kept, for CPYM. -/
def State.keepOnce (s : State) (c : XuCmd) (ws : List Want) : XuCmd :=
  if c.op = .cpym then { c with once := ((c.unread ws).map fun w => (w.key, readByte s.mem w.key)) ++ c.once } else c

/-- The write of a sector: the half bytes that its pieces have in it, one part (R337); a combine's elements whole (R333). -/
def XuCmd.sectorPut (c : XuCmd) (sec : Nat) (ws : List (List (Int × Nat))) : Put :=
  let here (e : Int × Nat) : Bool := (c.halfKey true e.1).any fun k => k / 128 == sec
  let va := ((ws.findSome? fun w => w.find? here).elim 0 fun e => e.1.toNat / 2)
  match c.op with
  | .cpyr op => ⟨va, .combine op (recView c.dst) c.rnd (ws.map fun w => (w.map fun e => c.halfKey true e.1, ofHalves (w.map fun e => e.2)))⟩
  | _ => putOf va [ws.flatMap fun w => w.filterMap fun e => (c.halfKey true e.1).bind fun k => if k / 128 = sec then some (k, e.2) else none] true

/-- R98, R328: the writes of metadata. FILL leaves it (R335). -/
def XuCmd.scalePuts (c : XuCmd) (ws : List Writes) : List Put :=
  if c.op = .fill then []
  else ws.filterMap fun w => w.scale.map fun e =>
    putOf ((w.data.head?).elim 0 fun d => d.1.toNat / 2) [(List.range 32).map fun j => (2 * e.1 + j, e.2.toNat / 16 ^ j % 16)] false

/-- R327 to R337: the next destination sector: what its pieces need is read; then it is put together, to be sent. -/
def State.xuSector (s : State) (core ix : Nat) (c : XuCmd) : State :=
  let u := c.unit core ix
  match c.work with
  | [] => s
  | (sec, ps) :: rest =>
    let todo := ps.filter fun p => (c.heldOver p).isNone
    match c.allWants todo with
    | .error t => s.xuFault core ix c t
    | .ok ws =>
      match s.fetch u (c.unread ws) with
      | .failed t => s.xuFault core ix c t
      | .waiting s => s
      | .ready seen =>
        let seen := seen.reread_ c
        match c.dstOp.bind fun dst => seen.allWrites c dst todo with
        | .error t => (s.onCore core fun k => k.dropReads u.port).xuFault core ix c t
        | .ok new =>
          let data := ps.map fun p => (c.heldOver p).elim ((new.find? fun e => e.1 == p).elim [] fun e => e.2.data)
            fun l => l.map fun e => ((e.1 : Int), e.2)
          let put := c.sectorPut sec data
          let over_ (e : Piece × Writes) : Bool := e.2.data.any fun d => (c.halfKey true d.1).any fun k => k / 128 != sec
          let buf := (c.buf ++ (new.filter over_).map fun e => (e.1, e.2.data.map fun d => (d.1.toNat, d.2))).filter fun e =>
            rest.any fun x => x.2.contains e.1
          let c' := { s.undone (seen.keepOnce c ws) ((put.op.halves.map fun h => h / 2).eraseDups) with
            progress := if c.again.isEmpty then c.progress + 1 else c.progress, again := c.again.tail
            work := rest, buf := buf, out := c.scalePuts (new.map fun e => e.2) ++ [put] }
          let st := new.foldl (fun st e => st ||| e.2.status) 0
          { (s.onCore core fun k => (k.dropReads u.port).addStatus c.gang st).setCmd core ix c' with fresh := s.fresh + 1 }

/-- Whether a write that is performed owes a decrement: one of a sector's data. -/
def Req.owes (r : Req) : Bool :=
  match r.op with
  | .put _ _ data => data
  | .combine _ _ _ _ => true
  | _ => false

/-- R330: a decrement that a performed sector owes sets out. -/
def State.xuDecrement (s : State) (core ix : Nat) (c : XuCmd) : State :=
  match c.bar with
  | some b =>
    match s.ask (c.unit core ix) .decrement ⟨.mem b.2, b.1, 16, 0, 16, none⟩ with
    | none => s
    | some s => s.setCmd core ix { c with owed := c.owed - 1 }
  | none => s.setCmd core ix { c with owed := 0 }

/-- R330: the sectors of a command that came back performed are taken, each with the decrement that it owes. -/
def State.xuCollect (s : State) (core ix : Nat) (c : XuCmd) : State × XuCmd :=
  let k := s.core core
  let p := (c.unit core ix).port
  let owing := ((k.portReqs p).filter fun r => r.owes && (r.reply?.elim false fun a => a.error.isNone)).length
  let c := { c with owed := c.owed + if c.barVa.isSome then owing else 0 }
  ((s.setCore core (k.takeWritten p)).setCmd core ix c, c)

/-- R330: a performed sector's decrement is to set out before anything else, even before a fault: none of the command's has failed. -/
def Core.mayDecrement (k : Core) (p : Port) (c : XuCmd) : Bool :=
  decide (0 < c.owed) && c.bar.isSome && !(k.portReqs p).any fun r => r.failed && r.op == .decrement

/-- What a command does next (R329, R330): it takes what has come back; it starts; it sends what it has put together; it owes decrements;
it goes on to its next sector. -/
def State.xuStep (s : State) (core ix : Nat) (c : XuCmd) : State :=
  let u := c.unit core ix
  let x := s.xuCollect core ix c
  let s := x.1
  let c := x.2
  match (s.core core).portError u.port with
  | some t => if (s.core core).mayDecrement u.port c then s.xuDecrement core ix c else s.xuFault core ix c t
  | none =>
    if c.phase = .issued then s.xuBegin core ix c
    else match c.out with
      | [] => if 0 < c.owed then s.xuDecrement core ix c else s.xuSector core ix c
      | ps =>
        let r := s.sendPuts u some ps
        r.1.setCmd core ix { c with out := r.2 }

/-- R325, R329, R330, XU_SECTOR_WRITE: a command's next step. -/
def execXuSectorWrite (o : CmdAt) (s : State) : Out :=
  match (s.core o.core).xus.find? o.ix with
  | none => .next s
  | some c => if c.op = .publish || c.phase = .faulted || s.frozen c.gang then .next s else .next (s.xuStep o.core o.ix c)

/-- Whether every write and decrement of a command is performed (R325). -/
def Core.xuOver (k : Core) (core ix : Nat) (c : XuCmd) : Bool :=
  c.op != .publish && c.phase == .moving && c.work.isEmpty && c.out.isEmpty && c.owed == 0 && k.portIdle (c.unit core ix).port

/-- R325, XU_COMMAND_COMPLETE: its counter falls; its status stands in CVSTAT already (R84). -/
def execXuCommandComplete (o : CmdAt) (s : State) : Out :=
  let k := s.core o.core
  match k.xus.find? o.ix with
  | none => .next s
  | some c => if k.xuOver o.core o.ix c && !s.frozen c.gang then .next (s.setCore o.core (k.xuDone o.ix)) else .next s

/-- R318, R336, PUBLISH_SWAP: a PUBLISH sets out for its hem die; back from there it completes, or stops. -/
def execPublishSwap (o : CmdAt) (s : State) : Out :=
  let k := s.core o.core
  match k.xus.find? o.ix with
  | none => .next s
  | some c =>
    let u := c.unit o.core o.ix
    if c.op ≠ .publish || c.phase = .faulted || s.frozen c.gang then .next s
    else match k.portError u.port with
      | some t => .next (s.xuFault o.core o.ix c t)
      | none =>
        match (k.portReqs u.port).head? with
        | none => .next ((s.ask u (.publish (recLid c.dst) c.slot c.mark) { noTarget with va := recBase c.dst }).getD s)
        | some r => if r.reply?.isSome then .next (s.setCore o.core ((k.takeWritten u.port).xuDone o.ix)) else .next s

/-! ### Issue -/

/-- R97: the trap of a page of a side at issue: FORMAT, or the wait for its walk; other failures come at the start (R329). -/
def State.pageTrap (s : State) (i : Issuer) (c : XuCmd) (wr : Bool) (r : BitVec 256) (h : Int) : Option Trap :=
  match s.xuPage i c wr r h with
  | .error t => if t.isMiss || t.cause == .format then some t else none
  | .ok p => if c.suits wr r p then none else some (formatTrap (h.toNat / 2) p.fmt (recView r))

/-- The command with the pages of a side that translate now. -/
def State.tryPages (s : State) (i : Issuer) (wr : Bool) (r : BitVec 256) (c : XuCmd) (hs : List Int) : XuCmd :=
  hs.foldl (fun c h => match s.xuPage i c wr r h with
    | .ok p => { c with pages := c.pages ++ [p] }
    | .error _ => c) c

/-- R328: every scale group of a DB view begins at a group boundary of its page; a page of another format has none (log 30). -/
def XuCmd.aligned (c : XuCmd) (p : Operand) (wr : Bool) : Bool :=
  match p.db with
  | none => true
  | some f => (p.chunks false).all fun u =>
      (2 * p.base + u.off) % (2 * dbGroup f : Nat) == 0 || (c.pageAt wr (2 * p.base + u.off)).any fun g => g.fmt != f

/-- R328: two operands of one DB view hold the same groups. -/
def sameGroups (src dst : Operand) : Bool :=
  (dst.chunks true).all fun u =>
    let v := src.chunkOf (u.first % src.count)
    v.first == u.first % src.count && v.cnt == u.cnt

/-- R326, R327, R332 to R334: the FORMAT checks of a copy's shapes, views and conversion; a conv that Table 13-4 gives no formats is FORMAT
(log 30). -/
def XuCmd.shapesOk (c : XuCmd) (src dst : Operand) : Except Trap Unit := do
  let bad := formatTrap (recBase c.dst) 0 (recView c.dst)
  if c.indexed then
    let i ← c.idxOp
    if recView c.idx ≠ 0x03 ∧ recView c.idx ≠ 0x07 then throw (formatTrap (recBase c.idx) 0 (recView c.idx))
    if i.count ≠ (if c.op = .cpyg then dst.count else src.count) ∨ src.db.isSome ∨ dst.db.isSome then throw bad
  else
    if (if c.op = .cpym then src.count * (dst.n2 + 1) else src.count) ≠ dst.count then throw bad
    if c.op = .cpym then
      let q ← c.rawSrc
      if (c.over.isNone && q.n2 ≠ 0) || src.n0 ≠ dst.n0 || src.n1 ≠ dst.n1 then throw bad
  if c.conv = 0 then
    if src.view ≠ dst.view ∨ (src.db.isSome ∧ !sameGroups src dst) then throw bad
  else if convFormats c.conv.toNat ≠ some (src.view, dst.view) then throw bad
  match c.op with
  | .cpyr op => if !combineOk op dst.view then throw bad
  | _ => pure ()

/-- R145: memory with the bytes of control lines among some wants at their positions. -/
def State.peeked (s : State) (ws : List Want) : State :=
  { s with mem := ws.foldl (fun (m : List Host.Cell) w => match homeAt w.key with
      | .mem _ => m
      | .ctl _ _ => writeByte m w.key (s.byteAt w.key)) s.mem }

/-- R97, R332: the indices of a command as they stand, whose pages `c` holds, to tell the pages that its elements are on: none where they are held,
poisoned or not reached now (log 30). -/
def State.namedNow (s : State) (c : XuCmd) (is : List (List (Option Int))) : Option (List Nat) :=
  let ws := is.flatMap fun x => c.wants c.idx x none
  if recKind c.idx = 2 || (pagesOf is).any (fun h => (c.pageAt false h).isNone) || (s.wantPoison ws).isSome then none
  else some (is.map fun x => ofHalves (x.map ((s.peeked ws).readSpot c false)))

/-- R332: the spots that indices name now, those out of bounds apart: these stop the command later. -/
def namedSpots (p : Operand) (write : Bool) (vs : List Nat) : List (List (Option Int)) :=
  (vs.zipIdx).filterMap fun e => (p.spots (p.indexed e.2 e.1) write).toOption

/-- R326 to R335: the checks of a copy at issue, its translations made by issuer `i`. -/
def State.copyChecks (s : State) (i : Issuer) (c : XuCmd) : Except Trap Unit := do
  if c.op = .cpym && recKind c.dst = 2 then throw (formatTrap (recBase c.dst) 0 (recView c.dst))
  let dst ← c.dstOp
  if c.reads then
    let src ← c.srcOp
    c.shapesOk src dst
  let vs ← if c.indexed then do
      let p ← c.idxOp
      let is ← p.allSpots false (p.chunks false)
      match (pagesOf is).findSome? (s.pageTrap i c false c.idx) with
      | some t => throw t
      | none => pure (s.namedNow (s.tryPages i false c.idx c (pagesOf is)) is)
    else pure none
  let ds ← if c.op = .cpys then pure (namedSpots dst true (vs.getD [])) else c.dstSpots
  let ss ← if c.op = .cpyg then (do
      let src ← c.srcOp
      return namedSpots src false (vs.getD [])) else c.srcSpots
  match ((pagesOf ds).findSome? (s.pageTrap i c true c.dst)).orElse fun _ => (pagesOf ss).findSome? (s.pageTrap i c false c.src) with
  | some t => throw t
  | none => pure ()
  let c := s.tryPages i false c.src (s.tryPages i true c.dst c (pagesOf ds)) (pagesOf ss)
  if !c.aligned dst true then throw (formatTrap dst.base 0 dst.view)
  if c.reads then
    let src ← c.srcOp
    if !c.aligned src false then throw (formatTrap src.base 0 src.view)
  match s.ruleTrap c ds with
  | some t => if t.cause == .format then throw t
  | none => pure ()
  if (!c.indexed || vs.isSome) && !c.scaleOk then throw (formatTrap (recBase c.dst) 0x18 (recView c.dst))

/-- R325: the command takes its place, or its slot stalls when 32 are held. Its counter rises. -/
def takeCommand (c : XuCmd) (s : State) : Out :=
  let k := s.curCore
  match firstFree (fun i => (k.xus.find? i).isSome) Config.numXu with
  | none => stall s
  | some ix =>
    let k := (k.sbInc c.sb.toNat).markCounter s.curSlot.gang c.sb.toNat
    retireCore { k with xus := k.xus.set ix c } (s.tookFault (s.curCore.slotPort s.cur.core s.cur.slot))

/-- A command of the running slot that names no index. -/
def State.newCmd (s : State) (op : XuOp) (o : OpsX) (src dst : BitVec 256) (a b : Word) : XuCmd where
  op := op
  src := src
  dst := dst
  idx := 0
  srcIx := o.src
  dstIx := o.dst
  idxIx := 0
  barrier := a
  gb := b
  hasBar := o.a != 0
  hasCnt := o.b != 0
  conv := o.conv
  rnd := o.rnd
  sat := o.sat
  sb := o.sb
  slot := s.cur.slot
  epc := s.curSlot.pc
  gang := s.curSlot.gang
  dom := s.curCore.domain.toNat
  priv := s.curSlot.priv
  phase := .issued
  progress := 0
  pages := []
  bar := none
  index := none
  work := []
  out := []
  mark := s.curCore.nextReq
  owed := 0
  undo := []
  buf := []
  again := []
  once := []

/-- A command, checked, takes its place. -/
def issueCopy (c : XuCmd) (s s' : State) : Out :=
  checked (s.copyChecks s.curIssuer c) s fun _ => takeCommand c s'

/-- A copy command issues. -/
def copyForm (o : OpsX) (op : XuOp) (idx : RecIx) (useIdx : Bool) (s : State) : Out :=
  guarded o.g s <| withReg o.a false s fun a => withReg o.b false s fun b => unspeculated s <|
    withRecord o.src s fun s1 src => withRecord o.dst s fun _ dst =>
      (if useIdx then withRecord idx s else fun f => f s 0) fun _ ix =>
        let k := s1.curCore.markRecord s.curSlot.gang o.dst.toNat
        let k := if useIdx then k.markRecord s.curSlot.gang idx.toNat else k
        issueCopy { s.newCmd op o src dst a b with idx := ix, idxIx := idx } s (s1.setCurCore k)

/-- R326, CPY. -/
def execCpy (o : OpsX) (s : State) : Out := copyForm o .cpy 0 false s
/-- R334, CPYM. -/
def execCpym (o : OpsX) (s : State) : Out := copyForm o .cpym 0 false s
/-- R332, CPYG. -/
def execCpyg (o : OpsXi) (s : State) : Out :=
  copyForm ⟨o.g, o.src, o.dst, o.a, o.b, o.sb, o.conv, o.rnd, o.sat⟩ .cpyg o.idx true s
/-- R332, CPYS. -/
def execCpys (o : OpsXi) (s : State) : Out :=
  copyForm ⟨o.g, o.src, o.dst, o.a, o.b, o.sb, o.conv, o.rnd, o.sat⟩ .cpys o.idx true s
/-- R333, CPYR. -/
def execCpyr (o : OpsXr) (s : State) : Out :=
  copyForm ⟨o.g, o.src, o.dst, o.a, o.b, o.sb, o.conv, o.rnd, o.sat⟩ (.cpyr o.op) 0 false s

/-- R335, FILL. -/
def execFill (o : OpsFill) (s : State) : Out :=
  guarded o.g s <| withReg o.a false s fun a => withReg o.b false s fun b => unspeculated s <| withRecord o.dst s fun s' dst =>
    issueCopy (s.newCmd .fill ⟨o.g, 0, o.dst, o.a, o.b, o.sb, 0, 0, false⟩ 0 dst a b) s s'

/-- R336, PUBLISH issues. -/
def execPublish (o : OpsPub) (s : State) : Out :=
  guarded o.g s <| unspeculated s <| withRecord o.dst s fun s' dst =>
    if recBad dst || recKind dst ≠ 1 then trap (formatTrap (recBase dst) 0 (recView dst)) s
    else takeCommand (s.newCmd .publish ⟨o.g, 0, o.dst, 0, 0, o.sb, 0, 0, false⟩ 0 dst 0 0) s'

end Sys2Proof.Machine
end

