-- ==== Sys2Proof/Machine/Frame.lean ====
section
/-! DEFINITION. Configuration frames (R126 to R133): their fields, the checks of Table 5-21 and R182 with the rules of the units
(R246, R249, R251, R262, R263, R270, R272, R277, R281, R309, R314 to R316, R387), R165 and R455. -/

namespace Sys2Proof.Machine

/-- A configuration frame (R126). -/
abbrev CFrame := BitVec 256

/-! ### Fields -/

def frKind (f : CFrame) : Nat := rfld f 252 4
def cuIx (f : CFrame) : Nat := rfld f 250 2
def cuStage (f : CFrame) : Nat := rfld f 247 3
def cuPerLane (f : CFrame) : Bool := f.getLsbD 246
def cuRm (f : CFrame) : BitVec 2 := f.extractLsb' 244 2
def cuIna (f : CFrame) : Nat := rfld f 240 4
def cuImm (f : CFrame) : Lane := f.extractLsb' 16 32
def cuInb (f : CFrame) : Nat := rfld f 14 2
def cuTap (f : CFrame) : Nat := rfld f 11 3
def cuHidx (f : CFrame) : Nat := rfld f 6 2
def cuHrst (f : CFrame) : Nat := rfld f 3 3

/-- R254: the field that governs lane `n`. -/
def cuLane (f : CFrame) (n : Nat) : Nat := rfld f (48 + 12 * if cuPerLane f then n else 0) 12
def laneOp (l : Nat) : Nat := l / 16
def laneBsrc (l : Nat) : Nat := l / 4 % 4
def laneCin (l : Nat) : Bool := l / 2 % 2 == 1
def laneHw (l : Nat) : Bool := l % 2 == 1

def muIx (f : CFrame) : Nat := rfld f 250 2
def muMode (f : CFrame) : Nat := rfld f 246 4
def muFmt (f : CFrame) : Nat := rfld f 241 5
def muWlen (f : CFrame) : Nat := rfld f 229 12
def muWop (f : CFrame) : Nat := rfld f 225 4
def muBase (f : CFrame) : Nat := rfld f 212 13
def muLines (f : CFrame) : Nat := rfld f 199 13
def muPen (f : CFrame) : Nat := rfld f 195 4

/-- One connection entry of an SW frame, with its box. -/
structure Conn where
  box : Nat
  src : Nat
  dst : Nat
deriving DecidableEq, Repr

def swBox (f : CFrame) : Nat := rfld f 249 3
def swEntry (f : CFrame) (e : Nat) : Nat := rfld f (228 - 20 * e) 20

/-- The entries in use of an SW frame. -/
def swConns (f : CFrame) : List Conn :=
  (List.range 12).filterMap fun e =>
    let v := swEntry f e
    if v / 2 ^ 19 = 1 then some ⟨swBox f, v / 2 ^ 12 % 2 ^ 7, v / 2 ^ 5 % 2 ^ 7⟩ else none

def agMode (f : CFrame) : Nat := rfld f 248 4
def agIx (f : CFrame) : Nat := rfld f 247 1
def agRec (f : CFrame) : Nat := rfld f 239 8
def agBase (f : CFrame) : Nat := rfld f 207 32
def agCount (f : CFrame) (k : Nat) : Nat := rfld f (191 - 40 * k) 16 + 1
def agStride (f : CFrame) (k : Nat) : Int := (f.extractLsb' (167 - 40 * k) 24).toInt
def agMmask (f : CFrame) : Nat := rfld f 43 4
def agTgt (f : CFrame) : Nat := rfld f 40 3
def agDir (f : CFrame) : Bool := f.getLsbD 39
def agNd (f : CFrame) : Nat := rfld f 37 2

/-- A CT descriptor (R131): op, inputs, outputs, param, extension. -/
structure Desc where
  op : Nat
  in0 : Nat
  in1 : Nat
  in2 : Nat
  out0 : Nat
  out1 : Nat
  param : Nat
  ext : Nat
deriving DecidableEq, Repr, Inhabited

/-- Descriptor `k` of a CT frame. -/
def ctDesc (f : CFrame) (k : Nat) : Desc :=
  let d := rfld f (200 - 48 * k) 48
  ⟨d / 2 ^ 40, d / 2 ^ 36 % 16, d / 2 ^ 32 % 16, d / 2 ^ 28 % 16, d / 2 ^ 24 % 16, d / 2 ^ 20 % 16, d % 2 ^ 20,
    rfld f (42 - 14 * k) 14⟩

def lxConv (f : CFrame) : Nat := rfld f 247 5
def lxRnd (f : CFrame) : BitVec 2 := f.extractLsb' 245 2
def lxSat (f : CFrame) : Bool := f.getLsbD 244
def lxIn (f : CFrame) : Nat := rfld f 242 2
def lxOut (f : CFrame) : Nat := rfld f 240 2
def lxMsrc (f : CFrame) : Bool := f.getLsbD 239

def ptRail (f : CFrame) : BitVec 3 := f.extractLsb' 249 3
def ptArm (f : CFrame) : Bool := f.getLsbD 245
def ptCount (f : CFrame) : Nat := rfld f 239 6 + 1

/-! ### CT operators (Table 10-15) -/

/-- The operator reads these inputs: input index and CT pin. -/
def Desc.reads (d : Desc) : List (Nat × Nat) :=
  match d.op with
  | 0x01 | 0x04 => [(0, d.in0), (1, d.in1)]
  | 0x02 | 0x03 => [(0, d.in0), (1, d.in1), (2, d.in2)]
  | 0x05 => [(0, d.in0)]
  | 0x06 => if d.param / 2 ^ 13 % 2 = 1 then [] else [(0, d.in0)]
  | 0x07 => (List.zip [0, 1, 2] [d.in0, d.in1, d.in2]).filter fun e => d.param / 2 ^ (16 + e.1) % 2 == 1
  | 0x08 => (0, d.in0) :: if d.param / 2 ^ 16 % 2 = 1 then [(1, d.in1)] else []
  | 0x10 | 0x11 | 0x12 => (if d.param / 2 ^ 16 % 2 = 1 then [] else [(0, d.in0)]) ++ [(2, d.in2)]
  | 0x18 => [(0, d.in0), (1, d.in1)]
  | _ => []

/-- The pins that the operator drives. -/
def Desc.drives (d : Desc) : List Nat :=
  match d.op with
  | 0x01 | 0x06 | 0x10 | 0x11 | 0x12 | 0x18 => [d.out0, d.out1]
  | 0 => []
  | _ => [d.out0]

/-- R262: an input that the operator does not use under its param is 0 (log 39). -/
def Desc.unusedZero (d : Desc) : Bool :=
  (List.zip [0, 1, 2] [d.in0, d.in1, d.in2]).all fun e => (d.reads.any fun r => r.1 == e.1) || e.2 == 0

/-- R262, R263: fields that the operator does not use are 0, and its codes are not reserved. -/
def Desc.ok (d : Desc) : Bool :=
  let root := d.param / 2 ^ 17 == 0
  d.unusedZero && match d.op with
  | 0 => d == ⟨0, 0, 0, 0, 0, 0, 0, 0⟩
  | 0x01 => d.in2 == 0 && d.param == 0 && d.ext == 0
  | 0x02 => d.out1 == 0 && d.param == 0 && d.ext == 0
  | 0x03 => d.out1 == 0 && d.param == 0 && d.ext == 0
  | 0x04 => d.in2 == 0 && d.out1 == 0 && d.param < 2 && d.ext == 0
  | 0x05 => d.in1 == 0 && d.in2 == 0 && d.out1 == 0 && (d.param < 5 || d.param == 7) && d.ext == 0
  | 0x06 => d.in1 == 0 && d.in2 == 0 && d.param / 2 ^ 17 < 5 && d.param / 2 ^ 14 % 8 != 5 && d.param / 2 ^ 14 % 8 != 6
  | 0x07 => d.out1 == 0 && d.param / 2 ^ 16 % 8 != 0 && d.ext == 0
  | 0x08 => d.in2 == 0 && d.out1 == 0 && root && d.ext == 0
  | 0x10 => d.in1 == 0 && root && d.ext == 0
  | 0x11 => d.in1 == 0 && root && 1 ≤ d.ext && d.ext < 4096
  | 0x12 => d.in1 == 0 && root && d.ext == 0
  | 0x18 => d.in2 == 0 && d.ext == 0
  | _ => false

/-- R272: a root controller. -/
def Desc.isRoot (d : Desc) : Bool := (d.op == 0x10 || d.op == 0x11 || d.op == 0x12) && d.param / 2 ^ 16 % 2 == 1

/-- The descriptors of a CT frame. -/
def ctDescs (f : CFrame) : List Desc := (List.range 4).map fun k => ctDesc f k

/-! ### Frame checks (Table 5-21) -/

/-- R135. -/
def cellOpOk (o : Nat) : Bool :=
  o ≤ 1 || (0x10 ≤ o && o ≤ 0x27) || (0x30 ≤ o && o ≤ 0x38) || (0x40 ≤ o && o ≤ 0x44) || (0x50 ≤ o && o ≤ 0x53)
    || (0x60 ≤ o && o ≤ 0x64) || (0x70 ≤ o && o ≤ 0x75) || (0x78 ≤ o && o ≤ 0x7B)

/-- R127. -/
def cuOk (f : CFrame) : Bool :=
  cuStage f < 6 && (if cuStage f = 0 then cuIna f < 4 else cuIna f == 0) && cuTap f != 6 && cuHrst f != 5 && cuHrst f != 6
    && rfld f 8 3 == 0 && rfld f 0 3 == 0 && (cuPerLane f || rfld f 60 180 == 0)
    && (List.range 16).all fun n => cellOpOk (laneOp (cuLane f n))

/-- R388: the formats that a WACC operator admits. -/
def waccFmtOk (op fmt : Nat) : Bool :=
  if op = 0x1 ∨ op = 0x4 ∨ op = 0x5 ∨ op = 0x9 then fmt == 0x08 else op ≤ 0xA && (fmt == 0x03 || fmt == 0x07)

/-- R128, R281, R309, R387. -/
def muOk (f : CFrame) : Bool :=
  let none_ := muWlen f == 0 && muWop f == 0
  rfld f 0 195 == 0 && muBase f + muLines f + 1 ≤ 8192 && !fmtReserved (muFmt f) &&
    match muMode f with
    | 1 => none_ && muFmt f == 0 && muBase f == 0 && muLines f == 0 && muPen f == 0
    | 2 => none_ && muFmt f == 0 && muPen f == 10
    | 3 => waccFmtOk (muWop f) (muFmt f) && (muPen f == 10 || muPen f == 15)
        && (if muWop f = 9 then 2 else 1) * (muWlen f + 1) ≤ muLines f + 1
    | 4 => none_ && muFmt f == 0x08 && muBase f == 0 && muLines f == 0 && muPen f == 10
    | 5 => none_ && fmtElement (muFmt f) && viewHalf (muFmt f) ≤ 8 && muPen f == 10
    | _ => false

/-- R129: the entries' own fields. -/
def swOk (f : CFrame) : Bool :=
  rfld f 248 1 == 0 && rfld f 0 8 == 0 && (List.range 12).all fun e =>
    let v := swEntry f e
    v % 2 ^ 5 == 0 && (v / 2 ^ 19 == 1 || v == 0)

/-- R130, R277. -/
def agOk (f : CFrame) : Bool :=
  let dim (k : Nat) := rfld f (167 - 40 * k) 40
  rfld f 0 37 == 0 && agTgt f ≤ 4 && (List.range 4).all (fun k => k ≤ agNd f || dim k == 0) &&
    match agMode f with
    | 1 => true
    | 2 => agNd f == 0 && agCount f 0 == 1
    | 3 => agNd f == 0 && dim 0 == 0
    | _ => false

/-- R131. -/
def ctOk (f : CFrame) : Bool := rfld f 248 4 == 0 && (ctDescs f).all Desc.ok

/-- R314 to R316: whether a conversion is exact, and whether it has a DB side. -/
def lxExact (c : Nat) : Bool := c == 0x02 || c == 0x06 || c == 0x07 || c == 0x08 || c == 0x0C || c == 0x0D || c == 0x0E
def lxToDb (c : Nat) : Bool := 0x10 ≤ c && c ≤ 0x15
def lxFromDb (c : Nat) : Bool := 0x18 ≤ c && c ≤ 0x1D

/-- R132, R314 to R316. -/
def lxOk (f : CFrame) : Bool :=
  let c := lxConv f
  rfld f 0 239 == 0 && lxIn f < 2 && lxOut f < 2 && (c == 0x1F || (convFormats c).isSome)
    && (!lxMsrc f || c == 0x1F || lxToDb c || lxFromDb c)
    && (!lxExact c || (lxRnd f == 0 && !lxSat f)) && (!lxToDb c || !lxSat f) && (c != 0x1F || lxRnd f != 3)

/-- Table 5-21: a frame on its own. -/
def frameOk (f : CFrame) : Bool :=
  match frKind f with
  | 1 => cuOk f
  | 2 => muOk f
  | 3 => swOk f
  | 4 => agOk f
  | 5 => ctOk f
  | 6 => lxOk f
  | 7 => rfld f 0 239 == 0
  | _ => false

/-- R182: the unit that a frame configures, as kind × 32 + index. -/
def frameUnit (f : CFrame) : Nat :=
  32 * frKind f + match frKind f with
    | 1 => 6 * cuIx f + cuStage f
    | 2 => muIx f
    | 3 => swBox f
    | 4 => agIx f
    | _ => 0

/-! ### Units of a patch -/

/-- The frame of a unit, if one names it. -/
def unitFrame (fs : List CFrame) (kind ix : Nat) : Option CFrame := fs.find? fun f => frameUnit f == 32 * kind + ix

/-- R127, R182: the frame of a CU stage; an unnamed one of a CU with a named stage is uniform PASS and takes its CU's vo1tap. -/
def stageFrame (fs : List CFrame) (cu st : Nat) : Option CFrame :=
  match unitFrame fs 1 (6 * cu + st) with
  | some f => some f
  | none => (fs.find? fun f => frKind f == 1 && cuIx f == cu).map fun f =>
      BitVec.ofNat 256 (2 ^ 252 + cu * 2 ^ 250 + st * 2 ^ 247 + cuTap f * 2 ^ 11)

def muFrame (fs : List CFrame) (m : Nat) : Option CFrame := unitFrame fs 2 m
def agFrame (fs : List CFrame) (a : Nat) : Option CFrame := unitFrame fs 4 a
def lxFrame (fs : List CFrame) : Option CFrame := unitFrame fs 6 0

/-- The descriptors of a patch's CT. -/
def patchDescs (fs : List CFrame) : List Desc :=
  match unitFrame fs 5 0 with
  | none => []
  | some f => ctDescs f

/-- The operator in slot `k` of a patch's CT. -/
def ctOp (fs : List CFrame) (k : Nat) : Option Desc := ((patchDescs fs)[k]?).filter fun d => d.op != 0

/-- The connections of a patch. -/
def patchConns (fs : List CFrame) : List Conn := ((fs.filter fun f => frKind f == 3).flatMap swConns).eraseDups

/-- Whether a stage consumes a token on its inb port (R249). -/
def usesPort (f : CFrame) : Bool := (List.range 16).any fun n => laneBsrc (cuLane f n) == 3

/-- R251: whether any lane of a stage takes a carry. -/
def takesCarry (f : CFrame) : Bool := (List.range 16).any fun n => laneCin (cuLane f n)

/-! ### Pins (Table 10-5) -/

/-- A track's pin. -/
def isTrack (pin : Nat) : Bool := 96 ≤ pin && pin < 120
/-- A CT pin. -/
def isCt (pin : Nat) : Bool := 72 ≤ pin && pin < 88

/-- An input pin of a unit other than a CT. -/
def isInput (pin : Nat) : Bool :=
  (pin < 48 && (pin % 12 < 4 || pin % 12 == 6 || pin % 12 == 7 || pin % 12 == 10))
    || (48 ≤ pin && pin < 64 && pin % 4 < 2) || (64 ≤ pin && pin < 72 && pin % 4 != 0) || pin == 88 || pin == 89 || pin == 94

/-- An output pin of a unit other than a CT. -/
def isOutput (pin : Nat) : Bool :=
  (pin < 48 && (pin % 12 == 4 || pin % 12 == 5 || pin % 12 == 8 || pin % 12 == 9 || pin % 12 == 11))
    || (48 ≤ pin && pin < 64 && 2 ≤ pin % 4) || pin == 64 || pin == 68 || pin == 90 || pin == 91 || pin == 95

/-- A track as one number: boxes apart, then lines: length-16 tracks 0 to 7; tracks between patches p and p + 1 by number. -/
def trackOf (p box pin : Nat) : Nat :=
  let line :=
    if 104 ≤ pin ∧ pin < 112 then pin - 104
    else if pin < 104 then 8 + 8 * p + (pin - 96)          -- the back side: between p - 1 and p
    else 8 + 8 * (p + 1) + (pin - 112)                      -- the forward side: between p and p + 1
  100 * box + line

/-- Repeated elements are absent. -/
def distinct (l : List Nat) : Bool := l.dedup.length == l.length

/-! ### Configurations (R182) -/

/-- A patch's group of frames: its PATCH frame first, each unit once, one vo1tap for each CU, one use of each vi port, one carry
chain, CT pins driven once. -/
def groupOk (fs : List CFrame) : Bool :=
  let stages (c : Nat) := (List.range 6).filterMap fun s => stageFrame fs c s
  let ds := patchDescs fs
  (match fs with
    | [] => false
    | f :: _ => frKind f == 7 && ptCount f == fs.length)
    && fs.all frameOk && distinct (fs.map frameUnit)
    && (List.range 4).all (fun c =>
        (stages c).all (fun f => (stages c).all fun g => cuTap f == cuTap g)
          && distinct (((stages c).take 1).map cuIna ++ ((stages c).filter usesPort).map cuInb)
          && ((stages c).filter fun f => laneCin (cuLane f 0)).length ≤ 1)
    && distinct (ds.flatMap Desc.drives)

/-- R246, R262: the connections of a patch name existing pins, in their directions. -/
def connsOk (fs : List CFrame) : Bool :=
  let ds := patchDescs fs
  let driven (pin : Nat) := ds.any fun d => d.drives.contains (pin - 72)
  let read (pin : Nat) := ds.any fun d => (d.reads.map fun e => e.2).contains (pin - 72)
  (patchConns fs).all fun c =>
    (isTrack c.src || isOutput c.src || (isCt c.src && (driven c.src || !read c.src)))
      && (isTrack c.dst || isInput c.dst || (isCt c.dst && !driven c.dst))

/-- R246: what a connection drives: a track, or a pin of patch `p`. -/
def connDrives (p : Nat) (c : Conn) : Nat := if isTrack c.dst then trackOf p c.box c.dst else 1000 + 128 * p + c.dst

/-- R246: what a connection takes its tokens from: a track, or a pin of patch `p`. -/
def connSource (p : Nat) (c : Conn) : Nat := if isTrack c.src then trackOf p c.box c.src else 1000 + 128 * p + c.src

/-- R246: every destination pin and track has one source. -/
def oneSource (groups : List (List CFrame)) : Bool :=
  distinct ((((groups.zipIdx).flatMap fun e => (patchConns e.1).map fun c => (connDrives e.2 c, connSource e.2 c)).eraseDups).map fun e => e.1)

/-- R165: arcs stay within the run of `len` patches. -/
def edgesOk (len : Nat) (groups : List (List CFrame)) : Bool :=
  (groups.zipIdx).all fun e =>
    (patchConns e.1).all fun c => [c.src, c.dst].all fun pin =>
      !(isTrack pin && ((104 ≤ pin && pin < 112 && len != 8) || (e.2 == 0 && pin < 104) || (e.2 + 1 == len && 112 ≤ pin)))

/-- R182: a configuration for a region of `len` patches. -/
def configOk (len : Nat) (groups : List (List CFrame)) : Bool :=
  let arms := groups.map fun fs => (fs.head?).elim false ptArm
  groups.length == len && groups.all groupOk && groups.all connsOk && arms.all (fun a => some a == arms.head?)
    && oneSource groups
    && edgesOk len groups && (groups.flatMap fun fs => (patchDescs fs).filter Desc.isRoot).length ≤ 1

/-- R455: the relative patches of a configuration that name an mx pin. -/
def mxPatches (groups : List (List CFrame)) : List Nat :=
  (groups.zipIdx).filterMap fun e =>
    if (patchConns e.1).any fun c => c.src == 94 || c.src == 95 || c.dst == 94 || c.dst == 95 then some e.2 else none

/-- R455: whether a configuration that names mx pins in some relative patches may run at a base. -/
def mxOk (base : Nat) (names : List Nat) : Bool :=
  names.all fun p => base + p == 1 || base + p == 3 || base + p == 4 || base + p == 6

end Sys2Proof.Machine
end

