-- ==== Sys2Proof/Machine/Fabric.lean ====
section
/-! DEFINITION. Arcs (R240, R245 to R247), how a token enters and leaves one, clasps on delivery (R283), boundary pins of a rolling
swap (R188), kind conversion (R239), permits (R352) and region faults (R16, R402). -/

namespace Sys2Proof.Machine

/-! ### Tokens (R237 to R239) -/

/-- Lane `n` of a token. -/
def Token.lane (t : Token) (n : Nat) : Lane := t.data.extractLsb' (32 * n) 32

/-- Sixteen lanes as token data, lane 0 lowest. -/
def packLanes : List Lane → BitVec 512
  | [] => 0
  | l :: ls => l.setWidth 512 ||| (packLanes ls <<< 32)

/-- A vector token of lanes. -/
def vecToken (ls : List Lane) (mask : BitVec 16) : Token := ⟨.vector, packLanes ls, mask, 0, none⟩
/-- A scalar token. -/
def scalarToken (v : Lane) : Token := ⟨.scalar, v.setWidth 512, 1, 0, none⟩
/-- A control token of value 1. -/
def doneToken : Token := ⟨.control, 1, 1, 0, none⟩
/-- A marker token of a kind (R238): data and mask 0. -/
def markToken (k : TokKind) (m : BitVec 3) : Token := ⟨k, 0, 0, m, none⟩

/-- EOS (Table 10-2). -/
def eosMark : BitVec 3 := 7

/-- Table 10-3: what a vector pin, a scalar pin and a control value see. -/
def Token.asVector (t : Token) : Token := { t with kind := .vector }
def Token.value (t : Token) : Lane := if t.kind = .vector && !t.mask.getLsbD 0 then 0 else t.lane 0
def Token.asScalar (t : Token) : Token :=
  if t.mark = 0 then { scalarToken t.value with scale := t.scale } else markToken .scalar t.mark
def Token.isTrue (t : Token) : Bool := t.value != 0

/-! ### Paths (R240, R246) -/

/-- The frames of patch `p`'s active bank. -/
def Region.frames (g : Region) (p : Nat) : List CFrame := (g.active.get ⟨.invalid, [], []⟩ p).frames

/-- The connections that every patch's active bank makes, by patch. -/
def Region.conns (g : Region) : List (List Conn) := (List.range g.len).map fun p => patchConns (g.frames p)

/-- Where a path ends: a unit pin, and the track through which it enters the pin's patch; or the edge of a patch that has not
swapped yet (R188). -/
inductive End where
  | pin (p pin : Nat) (via : Option Nat)
  | edge (track p : Nat)
deriving DecidableEq, Repr

/-- The ends of a track that patches see: patch and pin. -/
def trackEnds (len p pin : Nat) : List (Nat × Nat) :=
  if 104 ≤ pin ∧ pin < 112 then (List.range len).map fun q => (q, pin)
  else if pin < 104 then (p, pin) :: (if 0 < p then [(p - 1, pin + 16)] else [])
  else (p, pin) :: (if p + 1 < len then [(p + 1, pin - 16)] else [])

/-- R188: a path from a patch that has swapped in the step in progress is held at the edge of one that has not. -/
def Region.heldEdge (g : Region) (p q : Nat) : Bool := g.fab.swapped.contains p && !g.fab.swapped.contains q

/-- The ends reached from pin `pin` of patch `p` (of box `box`, for a track), following connections. `via` is the track that led
there; `hold` says that paths end at held edges. The path's length is bounded by `fuel`, since each track has one driver. -/
def Region.follow (g : Region) (cs : List (List Conn)) (hold : Bool) : Nat → Nat → Option Nat → Nat → Option Nat → List End
  | 0, _, _, _, _ => []
  | fuel + 1, p, box, pin, via =>
    let here := (cs.getD p []).filter fun c => c.src == pin && (box.isNone || box == some c.box)
    here.flatMap fun c =>
      if isTrack c.dst then
        (trackEnds g.len p c.dst).flatMap fun e =>
          if hold && g.heldEdge p e.1 && e.1 != p then [.edge (trackOf p c.box c.dst) e.1]
          else g.follow cs hold fuel e.1 (some c.box) e.2 (if e.1 = p then via else some (trackOf p c.box c.dst))
      else [.pin p c.dst via]

/-- More than the tracks of a core. -/
def pathFuel : Nat := 600

/-- Table 10-6. -/
def arcId (sp spin dp dpin : Nat) : Nat := sp % 8 * 2 ^ 21 + spin * 2 ^ 14 + dp % 8 * 2 ^ 11 + dpin * 2 ^ 4
def arcSp (id : Nat) : Nat := id / 2 ^ 21 % 8
def arcSpin (id : Nat) : Nat := id / 2 ^ 14 % 128
def arcDp (id : Nat) : Nat := id / 2 ^ 11 % 8
def arcDpin (id : Nat) : Nat := id / 2 ^ 4 % 128

/-- The key of the tokens that a source holds at the edge of patch `q` on a track; and its parts. -/
def edgeKey (track q sp spin : Nat) : Nat := track * 2 ^ 13 + q * 2 ^ 10 + sp * 2 ^ 7 + spin
def edgeTrack (key : Nat) : Nat := key / 2 ^ 13
def edgePatch (key : Nat) : Nat := key / 2 ^ 10 % 8
def edgeSp (key : Nat) : Nat := key / 2 ^ 7 % 8
def edgeSpin (key : Nat) : Nat := key % 2 ^ 7

/-- The operators of a CT that drive or read pin `n`: for readers, slot × 3 + input. -/
def ctDriven (ds : List Desc) (n : Nat) : Bool := ds.any fun d => d.drives.contains n
def ctReaders (ds : List Desc) (n : Nat) : List Nat :=
  (ds.zipIdx).flatMap fun e => (e.1.reads.filter fun r => r.2 == n).map fun r => 3 * e.2 + r.1

/-- The arcs and edges that a source pin feeds, as keys of `arcs` or of `edges`. -/
inductive Feed where
  | arc (id : Nat)
  | edge (key : Nat)
deriving DecidableEq, Repr

def End.key (sp spin : Nat) : End → Feed
  | .pin q d _ => .arc (arcId sp spin q d)
  | .edge t q => .edge (edgeKey t q sp spin)

/-- R246, R262: whether an end is one that tokens reach: a CT pin that no operator reads is no unit's input. -/
def End.read (fs : List (List CFrame)) : End → Bool
  | .pin q d _ => !isCt d || !(ctReaders (patchDescs (fs.getD q [])) (d - 72)).isEmpty
  | .edge _ _ => true

/-- Ends that tokens reach, each arc and edge once. -/
def endsOnce (fs : List (List CFrame)) (p pin : Nat) (es : List End) : List End :=
  (es.filter fun e => e.read fs).foldl (fun acc e => if acc.any fun x => x.key p pin == e.key p pin then acc else acc ++ [e]) []

/-- The ends of a source pin, over the frames `fs` and connections `cs` of every patch: those reached through the switch boxes, and for a CT
pin its own readers (R262). -/
def Region.endsIn (g : Region) (fs : List (List CFrame)) (cs : List (List Conn)) (hold : Bool) (p pin : Nat) : List End :=
  let own : List End := if isCt pin then [.pin p pin none] else []
  endsOnce fs p pin (own ++ g.follow cs hold pathFuel p none pin none)

/-- Every patch's active frames. -/
def Region.allFrames (g : Region) : List (List CFrame) := (List.range g.len).map g.frames

/-- The ends of a source pin as the patches' active banks stand. -/
def Region.ends (g : Region) (p pin : Nat) : List End := g.endsIn g.allFrames g.conns true p pin

/-- The source pins of a patch. -/
def sourcePins : List Nat := (List.range 128).filter fun pin => isOutput pin || isCt pin

/-- Every arc of the region (R247) over the frames `fs` of its patches, with the track by which it enters its reader's patch. -/
def Region.arcsIn (g : Region) (fs : List (List CFrame)) (hold : Bool) : List (Nat × Option Nat) :=
  let cs := fs.map patchConns
  (List.range g.len).flatMap fun p => sourcePins.flatMap fun spin =>
    if isCt spin && !ctDriven (patchDescs (fs.getD p [])) (spin - 72) then []
    else (g.endsIn fs cs hold p spin).filterMap fun e => match e with
      | .pin q d via => some (arcId p spin q d, via)
      | .edge _ _ => none

/-- Every arc as the patches' active banks stand. -/
def Region.allArcs (g : Region) : List Nat := (g.arcsIn g.allFrames true).map fun e => e.1

/-- R188: the frames of the configuration that a rolling step in progress goes to: a patch that has not swapped holds them in its shadow
bank. -/
def Region.newFrames (g : Region) : List (List CFrame) :=
  (List.range g.len).map fun p => if g.fab.swapped.contains p then g.frames p else (g.shadow.get ⟨.invalid, [], []⟩ p).frames

/-- R188, R289: the arcs of the configuration that patch `p` runs: during a rolling step a patch that has not swapped runs the one that the step
began from, and one that has runs the next. -/
def Region.arcsOf (g : Region) (p : Nat) : List (Nat × Option Nat) :=
  if g.fab.swapped.isEmpty then g.arcsIn g.allFrames true
  else if g.fab.swapped.contains p then g.arcsIn g.newFrames false
  else g.fab.before

/-- R405: the arc that reaches pin `pin` of patch `p`, for the record of a fault at no token at hand; 0 when none does. -/
def Region.arcInto (g : Region) (p pin : Nat) : Nat :=
  (((g.arcsOf p).find? fun e => arcDp e.1 == p && arcDpin e.1 == pin).map fun e => e.1).getD 0

/-- Whether an arc reaches input pin `pin` of patch `p` in the configuration that it runs. -/
def Region.reached (g : Region) (p pin : Nat) : Bool := (g.arcsOf p).any fun e => arcDp e.1 == p && arcDpin e.1 == pin

/-! ### Room and arrival -/

/-- Tokens in an arc or at an edge. -/
def Region.laneToks (g : Region) : Feed → List Token
  | .arc id => g.fab.arcs.get [] id
  | .edge k => g.fab.edges.get [] k

/-- R240: a source pin has room when everything that it feeds holds fewer than two tokens. -/
def Region.room (g : Region) (p pin : Nat) : Bool := (g.ends p pin).all fun e => (g.laneToks (e.key p pin)).length < 2

/-- Set or clear a pin's EOS mark (R188, R289). -/
def Region.markPin (g : Region) (p pin : Nat) (eos : Bool) : Region :=
  let n := 128 * p + pin
  let l := g.fab.eos.filter fun x => x != n
  { g with fab := { g.fab with eos := if eos then n :: l else l } }

/-- A token appended to an arc or an edge. -/
def Region.append (g : Region) (l : Feed) (t : Token) : Region :=
  match l with
  | .arc id => { g with fab := { g.fab with arcs := g.fab.arcs.upd [] id fun q => q ++ [t] } }
  | .edge k => { g with fab := { g.fab with edges := g.fab.edges.upd [] k fun q => q ++ [t] } }

/-- R314: whether scale metadata stays attached to a token: an LX keeps what it attached; an AG attaches only for an LX. -/
def keepsScale (spin dpin : Nat) : Bool := spin == 90 || spin == 91 || ((spin == 64 || spin == 68) && (dpin == 88 || dpin == 89))

/-- What of a token stays attached to it on the way from a source pin to an end: at a held edge all of it, until the pin beyond is known. -/
def End.carried (spin : Nat) (t : Token) : End → Token
  | .pin _ dpin _ => if keepsScale spin dpin then t else { t with scale := none }
  | .edge _ _ => t

/-- A token leaves a source pin: it goes to every arc that the pin drives; with none it is discarded (R240). -/
def Region.put (g : Region) (p pin : Nat) (t : Token) : Region :=
  let g := (g.ends p pin).foldl (fun (g : Region) e => g.append (e.key p pin) (e.carried pin t)) g
  { (g.markPin p pin (t.mark == eosMark)) with moved := true }

/-! ### Delivery -/

/-- The clasps set on an arc of region `hdl` (R283). -/
def Core.claspsOn (k : Core) (hdl id : Nat) : List Nat :=
  (List.range 8).filter fun n =>
    let c := k.clasp n
    c.en && c.hdl.toNat == hdl && c.arc.toNat == id

/-- R283: an arc that a clasp with budget 0 holds delivers nothing. -/
def Core.claspHolds (k : Core) (hdl id : Nat) : Bool := (k.claspsOn hdl id).any fun n => (k.clasp n).budget == 0

/-- The arc whose token pin `pin` of patch `p` is to take next: one that no longer stands in the configuration first (R188). -/
def Region.feeder (g : Region) (p pin : Nat) : Option Nat :=
  let ids := (g.fab.arcs.filter fun e => arcDp e.1 == p && arcDpin e.1 == pin && !e.2.isEmpty).map fun e => e.1
  if ids.length ≤ 1 then ids.head?
  else
    let now := g.allArcs
    (ids.find? fun id => !now.contains id).orElse fun _ => ids.head?

/-- R182, R188: whether patch `p` steps by rolling swap: its active configuration's arm. -/
def Region.armed (g : Region) (p : Nat) : Bool := ((g.frames p).head?).elim false ptArm

/-- The token that an input pin of a unit other than a CT sees, with its arc. -/
def Core.peek (k : Core) (hdl : Nat) (g : Region) (p pin : Nat) : Option (Nat × Token) :=
  match g.feeder p pin with
  | none => none
  | some id =>
    if k.claspHolds hdl id || (arcSp id != p && g.armed p && g.fab.eos.contains (128 * p + pin)) then none
    else ((g.fab.arcs.get [] id).head?).map fun t => (id, t)

/-- R283: the core after an arc has delivered a token. -/
def Core.countClasp (k : Core) (hdl id : Nat) : Core :=
  (k.claspsOn hdl id).foldl (fun (k : Core) n =>
    let c := k.clasp n
    { k with clasps := k.clasps.set n { c with budget := c.budget - 1 } }) k

/-- The head token of an arc is gone. -/
def Region.pop (g : Region) (id : Nat) : Region :=
  let q := g.fab.arcs.get [] id
  let g := { g with moved := true, fab := { g.fab with arcs := g.fab.arcs.set id q.tail } }
  match q.head? with
  | some t => if t.mark = eosMark then g.markPin (arcDp id) (arcDpin id) true else g
  | none => g

/-- What a firing works on: the core, the region. -/
structure Site where
  k : Core
  g : Region
deriving DecidableEq, Repr

/-- A unit's input takes the head token of an arc. -/
def Site.take (x : Site) (hdl id : Nat) : Site := ⟨x.k.countClasp hdl id, x.g.pop id⟩

/-- R262: the token that input `rd` (slot × 3 + input) of a CT sees on pin `n`, with its arc. -/
def Core.peekCt (k : Core) (hdl : Nat) (g : Region) (p n rd : Nat) : Option (Nat × Token) :=
  let taken := g.fab.taken.get [] (16 * p + n)
  if taken.contains rd then none
  else match g.feeder p (72 + n) with
    | none => none
    | some id =>
      if (taken.isEmpty && k.claspHolds hdl id) || (arcSp id != p && g.armed p && g.fab.eos.contains (128 * p + 72 + n)) then none
      else ((g.fab.arcs.get [] id).head?).map fun t => (id, t)

/-- R262: a CT input takes the token on its pin; it leaves the arc when every reader has taken it. -/
def Site.takeCt (x : Site) (hdl p n rd id : Nat) : Site :=
  let key := 16 * p + n
  let taken := rd :: x.g.fab.taken.get [] key
  let k := if taken.length = 1 then x.k.countClasp hdl id else x.k
  let all := (ctReaders (patchDescs (x.g.frames p)) n).all taken.contains
  let g := { x.g with moved := true, fab := { x.g.fab with taken := if all then x.g.fab.taken.erase key else x.g.fab.taken.set key taken } }
  ⟨k, if all then g.pop id else g⟩

/-! ### Running regions -/

/-- Whether a region's units may fire (R169, R192, R193, R422). -/
def State.liveRegion (s : State) (c h : Nat) : Option Region :=
  (Core.regions (s.core c)).find? h |>.filter fun g =>
    g.run == .running && !g.moving && !s.frozen (some g.gang)

/-- The module with a firing's core and region. -/
def State.putSite (s : State) (c h : Nat) (x : Site) : State :=
  s.setCore c { x.k with regions := x.k.regions.set h x.g }

/-- R352: a rate scaled by the gang's throttle level; 0 is unlimited. -/
def Core.scaled (k : Core) (g : Region) (rate : Nat) : Nat :=
  let t := (k.gangInfo? g.gang).elim 0 fun i => i.level
  if rate = 0 then 0 else max 1 (rate * (8 - t) / 8)

/-- R351: the rates in force. -/
def Core.fabRate (k : Core) (g : Region) : Nat := k.scaled g (rfld k.permitsNow 32 16)
def Core.sfuRate (k : Core) (g : Region) : Nat := k.scaled g (rfld k.permitsNow 16 16)
def Core.memRate (k : Core) (g : Region) : Nat := k.scaled g (rfld k.permitsNow 0 16)

/-- R352: whether a stage firing has its permits, those of the present stitch. -/
def Site.mayFire (x : Site) (stitch : Word) (p : Nat) (sfu : Bool) : Bool :=
  x.k.refilled == stitch.toNat && (x.k.fabRate x.g == 0 || x.g.fab.fabLeft.get (x.k.fabRate x.g) p != 0)
    && (!sfu || x.k.sfuRate x.g == 0 || x.g.fab.sfuLeft.get (x.k.sfuRate x.g) p != 0)

/-- R352: the permits of a stage firing are used. -/
def Site.spendFire (x : Site) (p : Nat) (sfu : Bool) : Site :=
  let f := x.g.fab
  let a := x.k.fabRate x.g
  let b := x.k.sfuRate x.g
  let f := if a = 0 then f else { f with fabLeft := f.fabLeft.set p (f.fabLeft.get a p - 1) }
  let f := if b = 0 || !sfu then f else { f with sfuLeft := f.sfuLeft.set p (f.sfuLeft.get b p - 1) }
  { x with g := { x.g with fab := f } }

/-- R352: the permit of one AG request of region `h` is taken, if one is left in this stitch. -/
def State.payRequest (c h : Nat) (s : State) : Option State :=
  let k := s.core c
  match k.regions.find? h with
  | none => none
  | some g =>
    let r := k.memRate g
    let left := g.fab.memLeft.getD r
    if k.refilled ≠ s.stitch.toNat then none
    else if r = 0 then some s
    else if left = 0 then none
    else some (s.setCore c { k with regions := k.regions.set h { g with fab := { g.fab with memLeft := some (left - 1) } } })

/-! ### Region faults -/

/-- Where in a region a fault arises (Table 20-3): unit, unit index, relative patch, CU stage, arc. -/
structure UnitPos where
  unit : Nat
  uidx : Nat
  patch : Nat
  stage : Nat
  arc : Nat
deriving DecidableEq, Repr

/-- EINFO0 of a region's record. -/
def info0Of (cfgpc : Nat) (u : UnitPos) (detail : Nat) : Word :=
  BitVec.ofNat 64 (cfgpc % 64 * 2 ^ 48 + u.unit * 2 ^ 44 + u.uidx * 2 ^ 40 + u.patch * 2 ^ 37 + u.stage * 2 ^ 32 + u.arc * 2 ^ 8 + detail)

/-- The port of a unit of region `h` of core `c`. -/
def UnitPos.port (u : UnitPos) (c h : Nat) : Port := .unit c h u.unit (16 * u.patch + u.uidx)

/-- The region with an AG's writes that came back with an error to be sent again. -/
def Region.redo (g : Region) (u : UnitPos) (ps : List Put) : Region :=
  if ps.isEmpty then g
  else { g with fab := { g.fab with ags := g.fab.ags.map fun (e : Nat × AgState) =>
      if u.unit = 4 ∧ e.1 = 2 * u.patch + u.uidx then (e.1, { e.2 with failed := e.2.failed ++ ps }) else e } }

/-- R16, R402: a region stops at a faulting token with a record of kind 1; with none free its unit withholds acknowledgement. What the unit
has read is asked for again if the region goes on. A translation that is not buffered is no fault: the unit waits for its walk (R100). -/
def State.regionFault (s : State) (c h : Nat) (u : UnitPos) (t : Trap) : State :=
  let k := s.core c
  if t.isMiss then s.miss c (u.port c h) t.info1
  else match k.regions.find? h, k.freeFrec with
  | some g, some ix =>
    let r : Frec := ⟨.region h, t.cause, 0, info0Of g.cfgpc u t.detail, t.info1, t.info2, info3 (.region h) 0 (some g.gang) c 0, 0,
      some g.gang, false⟩
    let g := g.redo u (k.failedPuts (u.port c h))
    ((s.setCore c ({ k with regions := k.regions.set h { g with run := .faulted } }.dropFailed (u.port c h))).raise c ix r).tookFault (u.port c h)
  | _, _ => s

/-- A firing: it cannot happen now, it faults and consumes nothing, or it happens. -/
inductive Fired where
  | no
  | bad (u : UnitPos) (t : Trap)
  | go (s : State)
deriving DecidableEq, Repr

/-- The first firing that can happen. -/
def Fired.or (a : Fired) (b : Fired) : Fired :=
  match a with
  | .no => b
  | x => x

/-- The module after a firing of a region. -/
def Fired.apply (f : Fired) (c h : Nat) (s : State) : State :=
  match f with
  | .no => s
  | .bad u t => s.regionFault c h u t
  | .go s => s

/-- A firing of a live region. -/
def State.firingOf (s : State) (c h : Nat) (f : Region → Fired) : State :=
  match s.liveRegion c h with
  | none => s
  | some g => (f g).apply c h s

/-- A token's ILLEGAL (Table 20-5: token word 0 or lane 0). -/
def illegalToken (t : Token) : Trap := { cause := .illegal, info1 := (t.lane 0).setWidth 64 }

/-- R242: whether tokens carry one marker, none of them reserved. -/
def sameMark (ts : List Token) : Bool := ts.all fun t => t.mark != 5 && (ts.head?).elim true fun u => t.mark == u.mark

/-- R314: the FORMAT of scale metadata that a unit does not take, or misses: no access raises it (log 44). -/
def strayTrap : Trap := { cause := .format, info1 := Config.strayVa, info2 := Config.strayView }

/-- R314: scale metadata on a token at a unit that takes none. -/
def strayScale (ts : List Token) : Bool := ts.any fun t => t.scale.isSome

end Sys2Proof.Machine
end

