-- ==== Sys2Proof/Machine/Cell.lean ====
section
/-! DEFINITION. The compute unit (R248 to R261): the cell operations, a stage's firing. -/

namespace Sys2Proof.Machine

/-! ### Cell operations (Tables 10-8 to 10-14) -/

/-- Table 10-7: what a cell reads; `lanes` and `mask` are the stage's incoming token, `n` the lane. -/
structure CellIn where
  rm : BitVec 2
  a : Lane
  b : Lane
  imm : Lane
  h : Lane
  h0 : Lane
  c : Lane
  n : Nat
  lanes : List Lane
  mask : BitVec 16
deriving DecidableEq, Repr

/-- What a cell makes: its result, its carry, its hold register when the operation writes it, conversion status. -/
structure CellOut where
  r : Lane
  carry : Lane
  hold : Option Lane
  status : BitVec 3
deriving DecidableEq, Repr

/-- A result with nothing else. -/
def CellOut.of (r : Lane) : CellOut := ⟨r, 0, none, 0⟩

/-- A condition as a word. -/
def boolLane (b : Bool) : Lane := if b then 1 else 0

/-- R255, DOT4: four signed byte products. -/
def dot4Sum (a b : Lane) : Int :=
  (List.range 4).foldl (fun acc j => acc + (a.extractLsb' (8 * j) 8).toInt * (b.extractLsb' (8 * j) 8).toInt) 0

/-- Set bits of a word. -/
def popLane (a : Lane) : Nat := ((List.range 32).filter fun i => a.getLsbD i).length

/-- Leading zeros of a word. -/
def clzLane (a : Lane) : Nat := if a = 0 then 32 else 31 - Nat.log2 a.toNat

/-- Table 10-8. -/
def cellInt (op : Nat) (x : CellIn) : CellOut :=
  let a := x.a
  let b := x.b
  match op with
  | 0x00 => .of a
  | 0x01 => .of x.imm
  | 0x10 => .of (a + b)
  | 0x11 => .of (a - b)
  | 0x12 => let t := a.toNat + b.toNat + x.c.toNat
            ⟨BitVec.ofNat 32 t, BitVec.ofNat 32 (t / 2 ^ 32), none, 0⟩
  | 0x13 => let t : Int := (a.toNat : Int) - b.toNat - x.c.toNat
            ⟨BitVec.ofInt 32 t, BitVec.ofInt 32 (-(t / 2 ^ 32)), none, 0⟩
  | 0x14 => .of (a * b)
  | 0x15 => .of (BitVec.ofInt 32 (a.toInt * b.toInt / 2 ^ 32))
  | 0x16 => let t := a.toNat * b.toNat + x.h.toNat + x.c.toNat
            ⟨BitVec.ofNat 32 t, BitVec.ofNat 32 (t / 2 ^ 32), none, 0⟩
  | 0x17 => .of (a * b + x.h)
  | 0x18 => .of (a &&& b)
  | 0x19 => .of (a ||| b)
  | 0x1A => .of (a ^^^ b)
  | 0x1B => .of (a <<< (b.toNat % 32))
  | 0x1C => .of (a >>> (b.toNat % 32))
  | 0x1D => .of (a.sshiftRight (b.toNat % 32))
  | 0x1E => .of (if b.toInt < a.toInt then b else a)
  | 0x1F => .of (if a.toInt < b.toInt then b else a)
  | 0x20 => .of (if b.toNat < a.toNat then b else a)
  | 0x21 => .of (if a.toNat < b.toNat then b else a)
  | 0x22 => .of (boolLane (decide (a.toInt < b.toInt)))
  | 0x23 => .of (if x.h0 ≠ 0 then a else b)
  | 0x24 => .of (x.h + BitVec.ofInt 32 (dot4Sum a b))
  | 0x25 => .of (if a.toInt < 0 then -a else a)
  | 0x26 => .of (BitVec.ofNat 32 (popLane a))
  | _ => .of (BitVec.ofNat 32 (clzLane a))

/-- Table 10-9. -/
def cellFloat (op : Nat) (x : CellIn) : CellOut :=
  let a := x.a
  let b := x.b
  match op with
  | 0x30 => .of (fadd32 x.rm a b)
  | 0x31 => .of (fadd32 x.rm a (b ^^^ 0x80000000))
  | 0x32 => .of (fmul32 x.rm a b)
  | 0x33 => .of (ffma32 x.rm a b x.h)
  | 0x34 => .of (fmin32 a b)
  | 0x35 => .of (fmax32 a b)
  | 0x36 => .of (boolLane ((f32 a).lt (f32 b)))
  | 0x37 => .of (if x.h0 ≠ 0 then a else b)
  | _ => .of (toF32 x.rm ((f32 a).mod (f32 b)))

/-- Element `j` of a word of two BF16 elements. -/
def halfOf (a : Lane) (j : Nat) : BitVec 16 := a.extractLsb' (16 * j) 16

/-- A word of two BF16 elements. -/
def pairOf (f : Nat → BitVec 16) : Lane := f 1 ++ f 0

/-- Table 10-10. -/
def cellPair (op : Nat) (x : CellIn) : CellOut :=
  let a (j : Nat) := b16 (halfOf x.a j)
  let b (j : Nat) := b16 (halfOf x.b j)
  match op with
  | 0x40 => .of (pairOf fun j => toB16 x.rm (Exact.sum x.rm [a j, b j]))
  | 0x41 => .of (pairOf fun j => toB16 x.rm ((a j).mul (b j)))
  | 0x42 => .of (pairOf fun j => toB16 x.rm (Exact.sum x.rm [(a j).mul (b j), b16 (halfOf x.h j)]))
  | 0x43 => .of (pairOf fun j => BitVec.ofNat 16 (Fmt.bf16.pick true (halfOf x.a j).toNat (halfOf x.b j).toNat))
  | _ => .of (toF32 x.rm (Exact.sum x.rm [(a 0).mul (b 0), (a 1).mul (b 1), f32 x.h]))

/-- Table 10-11. -/
def cellConv (op : Nat) (x : CellIn) : CellOut :=
  match op with
  | 0x50 => let r := cvtFromInt x.rm x.a
            ⟨r.1, 0, none, r.2⟩
  | 0x51 => let r := cvtToInt x.rm (f32 x.a)
            ⟨r.1, 0, none, r.2⟩
  | 0x52 => let lo := convElem .fp32 .bf16 x.rm false x.a.toNat
            let hi := convElem .fp32 .bf16 x.rm false x.b.toNat
            ⟨BitVec.ofNat 16 hi.1 ++ BitVec.ofNat 16 lo.1, 0, none, lo.2 ||| hi.2⟩
  | _ => let r := convElem .bf16 .fp32 x.rm false (halfOf x.a (if x.b.getLsbD 0 then 1 else 0)).toNat
         ⟨BitVec.ofNat 32 r.1, 0, none, r.2⟩

/-- Table 10-12. -/
def cellSfu (op : Nat) (x : CellIn) : CellOut :=
  let a := f32 x.a
  .of (toF32 x.rm (match op with
    | 0x60 => a.rcp
    | 0x61 => a.rsq
    | 0x62 => a.sqrt
    | 0x63 => a.exp2
    | _ => a.log2))

/-- R260: the source lane of a shuffle, and whether the operation is one. -/
def shuffleFrom (op n : Nat) (b : Lane) : Option Nat :=
  let s := b.toNat % 16
  match op with
  | 0x70 => some ((n + s) % 16)
  | 0x71 => some ((n + 16 - s) % 16)
  | 0x72 => some s
  | _ => none

/-- The valid lanes of a token, in ascending order. -/
def validLanes (ls : List Lane) (mask : BitVec 16) : List Lane :=
  (List.zip ls (List.range 16)).filterMap fun e => if mask.getLsbD e.2 then some e.1 else none

/-- Table 10-13. -/
def cellLanes (op : Nat) (x : CellIn) : CellOut :=
  match shuffleFrom op x.n x.b with
  | some l => .of (x.lanes.getD l 0)
  | none =>
    let v := validLanes x.lanes x.mask
    match op with
    | 0x73 => .of (v.foldl (fun acc l => acc + l) 0)
    | 0x74 => .of (v.foldl (fun acc l => if acc.toInt < l.toInt then l else acc) 0x80000000)
    | _ => .of (match v with
      | [] => 0
      | [l] => toF32 x.rm (f32 l)
      | l :: ls => ls.foldl (fadd32 x.rm) l)

/-- Table 10-14. -/
def cellHold (op : Nat) (x : CellIn) : CellOut :=
  match op with
  | 0x78 => ⟨x.a, 0, some x.a, 0⟩
  | 0x79 => ⟨x.h + x.a, 0, some (x.h + x.a), 0⟩
  | 0x7A => let r := fadd32 x.rm x.h x.a
            ⟨r, 0, some r, 0⟩
  | _ => ⟨x.h, 0, some 0, 0⟩

/-- R255 to R261: a cell operation. -/
def cellOp (op : Nat) (x : CellIn) : CellOut :=
  if op < 0x30 then cellInt op x
  else if op < 0x40 then cellFloat op x
  else if op < 0x50 then cellPair op x
  else if op < 0x60 then cellConv op x
  else if op < 0x70 then cellSfu op x
  else if op < 0x78 then cellLanes op x
  else cellHold op x

/-! ### A stage (R248 to R254) -/

/-- The key of a stage, and of hold register `h` of its lane `n`. -/
def stageKey (p cu st : Nat) : Nat := (p * 4 + cu) * 6 + st
def holdKey (stage n h : Nat) : Nat := (stage * 16 + n) * 4 + h

/-- What a stage firing consumes as data: its frame, the incoming lanes and mask, the inb token, the immediate, the carry into
lane 0. -/
structure StageIn where
  f : CFrame
  key : Nat
  lanes : List Lane
  mask : BitVec 16
  port : Option Token
  imm : Lane
  ci : Lane
deriving DecidableEq, Repr

/-- R249, R253: whether lane `n`'s cell computes. -/
def StageIn.valid (i : StageIn) (n : Nat) (op : Nat) (b : Lane) : Bool :=
  match shuffleFrom op n b with
  | some l => i.mask.getLsbD l
  | none => i.mask.getLsbD n && match i.port with
    | some t => t.mask.getLsbD n
    | none => true

/-- Table 10-7: operand B of lane `n`. -/
def StageIn.operandB (i : StageIn) (h : Lane) (n bsrc : Nat) : Lane :=
  match bsrc with
  | 0 => i.imm
  | 1 => h
  | 2 => if n = 0 then 0 else i.lanes.getD (n - 1) 0
  | _ => (i.port.map fun t => t.lane n).getD 0

/-- What a data firing makes so far: result lanes (highest first), mask, the carry out of the last lane, hold registers, status. -/
structure StageOut where
  lanes : List Lane
  mask : BitVec 16
  carry : Lane
  holds : Tab Lane
  status : BitVec 3
deriving DecidableEq, Repr

/-- R249 to R253: lane `n` of a data firing. -/
def StageIn.lane (i : StageIn) (o : StageOut) (n : Nat) : StageOut :=
  let l := cuLane i.f n
  let hk := holdKey i.key n (cuHidx i.f)
  let h := o.holds.get 0 hk
  let cin : Lane := if laneCin l then o.carry else 0
  let b := i.operandB h n (laneBsrc l)
  if i.valid n (laneOp l) b then
    let r := cellOp (laneOp l) ⟨cuRm i.f, i.lanes.getD n 0, b, i.imm, h, o.holds.get 0 (holdKey i.key n 0), cin, n, i.lanes, i.mask⟩
    let holds := match r.hold with
      | some v => o.holds.set hk v
      | none => if laneHw l then o.holds.set hk r.r else o.holds
    ⟨r.r :: o.lanes, o.mask ||| (1 <<< n), r.carry, holds, o.status ||| r.status⟩
  else ⟨0 :: o.lanes, o.mask, cin, o.holds, o.status⟩

/-- R249 to R254: a data firing. -/
def StageIn.fire (i : StageIn) (holds : Tab Lane) : StageOut :=
  (List.range 16).foldl (fun o n => i.lane o n) ⟨[], 0, i.ci, holds, 0⟩

/-- R252: whether a marker resets the hold registers of a stage. -/
def resetsHold (hrst : Nat) (m : BitVec 3) : Bool := hrst != 0 && m != 6 && decide (hrst ≤ m.toNat)

/-- R259: RCP to LOG2. -/
def usesSfu (f : CFrame) : Bool := (List.range 16).any fun n => 0x60 ≤ laneOp (cuLane f n) && laneOp (cuLane f n) ≤ 0x64

/-- R251: the highest-numbered stage of a CU that has cin = 1 in any lane. -/
def carryStage (fs : List CFrame) (cu : Nat) : Option Nat :=
  ((List.range 6).filter fun s => (stageFrame fs cu s).elim false takesCarry).getLast?

/-- The inputs that a stage's firing needs: arcs with their tokens, besides the token of the stage before. None: one is missing. -/
def stageInputs (k : Core) (h : Nat) (g : Region) (p : Nat) (pins : List Nat) : Option (List (Nat × Token)) :=
  pins.foldl (fun acc pin => match acc, k.peek h g p pin with
    | some l, some e => some (l ++ [e])
    | _, _ => none) (some [])

/-- R248: the token that enters a stage: from its port, or from the stage before. -/
def stageToken (k : Core) (h : Nat) (g : Region) (p cu st : Nat) (f : CFrame) : Option (Option Nat × StageTok) :=
  if st = 0 then (k.peek h g p (12 * cu + cuIna f)).map fun e => (some e.1, ⟨e.2.asVector, none⟩)
  else (g.fab.stages.find? (stageKey p cu (st - 1))).map fun t => (none, t)

/-- R248, R250, R251: what else it consumes: the inb token, an immediate, a carry. -/
def stagePins (g : Region) (p cu st : Nat) (f : CFrame) (data : Bool) : List Nat :=
  let si := if st = 0 then [12 * cu + 6] else if st = 3 then [12 * cu + 7] else []
  (if usesPort f then [12 * cu + cuInb f] else []) ++ si.filter (g.reached p)
    ++ (if data && laneCin (cuLane f 0) && g.reached p (12 * cu + 10) then [12 * cu + 10] else [])

/-- R248: the pins that a stage's firing writes besides handing its token on: its tap, and the CU's carry. -/
def stageOuts (fs : List CFrame) (cu st : Nat) (f : CFrame) (data : Bool) : List Nat :=
  (if cuTap f = st then [12 * cu + 5, 12 * cu + 9] else []) ++ (if data && carryStage fs cu == some st then [12 * cu + 11] else [])

/-- What of the tokens on `pins` is at pin `pin`. -/
def tokenAt (pins : List Nat) (toks : List (Nat × Token)) (pin : Nat) : Option Token :=
  ((List.zip pins toks).find? fun e => e.1 == pin).map fun e => e.2.2

/-- R248: a token on a vector output and on its scalar twin. -/
def Region.putBoth (g : Region) (p vpin spin : Nat) (t : Token) : Region := (g.put p vpin t).put p spin t.asScalar

/-- R241, R242, R248 to R254: one stage fires. -/
def State.stageFire (s : State) (c h p cu st : Nat) (g : Region) : Fired :=
  let k := s.core c
  let fs := g.frames p
  match stageFrame fs cu st with
  | none => .no
  | some f =>
    let key := stageKey p cu st
    match stageToken k h g p cu st f with
    | none => .no
    | some (arc, a) =>
      let data := a.tok.mark == 0
      let pins := stagePins g p cu st f data
      match stageInputs k h g p pins with
      | none => .no
      | some toks =>
        let x : Site := ⟨k, g⟩
        if (g.fab.stages.find? key).isSome || !(stageOuts fs cu st f data).all (g.room p) || !x.mayFire s.stitch p (usesSfu f) then .no
        else
          let all := a.tok :: toks.map fun e => e.2
          let pos : UnitPos := ⟨1, cu, p, st, (arc.orElse fun _ => (toks.head?).map fun e => e.1).getD 0⟩
          if !sameMark all then .bad pos (illegalToken a.tok)
          else if strayScale all then .bad pos strayTrap
          else
            let x := (arc.toList ++ toks.map fun e => e.1).foldl (fun x id => x.take h id) (x.spendFire p (usesSfu f))
            let imm := if st = 0 then (tokenAt pins toks (12 * cu + 6)).map Token.value
              else if st = 3 then (tokenAt pins toks (12 * cu + 7)).map Token.value else a.imm
            let drop (g : Region) := { g with fab := { g.fab with stages := g.fab.stages.erase (stageKey p cu (st - 1)) } }
            let g1 := if st = 0 then x.g else drop x.g
            let out (g : Region) (t : Token) (holds : Tab Lane) : Region :=
              let g := { g with moved := true, fab := { g.fab with holds := holds, stages := g.fab.stages.set key ⟨t, imm⟩ } }
              if cuTap f = st then g.putBoth p (12 * cu + 5) (12 * cu + 9) t else g
            if data then
              let i : StageIn := ⟨f, key, (List.range 16).map a.tok.lane, a.tok.mask,
                if usesPort f then (tokenAt pins toks (12 * cu + cuInb f)).map Token.asVector else none,
                imm.getD (cuImm f), ((tokenAt pins toks (12 * cu + 10)).map Token.value).getD 0⟩
              let r := i.fire g1.fab.holds
              let g2 := out g1 (vecToken r.lanes.reverse r.mask) r.holds
              let g2 := if carryStage fs cu = some st then g2.put p (12 * cu + 11) (scalarToken r.carry) else g2
              .go (s.putSite c h ⟨x.k.addStatus (some g.gang) r.status, g2⟩)
            else
              let holds := if resetsHold (cuHrst f) a.tok.mark then
                  (List.range 16).foldl (fun (t : Tab Lane) n => t.set (holdKey key n (cuHidx f)) 0) g1.fab.holds
                else g1.fab.holds
              .go (s.putSite c h ⟨x.k, out g1 (markToken .vector a.tok.mark) holds⟩)

/-- R248: stage 5 hands its token to vo0 and so0. -/
def State.handOver (s : State) (c h p cu : Nat) (g : Region) : Fired :=
  match g.fab.stages.find? (stageKey p cu 5) with
  | none => .no
  | some t =>
    if g.room p (12 * cu + 4) && g.room p (12 * cu + 8) then
      let g := { g with fab := { g.fab with stages := g.fab.stages.erase (stageKey p cu 5) } }
      .go (s.putSite c h ⟨s.core c, g.putBoth p (12 * cu + 4) (12 * cu + 8) t.tok⟩)
    else .no

/-- Whether a stage's frame names a cell operation. -/
def stageNames (g : Region) (p cu st op : Nat) : Bool :=
  (stageFrame (g.frames p) cu st).elim false fun f => (List.range 16).any fun n => laneOp (cuLane f n) == op

/-- A firing of a stage that names operation `op`. -/
def cellEvent (op : Nat) (o : StageAt) (s : State) : Out :=
  .next (s.firingOf o.core o.hdl fun g =>
    if stageNames g o.patch o.cu o.stage op then s.stageFire o.core o.hdl o.patch o.cu o.stage g else .no)

/-! ### The rows -/

/-- R255, PASS: a stage whose frame names it fires. -/
def execPass (o : StageAt) (s : State) : Out := cellEvent 0x00 o s
/-- R255, CONST: a stage whose frame names it fires. -/
def execConst (o : StageAt) (s : State) : Out := cellEvent 0x01 o s
/-- R255, IADD: a stage whose frame names it fires. -/
def execIadd (o : StageAt) (s : State) : Out := cellEvent 0x10 o s
/-- R255, ISUB: a stage whose frame names it fires. -/
def execIsub (o : StageAt) (s : State) : Out := cellEvent 0x11 o s
/-- R255, IADDC: a stage whose frame names it fires. -/
def execIaddc (o : StageAt) (s : State) : Out := cellEvent 0x12 o s
/-- R255, ISUBB: a stage whose frame names it fires. -/
def execIsubb (o : StageAt) (s : State) : Out := cellEvent 0x13 o s
/-- R255, IMUL: a stage whose frame names it fires. -/
def execImul (o : StageAt) (s : State) : Out := cellEvent 0x14 o s
/-- R255, IMULH: a stage whose frame names it fires. -/
def execImulh (o : StageAt) (s : State) : Out := cellEvent 0x15 o s
/-- R255, IMACC: a stage whose frame names it fires. -/
def execImacc (o : StageAt) (s : State) : Out := cellEvent 0x16 o s
/-- R255, IMAD: a stage whose frame names it fires. -/
def execImad (o : StageAt) (s : State) : Out := cellEvent 0x17 o s
/-- R255, IAND: a stage whose frame names it fires. -/
def execIand (o : StageAt) (s : State) : Out := cellEvent 0x18 o s
/-- R255, IOR: a stage whose frame names it fires. -/
def execIor (o : StageAt) (s : State) : Out := cellEvent 0x19 o s
/-- R255, IXOR: a stage whose frame names it fires. -/
def execIxor (o : StageAt) (s : State) : Out := cellEvent 0x1A o s
/-- R255, ISHL: a stage whose frame names it fires. -/
def execIshl (o : StageAt) (s : State) : Out := cellEvent 0x1B o s
/-- R255, ISHR: a stage whose frame names it fires. -/
def execIshr (o : StageAt) (s : State) : Out := cellEvent 0x1C o s
/-- R255, ISAR: a stage whose frame names it fires. -/
def execIsar (o : StageAt) (s : State) : Out := cellEvent 0x1D o s
/-- R255, IMIN: a stage whose frame names it fires. -/
def execImin (o : StageAt) (s : State) : Out := cellEvent 0x1E o s
/-- R255, IMAX: a stage whose frame names it fires. -/
def execImax (o : StageAt) (s : State) : Out := cellEvent 0x1F o s
/-- R255, IMINU: a stage whose frame names it fires. -/
def execIminu (o : StageAt) (s : State) : Out := cellEvent 0x20 o s
/-- R255, IMAXU: a stage whose frame names it fires. -/
def execImaxu (o : StageAt) (s : State) : Out := cellEvent 0x21 o s
/-- R255, ICMP: a stage whose frame names it fires. -/
def execIcmp (o : StageAt) (s : State) : Out := cellEvent 0x22 o s
/-- R255, ISEL: a stage whose frame names it fires. -/
def execIsel (o : StageAt) (s : State) : Out := cellEvent 0x23 o s
/-- R255, DOT4: a stage whose frame names it fires. -/
def execDot4 (o : StageAt) (s : State) : Out := cellEvent 0x24 o s
/-- R255, IABS: a stage whose frame names it fires. -/
def execIabs (o : StageAt) (s : State) : Out := cellEvent 0x25 o s
/-- R255, IPOPC: a stage whose frame names it fires. -/
def execIpopc (o : StageAt) (s : State) : Out := cellEvent 0x26 o s
/-- R255, ICLZ: a stage whose frame names it fires. -/
def execIclz (o : StageAt) (s : State) : Out := cellEvent 0x27 o s
/-- R256, FADD: a stage whose frame names it fires. -/
def execFadd (o : StageAt) (s : State) : Out := cellEvent 0x30 o s
/-- R256, FSUB: a stage whose frame names it fires. -/
def execFsub (o : StageAt) (s : State) : Out := cellEvent 0x31 o s
/-- R256, FMUL: a stage whose frame names it fires. -/
def execFmul (o : StageAt) (s : State) : Out := cellEvent 0x32 o s
/-- R256, FFMA: a stage whose frame names it fires. -/
def execFfma (o : StageAt) (s : State) : Out := cellEvent 0x33 o s
/-- R256, FMIN: a stage whose frame names it fires. -/
def execFmin (o : StageAt) (s : State) : Out := cellEvent 0x34 o s
/-- R256, FMAX: a stage whose frame names it fires. -/
def execFmax (o : StageAt) (s : State) : Out := cellEvent 0x35 o s
/-- R256, FCMP: a stage whose frame names it fires. -/
def execFcmp (o : StageAt) (s : State) : Out := cellEvent 0x36 o s
/-- R256, FSEL: a stage whose frame names it fires. -/
def execFsel (o : StageAt) (s : State) : Out := cellEvent 0x37 o s
/-- R256, FMOD: a stage whose frame names it fires. -/
def execFmod (o : StageAt) (s : State) : Out := cellEvent 0x38 o s
/-- R257, HADD2: a stage whose frame names it fires. -/
def execHadd2 (o : StageAt) (s : State) : Out := cellEvent 0x40 o s
/-- R257, HMUL2: a stage whose frame names it fires. -/
def execHmul2 (o : StageAt) (s : State) : Out := cellEvent 0x41 o s
/-- R257, HFMA2: a stage whose frame names it fires. -/
def execHfma2 (o : StageAt) (s : State) : Out := cellEvent 0x42 o s
/-- R257, HMAX2: a stage whose frame names it fires. -/
def execHmax2 (o : StageAt) (s : State) : Out := cellEvent 0x43 o s
/-- R257, HDOT2: a stage whose frame names it fires. -/
def execHdot2 (o : StageAt) (s : State) : Out := cellEvent 0x44 o s
/-- R258, CVTIF: a stage whose frame names it fires. -/
def execCvtif (o : StageAt) (s : State) : Out := cellEvent 0x50 o s
/-- R258, CVTFI: a stage whose frame names it fires. -/
def execCvtfi (o : StageAt) (s : State) : Out := cellEvent 0x51 o s
/-- R258, CVTFH: a stage whose frame names it fires. -/
def execCvtfh (o : StageAt) (s : State) : Out := cellEvent 0x52 o s
/-- R258, CVTHF: a stage whose frame names it fires. -/
def execCvthf (o : StageAt) (s : State) : Out := cellEvent 0x53 o s
/-- R259, RCP: a stage whose frame names it fires. -/
def execRcp (o : StageAt) (s : State) : Out := cellEvent 0x60 o s
/-- R259, RSQ: a stage whose frame names it fires. -/
def execRsq (o : StageAt) (s : State) : Out := cellEvent 0x61 o s
/-- R259, SQRT: a stage whose frame names it fires. -/
def execSqrt (o : StageAt) (s : State) : Out := cellEvent 0x62 o s
/-- R259, EXP2: a stage whose frame names it fires. -/
def execExp2 (o : StageAt) (s : State) : Out := cellEvent 0x63 o s
/-- R259, LOG2: a stage whose frame names it fires. -/
def execLog2 (o : StageAt) (s : State) : Out := cellEvent 0x64 o s
/-- R260, SHUFL: a stage whose frame names it fires. -/
def execShufl (o : StageAt) (s : State) : Out := cellEvent 0x70 o s
/-- R260, SHUFR: a stage whose frame names it fires. -/
def execShufr (o : StageAt) (s : State) : Out := cellEvent 0x71 o s
/-- R260, BCAST: a stage whose frame names it fires. -/
def execBcast (o : StageAt) (s : State) : Out := cellEvent 0x72 o s
/-- R260, XADD: a stage whose frame names it fires. -/
def execXadd (o : StageAt) (s : State) : Out := cellEvent 0x73 o s
/-- R260, XMAX: a stage whose frame names it fires. -/
def execXmax (o : StageAt) (s : State) : Out := cellEvent 0x74 o s
/-- R260, XFADD: a stage whose frame names it fires. -/
def execXfadd (o : StageAt) (s : State) : Out := cellEvent 0x75 o s
/-- R261, HLD: a stage whose frame names it fires. -/
def execHld (o : StageAt) (s : State) : Out := cellEvent 0x78 o s
/-- R261, HACC: a stage whose frame names it fires. -/
def execHacc (o : StageAt) (s : State) : Out := cellEvent 0x79 o s
/-- R261, HFACC: a stage whose frame names it fires. -/
def execHfacc (o : StageAt) (s : State) : Out := cellEvent 0x7A o s
/-- R261, HOUT: a stage whose frame names it fires. -/
def execHout (o : StageAt) (s : State) : Out := cellEvent 0x7B o s

end Sys2Proof.Machine
end

