-- ==== Sys2Proof/Machine/Stream.lean ====
section
/-! DEFINITION. The accesses of a region's units through a record (R104, R275, R279, R308): an element as bytes that bounds leave,
each translated and checked; what else its conversion between page format and view needs (R79, R80, R98); its code once the bytes are
read; what it writes. -/

namespace Sys2Proof.Machine

/-- A unit of a region as a requester: its access acts for the region's gang (R94, R279). -/
def Region.requester (g : Region) (c h : Nat) (u : UnitPos) (priv : Bool) : Requester := ⟨c, u.port c h, some g.gang, g.dom, priv⟩

/-- What an access reaches: by byte, its key and VA, none where bounds drop it; the page of the first byte performed; the slot
barrier that holds a read; the bytes besides that its conversion needs; the element's index in its scale group. -/
structure Reach where
  bytes : List (Option (Nat × Nat))
  page : Option XuPage
  hold : Option Nat
  more : List (Option (Nat × Nat))
  index : Nat
deriving DecidableEq, Repr

/-- A translated page of a VA as conversions see it. -/
def State.pageSeen (s : State) (p : Page) (va : Nat) : XuPage :=
  ⟨va / 2 ^ 16, false, p.key, p.fmt, p.planed, p.scale, s.ctlLines p.dom (va / 2 ^ 16)⟩

/-- R104: a page against a record's view: a DB view states the page's layout, and another is FORMAT (log 30); every conversion takes
either (R79); `raw` asks only for the page class. -/
def streamPageOk (r : BitVec 256) (wr raw : Bool) (p : Page) : Bool :=
  raw || (viewReaches p.fmt (recView r) wr && (!fmtDb (recView r) || !fmtDb p.fmt || recPlaned r == p.planed))

/-- One byte of an access translated and checked (R94, R97, R104, R419): its page, its position (R145), its VA. -/
def State.streamByte (s : State) (i : Issuer) (r : BitVec 256) (wr raw : Bool) (va : Int) : Except Trap (Page × Nat × Nat) := do
  if va < 0 then throw { cause := .xlate, detail := 2, info1 := wordOf va }
  let v := va.toNat
  let lined := if recKind r = 1 then some (recLid r) else none
  let p ← s.translate i .stream (!wr) wr lined v (recView r)
  if !streamPageOk r wr raw p then throw (formatTrap v p.fmt (recView r))
  if p.node ≠ 0 && s.unreachable.contains p.node then
    throw { cause := .link, info1 := BitVec.ofNat 64 v, info2 := BitVec.ofNat 64 p.node }
  return (p, (s.homeOf p v).pos, v)

/-- The bytes of an access, in order, and the page of the first. -/
def State.streamBytes (s : State) (i : Issuer) (r : BitVec 256) (wr raw : Bool) :
    List (Option Int) → Except Trap (List (Option (Nat × Nat)) × Option XuPage)
  | [] => .ok ([], none)
  | none :: vs => do
    let t ← s.streamBytes i r wr raw vs
    return (none :: t.1, t.2)
  | some va :: vs => do
    let b ← s.streamByte i r wr raw va
    let t ← s.streamBytes i r wr raw vs
    return (some (b.2.1, b.2.2) :: t.1, some (s.pageSeen b.1 b.2.2))

/-- R94, R97, R103, R145, R156, R380: an access of `size` bytes at record offset `o`. -/
def State.streamReach (s : State) (i : Issuer) (r : BitVec 256) (ix : Nat) (o : Int) (size : Nat) (wr raw : Bool) :
    Except Trap Reach := do
  if recBad r then throw (formatTrap (recBase r) 0 (recView r))
  let sp ← spotOf r ix o (!wr) wr
  match ← boundOf r ix sp size wr false with
  | .nothing => return ⟨List.replicate size none, none, none, [], 0⟩
  | .part off lo len =>
    let vas := (List.range size).map fun j =>
      if lo ≤ j ∧ j < lo + len then some (((recBase r + sp.base : Nat) : Int) + off + (j - lo)) else none
    let b ← s.streamBytes i r wr raw vas
    match if wr then s.elementRules i.dom b.1 else none with
    | some t => throw t
    | none => return ⟨b.1, b.2, sp.hold, [], 0⟩

/-- The bytes that a read of a reach asks for. -/
def Reach.wants (x : Reach) : List Want := (x.bytes ++ x.more).filterMap fun b => b.map fun e => ⟨e.1, e.2, x.hold⟩

/-- R203, R417: the ECC fault of an access that reads poisoned bytes. -/
def State.reachPoison (s : State) (x : Reach) : Option Trap := s.wantPoison x.wants

/-- A number read at some bytes; a dropped byte reads 0 (R103). -/
def State.bytesValue (s : State) (bs : List (Option (Nat × Nat))) : Nat :=
  leNat (bs.map fun b => match b with
    | some e => readByte s.mem e.1
    | none => 0)

/-- The number that an access reads. -/
def State.reachValue (s : State) (x : Reach) : Nat := s.bytesValue x.bytes

/-- What translations leave: the buffers (R99). -/
def State.noteReach (s : State) (i : Issuer) (x : Reach) : State :=
  ((x.bytes.filterMap id).foldl (fun (l : List Nat) e => if l.contains (e.2 / 2 ^ 16) then l else e.2 / 2 ^ 16 :: l) []).foldl
    (fun (s : State) p => s.remember i (p * 2 ^ 16)) s

/-! ### Elements -/

/-- An element in a record: half-byte offset and half bytes of the view. -/
structure ElemAt where
  half : Int
  len : Nat
deriving DecidableEq, Repr

/-- R275: the bytes that hold an element. -/
def State.elemReach (s : State) (i : Issuer) (r : BitVec 256) (ix : Nat) (p : ElemAt) (wr : Bool) : Except Trap Reach :=
  s.streamReach i r ix (p.half / 2) (max 1 (p.len / 2)) wr false

/-- R81: the bytes, in bounds, of the 256 elements of a DB view that element `p` belongs to, and its place among them, where the page is of
another format: they are counted from the start of the record or slot (log 30). -/
def State.groupReach (s : State) (i : Issuer) (r : BitVec 256) (ix : Nat) (p : ElemAt) (wr : Bool) :
    Except Trap (List (Option (Nat × Nat)) × Nat) := do
  let sp ← spotOf r ix (p.half / 2) (!wr) wr
  let n := dbGroup (recView r)
  let first := sp.off / n * n
  let at_ : Nat := ((2 * (sp.off - first) + p.half % 2) / p.len).toNat
  if wr then return ([], at_)
  let b ← s.streamBytes i r wr false ((List.range n).map fun (j : Nat) =>
    let o : Int := first + j
    if 0 ≤ o ∧ o < sp.limit then some (((recBase r + sp.base : Nat) : Int) + o) else none)
  return (b.1, at_)

/-- R79, R80, R98: the access of element `p` with what its conversion needs: under a DB page's metadata, that; of a planed page that a view
converts, its block; of a DB view over another page, its group. -/
def State.fullReach (s : State) (i : Issuer) (r : BitVec 256) (ix : Nat) (p : ElemAt) (wr : Bool) : Except Trap Reach := do
  let x ← s.elemReach i r ix p wr
  match x.page, x.bytes.findSome? id with
  | some g, some b =>
    let view := recView r
    let h : Int := 2 * b.2 + p.half % 2
    if view = 0 then return x
    else if fmtDb g.fmt then
      let n := 4 * (dbM g.fmt + 2)
      let va := b.2 / n * n
      let scale := (List.range 16).map fun j => some (g.metaKey h + j, b.2)
      let block := if g.converts view && g.planed then (List.range n).map fun j => some (g.at_ (va % 2 ^ 16 + j), va + j) else []
      return { x with more := scale ++ block, index := (g.group h).2 }
    else if fmtDb view then
      let y ← s.groupReach i r ix p wr
      return { x with more := y.1, index := y.2 }
    else return x
  | _, _ => return x

/-- Part of a number: the half byte of a byte that a half offset names, or all of it. -/
def halfPart (p : ElemAt) (v : Nat) : Nat := if p.len = 1 then (if p.half % 2 = 0 then v % 16 else v / 16 % 16) else v

/-- An element read: its code in the view's format, its group's metadata, the status of its conversion. -/
structure ElemRead where
  code : Nat
  scale : Option (BitVec 128)
  status : BitVec 3
deriving DecidableEq, Repr

/-- R78, R79, R82: an element of a DB page, whose bytes are `v`, under a view. -/
def State.readDb (s : State) (view : Nat) (x : Reach) (g : XuPage) (va v : Nat) : Except Trap ElemRead :=
  let w : BitVec 128 := BitVec.ofNat 128 (s.bytesValue (x.more.take 16))
  if metaBad w then .error (formatTrap va g.fmt view)
  else if !g.converts view then .ok ⟨v, some w, 0⟩
  else
    let m := dbM g.fmt
    let code := if g.planed then (blockCodes m true (leBytes (4 * (m + 2)) (s.bytesValue (x.more.drop 16)))).getD (x.index % 32) 0
      else v % 2 ^ (m + 2)
    let r := dbTo m w ((fmtOfCode view).getD .fp32) Config.streamRnd Config.streamSat x.index code
    .ok ⟨r.1, none, r.2⟩

/-- R80, R81: an element of another page under a DB view: its group is converted. -/
def State.readIntoDb (s : State) (view : Nat) (x : Reach) (g : XuPage) (len : Nat) : ElemRead :=
  let v := s.bytesValue x.more
  let d := toDb (dbM view) Config.streamRnd ((List.range 256).map fun j => decOf g.fmt (v / 16 ^ (len * j) % 16 ^ len))
  ⟨d.codes.getD x.index 0, some d.scale, d.status⟩

/-- R104, R275: an element, once the bytes of its access are read. One that bounds drop reads 0, its metadata too (R103). -/
def State.readElem (s : State) (r : BitVec 256) (p : ElemAt) (x : Reach) : Except Trap ElemRead :=
  let view := recView r
  let v := halfPart p (s.reachValue x)
  match s.reachPoison x with
  | some t => .error t
  | none => match x.page, x.bytes.findSome? id with
    | some g, some b =>
      if view ≠ 0 ∧ fmtDb g.fmt then s.readDb view x g b.2 v
      else if !g.converts view then .ok ⟨v, none, 0⟩
      else if fmtDb view then .ok (s.readIntoDb view x g p.len)
      else match fmtOfCode g.fmt, fmtOfCode view with
        | some a, some f => let c := convElem a f Config.streamRnd Config.streamSat (v % 16 ^ viewHalf g.fmt)
                            .ok ⟨c.1, none, c.2⟩
        | _, _ => .ok ⟨v, none, 0⟩
    | _, _ => .ok ⟨v, if fmtDb view then some 0 else none, 0⟩

/-! ### Writes -/

/-- The half bytes of an access's bytes that a code takes. -/
def Reach.part (x : Reach) (p : ElemAt) (code : Nat) : Part :=
  let ks := if p.len = 1 then x.bytes.map fun b => b.map fun e => 2 * e.1 + (p.half % 2).toNat
    else x.bytes.flatMap fun b => [b.map fun e => 2 * e.1, b.map fun e => 2 * e.1 + 1]
  (List.zip ks (toHalves ks.length code)).filterMap fun e => e.1.map fun k => (k, e.2)

/-- What an element's write comes to: half bytes to store, for a VA, with the status of its conversion; or its place in a scale group of a
DB page that its view converts into. -/
inductive ElemWrite where
  | part (va : Nat) (p : Part) (status : BitVec 3)
  | grouped (g : AgGroup) (j code : Nat)
deriving DecidableEq, Repr

/-- The scale group of a DB page that a half VA lies in, nothing converted yet: its bytes are subject to the record's bounds. -/
def XuPage.agGroup (g : XuPage) (r : BitVec 256) (sp : Spot) (h : Int) : AgGroup :=
  let n := dbGroup g.fmt
  let va := (g.group h).1 * n
  let first := recBase r + sp.base
  ⟨g, va, (List.range n).map fun j => decide (first ≤ va + j ∧ va + j < first + sp.limit), [], recView r⟩

/-- R80, R82, R104, R278: what an element of a token writes; `scale` is the metadata attached to the token, without which the value of a DB
code is not stated (log 33). -/
def Reach.write (x : Reach) (r : BitVec 256) (ix : Nat) (p : ElemAt) (code : Nat) (scale : Option (BitVec 128)) :
    Except Trap ElemWrite :=
  let view := recView r
  match x.page, x.bytes.findSome? id with
  | some g, some b =>
    if !g.converts view then .ok (.part b.2 (x.part p code) 0)
    else if fmtDb g.fmt then do
      let sp ← spotOf r ix (p.half / 2) false true
      let h : Int := 2 * b.2 + p.half % 2
      return .grouped (g.agGroup r sp h) (g.group h).2 code
    else if fmtDb view then
      match scale, fmtOfCode g.fmt with
      | some w, some f => let c := dbTo (dbM view) w f Config.streamRnd Config.streamSat x.index code
                          .ok (.part b.2 (x.part p c.1) c.2)
      | _, _ => .ok (.part b.2 (x.part p (Config.unscaled g.fmt view code % 16 ^ p.len)) 0)
    else match fmtOfCode view, fmtOfCode g.fmt with
      | some a, some f => let c := convElem a f Config.streamRnd Config.streamSat code
                          .ok (.part b.2 (x.part p c.1) c.2)
      | _, _ => .ok (.part b.2 (x.part p code) 0)
  | _, _ => .ok (.part 0 [] 0)

/-- R329, R412: a scale group in progress on the page that its VA leads to now; a page of another format is FORMAT. -/
def State.groupNow (s : State) (i : Issuer) (r : BitVec 256) (g : AgGroup) : Except Trap AgGroup := do
  let b ← s.streamByte i r true false g.va
  let p := s.pageSeen b.1 g.va
  if p.fmt ≠ g.page.fmt || p.planed != g.page.planed then throw (formatTrap g.va p.fmt g.from_)
  return { g with page := p }

/-- R80, R81: a scale group that is complete is converted: its metadata and its bytes as they are written, and the status. -/
def AgGroup.puts (g : AgGroup) : List Put × BitVec 3 :=
  let p := g.page
  let d := toDb (dbM p.fmt) Config.streamRnd ((List.range 256).map fun j => match g.codes.find? j with
    | some v => decOf g.from_ v
    | none => .fin false 0 0)
  let v := groupNumber p.fmt p.planed d.codes
  let data : Part := (g.bounds.zipIdx).flatMap fun e =>
    let k := p.at_ (g.va % 2 ^ 16 + e.2)
    if e.1 then [(2 * k, v / 16 ^ (2 * e.2) % 16), (2 * k + 1, v / 16 ^ (2 * e.2 + 1) % 16)] else []
  (putsOf 16 [(g.va, (List.range 32).map fun j => (2 * p.metaKey (2 * g.va : Nat) + j, d.scale.toNat / 16 ^ j % 16))] false
    ++ putsOf 16 [(g.va, data)] true, d.status)

end Sys2Proof.Machine
end

