-- ==== Sys2Proof/Machine/Ct.lean ====
section
/-! DEFINITION. The control tile (R262 to R272, R308): what each operator consumes and emits, its state between firings. -/

namespace Sys2Proof.Machine

/-! ### The iteration space (R38) -/

/-- R38: the indices after an advance, i0 fastest; none past the last point. `dims` are the counts. -/
def advanceIdx : List Nat → List Nat → Option (List Nat)
  | d :: ds, i :: is =>
    if i + 1 < d then some ((i + 1) :: is)
    else (advanceIdx ds is).map fun t => 0 :: t
  | _, _ => none

/-- R38: CFGPC and the indices after a step; none when the region would pass the last point. -/
def Region.nextPos (g : Region) : Option (Nat × List Nat) :=
  if g.cfgpc + 1 < g.list.length then some (g.cfgpc + 1, g.idx)
  else (advanceIdx g.dims g.idx).map fun t => (0, t)

/-- R190: the indices that a patch's configuration reads: those after the advance where it has swapped in the step in progress. -/
def Region.pointAt (g : Region) (p : Nat) : List Nat :=
  if g.fab.swapped.contains p then (g.nextPos.map fun e => e.2).getD g.idx else g.idx

/-! ### A firing's frame -/

/-- An operator slot's state at activation. -/
def CtState.fresh : CtState := ⟨false, false, 0, 0, 0, false, none, none, false, false⟩

/-- An operator about to fire: place, descriptor, the region as it stands. -/
structure CtRun where
  s : State
  c : Nat
  h : Nat
  p : Nat
  k : Nat
  d : Desc
  g : Region
deriving DecidableEq, Repr

/-- The operator's kept state. -/
def CtRun.st (a : CtRun) : CtState := a.g.fab.cts.get CtState.fresh (4 * a.p + a.k)

/-- The token that input `i`, on pin `n`, sees, with its arc. -/
def CtRun.inp (a : CtRun) (i n : Nat) : Option (Nat × Token) := (a.s.core a.c).peekCt a.h a.g a.p n (3 * a.k + i)

/-- Whether an output pin has room. -/
def CtRun.room (a : CtRun) (n : Nat) : Bool := a.g.room a.p (72 + n)

/-- Consuming inputs: (input, pin, arc). -/
def CtRun.eat (a : CtRun) (ins : List (Nat × Nat × Nat)) : Site :=
  ins.foldl (fun x e => x.takeCt a.h a.p e.2.1 (3 * a.k + e.1) e.2.2) ⟨a.s.core a.c, a.g⟩

/-- The firing: inputs consumed, tokens emitted on pins, the kept state. -/
def CtRun.fire (a : CtRun) (ins : List (Nat × Nat × Nat)) (outs : List (Nat × Token)) (st : CtState) : Fired :=
  let x := a.eat ins
  let g := outs.foldl (fun (g : Region) e => g.put a.p (72 + e.1) e.2) x.g
  .go (a.s.putSite a.c a.h ⟨x.k, { g with fab := { g.fab with cts := g.fab.cts.set (4 * a.p + a.k) st } }⟩)

/-- A fault at the operator. -/
def CtRun.bad (a : CtRun) (arc : Nat) (t : Trap) : Fired := .bad ⟨5, a.k, a.p, 0, arc⟩ t

/-- R242, R314: a firing consumes these tokens together, unless their markers differ. -/
def CtRun.together (a : CtRun) (es : List (Nat × Token)) (body : Fired) : Fired :=
  let ts := es.map fun e => e.2
  let arc := ((es.head?).map fun e => e.1).getD 0
  if !sameMark ts then a.bad arc (illegalToken ((ts.head?).getD (scalarToken 0)))
  else if strayScale ts then a.bad arc strayTrap
  else body

/-! ### Operators -/

/-- R264. -/
def CtRun.steer (a : CtRun) : Fired :=
  match a.inp 0 a.d.in0, a.inp 1 a.d.in1 with
  | some x, some y => a.together [x, y] <|
    let ins := [(0, a.d.in0, x.1), (1, a.d.in1, y.1)]
    if x.2.mark ≠ 0 then
      if a.room a.d.out0 && a.room a.d.out1 then a.fire ins [(a.d.out0, x.2), (a.d.out1, x.2)] a.st else .no
    else
      let out := if y.2.isTrue then a.d.out0 else a.d.out1
      if a.room out then a.fire ins [(out, x.2)] a.st else .no
  | _, _ => .no

/-- R265. -/
def CtRun.merge (a : CtRun) : Fired :=
  match a.inp 0 a.d.in0 with
  | none => .no
  | some x =>
    if x.2.mark ≠ 0 then
      match a.inp 1 a.d.in1, a.inp 2 a.d.in2 with
      | some y, some z => a.together [x, y, z] <|
        if a.room a.d.out0 then
          a.fire [(0, a.d.in0, x.1), (1, a.d.in1, y.1), (2, a.d.in2, z.1)] [(a.d.out0, y.2)] a.st
        else .no
      | _, _ => .no
    else
      let i := if x.2.isTrue then 1 else 2
      let n := if x.2.isTrue then a.d.in1 else a.d.in2
      match a.inp i n with
      | none => .no
      | some y => a.together [x, y] <|
        if a.room a.d.out0 then a.fire [(0, a.d.in0, x.1), (i, n, y.1)] [(a.d.out0, y.2)] a.st else .no

/-- R266: `on` is the state LOOP. -/
def CtRun.carry (a : CtRun) : Fired :=
  if !a.st.on then
    match a.inp 0 a.d.in0 with
    | none => .no
    | some x => a.together [x] <|
      if a.room a.d.out0 then a.fire [(0, a.d.in0, x.1)] [(a.d.out0, x.2)] { a.st with on := x.2.mark == 0 } else .no
  else
    match a.inp 2 a.d.in2 with
    | none => .no
    | some z =>
      if z.2.mark ≠ 0 then a.bad z.1 (illegalToken z.2)
      else if !z.2.isTrue then a.fire [(2, a.d.in2, z.1)] [] { a.st with on := false }
      else match a.inp 1 a.d.in1 with
        | none => .no
        | some y =>
          if y.2.mark ≠ 0 then a.bad y.1 (illegalToken y.2)
          else a.together [z, y] <|
            if a.room a.d.out0 then a.fire [(2, a.d.in2, z.1), (1, a.d.in1, y.1)] [(a.d.out0, y.2)] a.st else .no

/-- R267. -/
def CtRun.gate (a : CtRun) : Fired :=
  match a.inp 0 a.d.in0, a.inp 1 a.d.in1 with
  | some x, some y => a.together [x, y] <|
    let ins := [(0, a.d.in0, x.1), (1, a.d.in1, y.1)]
    if x.2.mark = 0 && a.d.param % 2 == 1 && !y.2.isTrue then a.fire ins [] a.st
    else if a.room a.d.out0 then a.fire ins [(a.d.out0, x.2)] a.st else .no
  | _, _ => .no

/-- R268. -/
def CtRun.sink (a : CtRun) : Fired :=
  match a.inp 0 a.d.in0 with
  | none => .no
  | some x => a.together [x] <|
    let ins := [(0, a.d.in0, x.1)]
    if a.d.param ≠ 0 && x.2.mark ≠ 0 && x.2.mark ≠ 6 && decide (a.d.param ≤ x.2.mark.toNat) then
      if a.room a.d.out0 then a.fire ins [(a.d.out0, doneToken)] a.st else .no
    else a.fire ins [] a.st

/-- R269: the value that a run emits at position `j`. -/
def CtRun.countValue (a : CtRun) (j : Nat) : Lane :=
  let isel := a.d.param / 2 ^ 17
  let base := a.d.ext % 2 ^ 7 + if isel = 0 then 0 else (a.g.pointAt a.p).getD (isel - 1) 0
  BitVec.ofNat 32 base + BitVec.ofNat 32 j * (BitVec.ofNat 7 (a.d.ext / 2 ^ 7)).signExtend 32

/-- R269. -/
def CtRun.count (a : CtRun) : Fired :=
  let n := a.d.param % 2 ^ 13 + 1
  let mlev := BitVec.ofNat 3 (a.d.param / 2 ^ 14)
  let free := a.d.param / 2 ^ 13 % 2 == 1
  let st := a.st
  if st.on || (free && !st.begun) then
    let st := { st with on := true, begun := true }
    if st.sent < n then
      if a.room a.d.out0 then a.fire [] [(a.d.out0, scalarToken (a.countValue st.sent))] { st with sent := st.sent + 1 } else .no
    else if st.sent = n ∧ mlev ≠ 0 then
      if a.room a.d.out0 then a.fire [] [(a.d.out0, markToken .scalar mlev)] { st with sent := st.sent + 1 } else .no
    else if a.room a.d.out1 then
      a.fire [] [(a.d.out1, doneToken)] { st with on := false, sent := 0, finished := true }
    else .no
  else if free then .no
  else match a.inp 0 a.d.in0 with
    | none => .no
    | some x => a.together [x] <|
      if x.2.mark = 0 then a.fire [(0, a.d.in0, x.1)] [] { st with on := true, sent := 0 }
      else if a.room a.d.out0 then a.fire [(0, a.d.in0, x.1)] [(a.d.out0, x.2)] st else .no

/-- Inputs that are all there, or none. -/
def CtRun.all (a : CtRun) (l : List (Nat × Nat)) : Option (List (Nat × Nat × Nat × Token)) :=
  l.foldl (fun acc e => match acc, a.inp e.1 e.2 with
    | some r, some x => some (r ++ [(e.1, e.2, x.1, x.2)])
    | _, _ => none) (some [])

/-- R270. -/
def CtRun.lut4 (a : CtRun) : Fired :=
  match a.all a.d.reads with
  | none => .no
  | some es => a.together (es.map fun e => e.2.2) <|
    if !a.room a.d.out0 then .no
    else
      let ins := es.map fun e => (e.1, e.2.1, e.2.2.1)
      match es.head? with
      | none => .no
      | some e =>
        let m := e.2.2.2.mark
        if m ≠ 0 then a.fire ins [(a.d.out0, markToken .control m)] a.st
        else
          let bit (i : Nat) : Nat := if es.any fun e => e.1 == i && e.2.2.2.isTrue then 2 ^ i else 0
          let f := if a.d.param / 2 ^ 19 = 1 && a.st.out then 8 else 0
          let v := a.d.param / 2 ^ (f + bit 2 + bit 1 + bit 0) % 2 == 1
          a.fire ins [(a.d.out0, if v then doneToken else { doneToken with data := 0 })] { a.st with out := v }

/-- R271. -/
def CtRun.rep (a : CtRun) : Fired :=
  match a.st.tok with
  | some t =>
    if a.room a.d.out0 then
      let left := a.st.total - 1
      a.fire [] [(a.d.out0, t)] { a.st with total := left, tok := if left = 0 then none else some t }
    else .no
  | none =>
    match a.all a.d.reads with
    | none => .no
    | some es => a.together (es.map fun e => e.2.2) <|
      let ins := es.map fun e => (e.1, e.2.1, e.2.2.1)
      match es with
      | [] => .no
      | x :: rest =>
        let t := x.2.2.2
        if t.mark ≠ 0 then
          if a.room a.d.out0 then a.fire ins [(a.d.out0, t)] a.st else .no
        else
          let n := match rest with
            | [] => a.d.param % 2 ^ 16 + 1
            | y :: _ => y.2.2.2.value.toNat
          a.fire ins [] { a.st with total := n, tok := if n = 0 then none else some t }

/-- R272: how many enables may be ahead of the dones. -/
def Desc.ahead (d : Desc) : Option Nat :=
  match d.op with
  | 0x10 => some 1
  | 0x11 => some (d.ext % 2 ^ 12)
  | _ => none

/-- R272: SEQ, PIPE and STREAM. A done answers an enable: SEQ and PIPE take one only when an enable of the pass awaits it. -/
def CtRun.controller (a : CtRun) : Fired :=
  let n := a.d.param % 2 ^ 16 + 1
  let root := a.d.isRoot
  let st := a.st
  let e0 := if root then none else a.inp 0 a.d.in0
  let e2 := a.inp 2 a.d.in2
  let marks := [(0, a.d.in0, e0), (2, a.d.in2, e2)].filterMap fun e => e.2.2.bind fun x =>
    if x.2.mark ≠ 0 then some (e.1, e.2.1, x) else none
  match marks with
  | e :: _ => a.together [e.2.2] (a.fire [(e.1, e.2.1, e.2.2.1)] [] st)
  | [] =>
    if !st.on then
      if root then (if st.begun then .no else a.fire [] [] { st with on := true, begun := true })
      else match e0 with
        | none => .no
        | some x => a.together [x] (a.fire [(0, a.d.in0, x.1)] [] { st with on := true, sent := 0, dones := 0 })
    else if st.dones = n && st.sent = n then
      if a.room a.d.out1 then
        match a.fire [] [(a.d.out1, doneToken)] { st with on := false, sent := 0, dones := 0, finished := true } with
        | .go s => .go (if root then s.onCore a.c fun k =>
            { k with regions := k.regions.upd a.g a.h fun g => { g with rootDone := !g.armed a.p || g.rootDone } } else s)
        | f => f
      else .no
    else
      let emit : Fired :=
        if st.sent < n && (a.d.ahead.elim true fun w => decide (st.sent < st.dones + w)) && a.room a.d.out0 then
          a.fire [] [(a.d.out0, doneToken)] { st with sent := st.sent + 1 }
        else .no
      match e2 with
      | some x =>
        if st.dones < (if a.d.ahead.isNone then n else st.sent) then
          a.together [x] (a.fire [(2, a.d.in2, x.1)] [] { st with dones := st.dones + 1 })
        else emit
      | none => emit

/-- R308: the record of an MSEQ's template. -/
def Desc.seqRec (d : Desc) : Nat := d.param / 2 ^ 12
/-- R308: tokens per run. -/
def Desc.seqCount (d : Desc) : Nat := d.param % 2 ^ 12 + 1

/-- R308: the token of iteration `n`: lanes 0 to 3. -/
def seqToken (t : BitVec 256) (n : Nat) : Token :=
  let w0 := t.extractLsb' 0 64
  let aoff := t.extractLsb' 64 32 + BitVec.ofNat 32 n * t.extractLsb' 128 32
  let boff := t.extractLsb' 96 32 + BitVec.ofNat 32 n * t.extractLsb' 160 32
  vecToken [w0.extractLsb' 0 32, w0.extractLsb' 32 32, aoff, boff] 0x000F

/-- An MSEQ as a requester. -/
def CtRun.unit (a : CtRun) : Requester := a.g.requester a.c a.h ⟨5, a.k, a.p, 0, 0⟩ false

/-- R308, R430: the template is read at activation. -/
def CtRun.readTemplate (a : CtRun) : Fired :=
  let k := a.s.core a.c
  let ix := a.d.seqRec
  let u := a.unit
  if recldPending k (BitVec.ofNat 8 ix) then .no
  else match k.badRecords.find? ix with
    | some t => a.bad 0 t
    | none =>
      match a.s.streamReach (u.issuer a.s) (k.record ix) ix 0 32 false true with
      | .error t => a.bad 0 t
      | .ok x =>
        match (a.s.noteReach (u.issuer a.s) x).fetch u x.wants with
        | .failed t => a.bad 0 t
        | .waiting s => .go s
        | .ready seen =>
          let v := BitVec.ofNat 256 (seen.reachValue x)
          match seen.reachPoison x with
          | some t => a.bad 0 t
          | none =>
            if v.extractLsb' 192 64 ≠ 0 then a.bad 0 { cause := .illegal, info1 := v.extractLsb' 192 64 }
            else ({ a with s := (a.s.markCollar (some a.g.gang) (u.issuer a.s) (k.record ix)).onCore a.c fun k => k.dropReads u.port } :
              CtRun).fire [] [] { a.st with template := some v }

/-- R308: MSEQ. -/
def CtRun.mseq (a : CtRun) : Fired :=
  let st := a.st
  match st.template with
  | none => a.readTemplate
  | some t =>
    let e1 := a.inp 1 a.d.in1
    let back := e1.bind fun x => if x.2.mark ≠ 0 then some x else none
    match back with
    | some x => a.together [x] <|
      if a.room a.d.out1 then a.fire [(1, a.d.in1, x.1)] [(a.d.out1, x.2)] st else .no
    | none =>
      if st.on then
        let emit : Fired :=
          if st.sent < a.d.seqCount && a.room a.d.out0 then
            a.fire [] [(a.d.out0, seqToken t st.sent)] { st with sent := st.sent + 1 }
          else .no
        if st.sent = a.d.seqCount && st.dones = a.d.seqCount then
          if a.room a.d.out1 then a.fire [] [(a.d.out1, doneToken)] { st with on := false, finished := true } else .no
        else match e1 with
          | some x =>
            if st.dones < a.d.seqCount then a.together [x] (a.fire [(1, a.d.in1, x.1)] [] { st with dones := st.dones + 1 }) else emit
          | none => emit
      else if !a.g.reached a.p (72 + a.d.in0) && !ctDriven (patchDescs (a.g.frames a.p)) a.d.in0 then
        (if st.begun then .no else a.fire [] [] { st with on := true, begun := true, sent := 0, dones := 0 })
      else match a.inp 0 a.d.in0 with
        | none => .no
        | some x => a.together [x] <|
          if x.2.mark = 0 then a.fire [(0, a.d.in0, x.1)] [] { st with on := true, sent := 0, dones := 0 }
          else if a.room a.d.out0 then a.fire [(0, a.d.in0, x.1)] [(a.d.out0, x.2)] st else .no

/-- An operator fires, whichever it is. -/
def CtRun.any (a : CtRun) : Fired :=
  match a.d.op with
  | 0x01 => a.steer
  | 0x02 => a.merge
  | 0x03 => a.carry
  | 0x04 => a.gate
  | 0x05 => a.sink
  | 0x06 => a.count
  | 0x07 => a.lut4
  | 0x08 => a.rep
  | 0x10 | 0x11 | 0x12 => a.controller
  | 0x18 => a.mseq
  | _ => .no

/-- The firing of operator slot `k` of a patch's CT. -/
def State.ctFire (s : State) (c h p k : Nat) (g : Region) : Fired :=
  match ctOp (g.frames p) k with
  | none => .no
  | some d => CtRun.any ⟨s, c, h, p, k, d, g⟩

/-- A firing of a slot that holds operator `op`, as `f` says. -/
def ctEvent (op : Nat) (f : CtRun → Fired) (o : CtAt) (s : State) : Out :=
  .next (s.firingOf o.core o.hdl fun g =>
    match ctOp (g.frames o.patch) o.k with
    | none => .no
    | some d => if d.op = op then f ⟨s, o.core, o.hdl, o.patch, o.k, d, g⟩ else .no)

/-- R264, STEER. -/
def execSteer (o : CtAt) (s : State) : Out := ctEvent 0x01 CtRun.steer o s
/-- R265, MERGE. -/
def execMerge (o : CtAt) (s : State) : Out := ctEvent 0x02 CtRun.merge o s
/-- R266, CARRY. -/
def execCarry (o : CtAt) (s : State) : Out := ctEvent 0x03 CtRun.carry o s
/-- R267, GATE. -/
def execGate (o : CtAt) (s : State) : Out := ctEvent 0x04 CtRun.gate o s
/-- R268, SINK. -/
def execSink (o : CtAt) (s : State) : Out := ctEvent 0x05 CtRun.sink o s
/-- R269, COUNT. -/
def execCount (o : CtAt) (s : State) : Out := ctEvent 0x06 CtRun.count o s
/-- R270, LUT4. -/
def execLut4 (o : CtAt) (s : State) : Out := ctEvent 0x07 CtRun.lut4 o s
/-- R271, REPEAT. -/
def execRepeatOp (o : CtAt) (s : State) : Out := ctEvent 0x08 CtRun.rep o s
/-- R272, SEQ. -/
def execSeq (o : CtAt) (s : State) : Out := ctEvent 0x10 CtRun.controller o s
/-- R272, PIPE. -/
def execPipe (o : CtAt) (s : State) : Out := ctEvent 0x11 CtRun.controller o s
/-- R272, STREAM. -/
def execStream (o : CtAt) (s : State) : Out := ctEvent 0x12 CtRun.controller o s
/-- R308, MSEQ. -/
def execMseq (o : CtAt) (s : State) : Out := ctEvent 0x18 CtRun.mseq o s

end Sys2Proof.Machine
end

