-- ==== Sys2Proof/Machine/Ag.lean ====
section
/-! DEFINITION. The address generator (R274 to R279, R339): walks, read tokens, writes, the done token. Its reads and writes are requests of
its port. -/

namespace Sys2Proof.Machine

/-! ### Walks (R275 to R277) -/

/-- A walk's geometry in half bytes: base, counts and strides by dimension, element size. -/
structure Walk where
  base : Int
  counts : List Nat
  strides : List Int
  e : Nat
deriving DecidableEq, Repr

/-- R130, R276, R277: the walk of a frame over a record; an odd count in dimension 0 of a 4-bit view is walked (log 30). -/
def walkOf (f : CFrame) (r : BitVec 256) : Walk :=
  let e := viewHalf (recView r)
  let u : Nat := if e = 1 then 1 else 2
  let base : Int := (agBase f * u : Nat)
  if agMode f = 3 then
    if recKind r = 2 then ⟨base, [ringS r * 2 / e], [(e : Int)], e⟩
    else ⟨base, [recN0 r + 1, recN1 r + 1, recN2 r + 1], [(e : Int), 2 * recStride1 r, 2 * recStride2 r], e⟩
  else
    let ks := List.range (agNd f + 1)
    ⟨base, ks.map (agCount f), ks.map fun k => agStride f k * (u : Int), e⟩

/-- Points of a walk. -/
def Walk.total (w : Walk) : Nat := w.counts.foldl (fun a n => a * n) 1

/-- Elements of a run of dimension 0. -/
def Walk.run (w : Walk) : Nat := w.counts.headD 1

/-- The half offset of point `i` over remaining dimensions. -/
def walkOffset : List Nat → List Int → Nat → Int
  | n :: ns, d :: ds, i => (i % n : Nat) * d + walkOffset ns ds (i / n)
  | _, _, _ => 0

/-- R276: the place of point `i`. -/
def Walk.place (w : Walk) (i : Nat) : ElemAt := ⟨w.base + walkOffset w.counts w.strides i, w.e⟩

/-- R275: elements of the token that begins at point `i`. -/
def Walk.chunk (w : Walk) (i : Nat) : Nat := min (128 / w.e) (w.run - i % w.run)

/-- Sizes of dimensions 0 to k together, for every k. -/
def levelSizes : List Nat → Nat → List Nat
  | [], _ => []
  | n :: ns, a => a * n :: levelSizes ns (a * n)

/-- R276: the marker that follows the point before `i`; 0 when none does. -/
def Walk.marker (w : Walk) (mmask i : Nat) : BitVec 3 :=
  if w.total ≤ i then eosMark
  else ((levelSizes w.counts 1).zipIdx).foldl (fun m e =>
    if i % e.1 = 0 ∧ mmask / 2 ^ e.2 % 2 = 1 then BitVec.ofNat 3 (e.2 + 1) else m) 0

/-- R276, R314: elements since the walk's start or the last marker before point `i`: marked levels are multiples of the first. -/
def Walk.since (w : Walk) (mmask i : Nat) : Nat :=
  i % ((((levelSizes w.counts 1).zipIdx).find? fun e => mmask / 2 ^ e.2 % 2 = 1).elim (max 1 w.total) fun e => e.1)

/-! ### An AG about to act -/

/-- An AG: place, frame, the region as it stands. -/
structure AgRun where
  s : State
  c : Nat
  h : Nat
  p : Nat
  a : Nat
  f : CFrame
  g : Region
deriving DecidableEq, Repr

def AgRun.st (x : AgRun) : AgState := x.g.fab.ags.get AgState.idle (2 * x.p + x.a)

/-- The AG as a requester (R94, R279): a walk that SBIND bound acts with the privilege of the task that bound it. -/
def AgRun.unit (x : AgRun) : Requester := x.g.requester x.c x.h ⟨4, x.a, x.p, 0, 0⟩ (x.st.sb.elim false fun b => b.priv)

/-- Pin `i` of the AG: 0 out, 1 in, 2 idx, 3 en. -/
def AgRun.pin (x : AgRun) (i : Nat) : Nat := 64 + 4 * x.a + i
def AgRun.inp (x : AgRun) (i : Nat) : Option (Nat × Token) := (x.s.core x.c).peek x.h x.g x.p (x.pin i)
def AgRun.bad (x : AgRun) (arc : Nat) (t : Trap) : Fired := .bad ⟨4, x.a, x.p, 0, arc⟩ t

/-- The region with the AG's state replaced. -/
def AgRun.keep (x : AgRun) (g : Region) (st : AgState) : Region :=
  { g with fab := { g.fab with ags := g.fab.ags.set (2 * x.p + x.a) st } }

/-- An action: inputs consumed, tokens emitted on out, the state kept, in the module `x.s`. -/
def AgRun.fire (x : AgRun) (ins : List Nat) (outs : List Token) (st : AgState) : Fired :=
  let y := ins.foldl (fun (y : Site) id => y.take x.h id) ⟨x.s.core x.c, x.g⟩
  let g := outs.foldl (fun (g : Region) t => g.put x.p (x.pin 0) t) y.g
  .go (x.s.putSite x.c x.h ⟨y.k, x.keep g st⟩)

/-- R339: the walk's counter falls. -/
def AgRun.uncount (x : AgRun) : AgRun :=
  match x.st.sb with
  | none => x
  | some b => { x with s := x.s.onCore x.c fun k => k.sbDec b.sb.toNat }

/-- R274, R324, R339, R379, R430: a walk starts: it takes its record. -/
def AgRun.begin (x : AgRun) (ins : List Nat) : Fired :=
  let k := x.s.core x.c
  let b := x.g.binds.find? (2 * x.p + x.a)
  let ix := b.elim (agRec x.f) fun b => b.record.toNat
  let r := k.record ix
  if recldPending k (BitVec.ofNat 8 ix) then .no
  else match k.badRecords.find? ix with
    | some t => x.bad (ins.headD 0) t
    | none =>
      if recBad r then x.bad (ins.headD 0) (formatTrap (recBase r) 0 (recView r))
      else
        let k := match b with
          | none => k
          | some b => k.sbInc b.sb.toNat
        let k := k.markRecord (some x.g.gang) ix
        let s := (x.s.setCore x.c k).markCollar (some x.g.gang) (x.unit.issuer x.s) r
        ({ x with s := s } : AgRun).fire ins []
          { x.st with walking := true, begun := true, record := r, recIx := ix, pos := 0, sb := b, owed := false }

/-- R274: whether an AG starts a walk by itself, at activation. -/
def AgRun.selfStart (x : AgRun) : Bool := !x.g.reached x.p (x.pin 3)

/-- R274: a walk starts at activation, or for a data token on en; a marker there is discarded. -/
def AgRun.start (x : AgRun) : Fired :=
  if x.st.walking then .no
  else if x.selfStart then (if x.st.begun then .no else x.begin [])
  else match x.inp 3 with
    | none => .no
    | some e =>
      if e.2.mark = 5 then x.bad e.1 (illegalToken e.2)
      else if e.2.scale.isSome then x.bad e.1 strayTrap
      else if e.2.mark ≠ 0 then x.fire [e.1] [] x.st
      else x.begin [e.1]

/-! ### Reading -/

/-- The accesses of some places. -/
def AgRun.reaches (x : AgRun) (wr : Bool) : List (Option ElemAt) → Except Trap (List (Option (ElemAt × Reach)))
  | [] => .ok []
  | none :: ps => (x.reaches wr ps).map fun l => none :: l
  | some p :: ps => do
    let e ← x.s.fullReach (x.unit.issuer x.s) x.st.record x.st.recIx p wr
    let l ← x.reaches wr ps
    return some (p, e) :: l

/-- The elements of some accesses, once their bytes are read. -/
def State.readElems (s : State) (r : BitVec 256) : List (Option (ElemAt × Reach)) → Except Trap (List (Option ElemRead))
  | [] => .ok []
  | none :: es => (s.readElems r es).map fun l => none :: l
  | some e :: es => do
    let x ← s.readElem r e.1 e.2
    let l ← s.readElems r es
    return some x :: l

/-- The bytes that some accesses read. -/
def wantsOf (es : List (Option (ElemAt × Reach))) : List Want := es.flatMap fun e => e.elim [] fun x => x.2.wants

/-- What translations of some accesses leave. -/
def State.noteAll (s : State) (i : Issuer) (es : List (Option (ElemAt × Reach))) : State :=
  es.foldl (fun (s : State) e => e.elim s fun x => s.noteReach i x.2) s

/-- R279: what later tokens of the walk read. -/
def AgRun.ahead (x : AgRun) (more : List (List (Option ElemAt))) : List Span :=
  more.flatMap fun ps => match x.reaches false ps with
    | .error _ => []
    | .ok es => spansOf (wantsOf es)

/-- R275, R279, R352: the elements at some places are read: asked for, with those of tokens to come in `more`; once they are back, `body`
goes on with them. -/
def AgRun.fetch (x : AgRun) (arc : Nat) (ps : List (Option ElemAt)) (more : List (List (Option ElemAt)))
    (body : AgRun → List (Option ElemRead) → Fired) : Fired :=
  let u := x.unit
  match x.reaches false ps with
  | .error t => x.bad arc t
  | .ok es =>
    let ws := wantsOf es
    let s := x.s.noteAll (u.issuer x.s) es
    let later := x.ahead more
    match s.fetch u ws (State.payRequest x.c x.h) later with
    | .failed t => x.bad arc t
    | .waiting s => .go (s.askAll u (State.payRequest x.c x.h) later)
    | .ready seen =>
      match seen.readElems x.st.record es with
      | .error t => x.bad arc t
      | .ok rs =>
        let st := rs.foldl (fun st r => st ||| r.elim 0 fun r => r.status) 0
        body { x with s := { s.onCore x.c fun k => (k.takeSpans u.port (spansOf ws)).addStatus (some x.g.gang) st with fresh := s.fresh + 1 } } rs

/-- Token data of codes of `e` half bytes, from lane 0 upward (R7, R275). -/
def packCodes (e : Nat) : List Nat → BitVec 512
  | [] => 0
  | v :: vs => BitVec.ofNat 512 (v % 16 ^ e) ||| (packCodes e vs <<< (4 * e))

/-- The mask of `n` half bytes of lanes. -/
def lanesMask (n : Nat) : BitVec 16 := BitVec.ofNat 16 (2 ^ ((n + 7) / 8) - 1)

/-- R276: after a read token, the state of the walk, with the marker that is owed. -/
def AgRun.after (x : AgRun) (w : Walk) (pos : Nat) : AgState :=
  { x.st with pos := pos, owed := pos % w.run == 0 && w.marker (agMmask x.f) pos != 0 }

/-- R276: a marker that is owed; EOS ends the walk. -/
def AgRun.emitMark (x : AgRun) (m : BitVec 3) (ins : List Nat) : Fired :=
  if !x.g.room x.p (x.pin 0) then .no
  else if m = eosMark then
    x.uncount.fire ins [markToken .vector m] { x.st with walking := false, owed := false, ended := true, sb := none }
  else x.fire ins [markToken .vector m] { x.st with owed := false }

/-- R275: the places of the token that begins at point `i`. -/
def Walk.token (w : Walk) (i : Nat) : List (Option ElemAt) := (List.range (w.chunk i)).map fun j => some (w.place (i + j))

/-- The next `n` tokens' places, from point `i`. -/
def Walk.tokens (w : Walk) : Nat → Nat → List (List (Option ElemAt))
  | 0, _ => []
  | n + 1, i => if w.total ≤ i then [] else w.token i :: w.tokens n (i + w.chunk i)

/-- R275: the places of the tokens beyond point `i` that an AG reads ahead of need: how many is a free value (log 32). -/
def Walk.tokensAhead (w : Walk) (i : Nat) : List (List (Option ElemAt)) :=
  if w.total ≤ i then [] else w.tokens Config.readAhead i

/-- R275, R276, R314: the next token of an AFFINE or RECORD walk, with the metadata of the scale group that begins in it. -/
def AgRun.readNext (x : AgRun) : Fired :=
  let w := walkOf x.f x.st.record
  let i := x.st.pos
  if x.st.owed then x.emitMark (w.marker (agMmask x.f) i) []
  else if !x.g.room x.p (x.pin 0) then .no
  else
    let n := w.chunk i
    x.fetch 0 (w.token i) (w.tokensAhead (i + n)) fun x es =>
      let es := es.filterMap id
      let first := (256 - w.since (agMmask x.f) i % 256) % 256
      let t : Token := ⟨.vector, packCodes w.e (es.map fun e => e.code), lanesMask (n * w.e), 0,
        if fmtDb (recView x.st.record) then (es[first]?).bind fun e => e.scale else none⟩
      x.fire [] [t] (x.after w (i + n))

/-- R277: the places that an idx token's lanes name. -/
def AgRun.indexed (x : AgRun) (t : Token) : List (Option ElemAt) :=
  let w := walkOf x.f x.st.record
  (List.range 16).map fun n =>
    if t.mask.getLsbD n then some ⟨w.base + (t.lane n).toNat * (w.strides.headD 0), w.e⟩ else none

/-- R277: the fault of an INDEXED walk whose view is too wide, at the first element that a token names. -/
def AgRun.tooWide (x : AgRun) (wr : Bool) (t : Token) : Option Trap :=
  let r := x.st.record
  if viewHalf (recView r) ≤ 8 then none
  else ((x.indexed t).findSome? id).map fun p =>
    match x.s.elemReach (x.unit.issuer x.s) r x.st.recIx p wr with
    | .error t => t
    | .ok e => formatTrap ((e.bytes.findSome? id).elim (recBase r + p.half.toNat / 2) fun b => b.2) (e.page.elim 0 fun g => g.fmt) (recView r)

/-- R277: a token of an INDEXED walk. -/
def AgRun.readIndexed (x : AgRun) : Fired :=
  match x.inp 2 with
  | none => .no
  | some e =>
    let t := e.2.asVector
    if t.mark = 5 then x.bad e.1 (illegalToken t)
    else if t.scale.isSome then x.bad e.1 strayTrap
    else if t.mark ≠ 0 then x.emitMark t.mark [e.1]
    else match x.tooWide false t with
      | some w => x.bad e.1 w
      | none =>
        if !x.g.room x.p (x.pin 0) then .no
        else x.fetch e.1 (x.indexed t) [] fun x es =>
          let lanes : List Lane := es.map fun r => BitVec.ofNat 32 (r.elim 0 fun r => r.code)
          x.fire [e.1] [vecToken lanes t.mask] x.st

/-- R275 to R277: a read AG emits its next token. -/
def AgRun.read (x : AgRun) : Fired :=
  if !x.st.walking || agDir x.f then .no
  else if agMode x.f = 2 then x.readIndexed else x.readNext

/-! ### Writing -/

/-- What the elements of a token write: each access with its code. -/
def AgRun.writes (x : AgRun) (t : Token) : List (Option (ElemAt × Reach)) → List Nat → Except Trap (List ElemWrite)
  | some e :: es, v :: vs => do
    let w ← e.2.write x.st.record x.st.recIx e.1 v t.scale
    let l ← x.writes t es vs
    return w :: l
  | _, _ => .ok []

/-- The writes of a token gathered: half bytes to store, writes of scale groups that are complete, the group in progress, the status. -/
structure Gather where
  parts : List (Nat × Part)
  puts : List Put
  group : Option AgGroup
  status : BitVec 3
deriving DecidableEq, Repr

/-- R278: one more element: they are written one after another, so that the last one to name an element wins. `now` is a group on the page
that its VA leads to. -/
def Gather.add (now : AgGroup → Except Trap AgGroup) (a : Gather) : ElemWrite → Except Trap Gather
  | .part va p st => .ok { a with parts := a.parts ++ [(va, p)], status := a.status ||| st }
  | .grouped g j code =>
    match a.group with
    | some old =>
      if old.va = g.va ∧ old.from_ = g.from_ then .ok { a with group := some { g with codes := old.codes.set j code } }
      else (now old).map fun old =>
        let r := old.puts
        { a with puts := a.puts ++ r.1, status := a.status ||| r.2, group := some { g with codes := [(j, code)] } }
    | none => .ok { a with group := some { g with codes := [(j, code)] } }

/-- The elements of a token gathered in their order. -/
def Gather.addAll (now : AgGroup → Except Trap AgGroup) (a : Gather) : List ElemWrite → Except Trap Gather
  | [] => .ok a
  | w :: ws => (a.add now w).bind fun a => a.addAll now ws

/-- R314: metadata that an LX attached is stored through the page's scale link: its VA and half bytes. -/
def scaleParts (t : Token) (es : List (Option (ElemAt × Reach))) : List (Nat × Part) :=
  match t.scale, (es.head?).bind id with
  | some m, some e =>
    match e.2.page, e.2.bytes.findSome? id with
    | some g, some b =>
      if fmtDb g.fmt then [(b.2, (List.range 32).map fun j => (2 * g.metaKey (2 * b.2 : Nat) + j, m.toNat / 16 ^ j % 16))] else []
    | _, _ => []
  | _, _ => []

/-- R278: the elements of a token are to be written: its inputs are consumed, its writes are put together. -/
def AgRun.commit (x : AgRun) (ins : List Nat) (t : Token) (ps : List (ElemAt × Nat)) (st : AgState) : Fired :=
  let i := x.unit.issuer x.s
  match x.reaches true (ps.map fun p => some p.1) with
  | .error e => x.bad (ins.headD 0) e
  | .ok es =>
    if t.scale.isSome && !fmtDb (recView x.st.record) then x.bad (ins.headD 0) strayTrap
    else match x.writes t es (ps.map fun p => p.2) with
      | .error e => x.bad (ins.headD 0) e
      | .ok ws => match Gather.addAll (x.s.groupNow i x.st.record) ⟨[], [], x.st.group, 0⟩ ws with
      | .error e => x.bad (ins.headD 0) e
      | .ok a =>
        let s := (x.s.noteAll i es).onCore x.c fun k => k.addStatus (some x.g.gang) a.status
        ({ x with s := s } : AgRun).fire ins []
          { st with out := putsOf 16 (scaleParts t es) false ++ a.puts ++ putsOf 16 (a.parts.filter fun e => !e.2.isEmpty) true, group := a.group }

/-- The module with an AG's state changed. -/
def State.onAg (s : State) (c h n : Nat) (f : AgState → AgState) : State :=
  s.onCore c fun k => match k.regions.find? h with
    | none => k
    | some g => { k with regions := k.regions.set h { g with fab := { g.fab with ags := g.fab.ags.set n (f (g.fab.ags.get AgState.idle n)) } } }

/-- R352: the writes that the AG has put together set out, as far as permits go. -/
def AgRun.send (x : AgRun) : Fired :=
  let u := x.unit
  let r := (x.s.onCore x.c fun k => k.takeWritten u.port).sendPuts u (State.payRequest x.c x.h) x.st.out
  .go (r.1.onAg x.c x.h (2 * x.p + x.a) fun st => { st with out := r.2 })

/-- R80: the scale group in progress is complete. -/
def AgRun.flush (x : AgRun) : Fired :=
  match x.st.group with
  | none => .no
  | some g => match x.s.groupNow (x.unit.issuer x.s) x.st.record g with
    | .error t => x.bad (x.g.arcInto x.p (x.pin 1)) t
    | .ok g =>
      let r := g.puts
      let s := x.s.onCore x.c fun k => k.addStatus (some x.g.gang) r.2
      .go (s.onAg x.c x.h (2 * x.p + x.a) fun st => { st with out := st.out ++ r.1, group := none })

/-- R403, R413: a write that failed, as it is sent again: to where its VA leads now. -/
def State.putNow (s : State) (i : Issuer) (r : BitVec 256) (p : Put) : Except Trap Put := do
  let b ← s.streamByte i r true false p.va
  let g := s.pageSeen b.1 p.va
  match p.op with
  | .put ps begun data =>
    let half (h : Nat) : Nat := if data then 2 * g.at_ (p.va % 2 ^ 16 / 64 * 64 + h / 2 % 64) + h % 2 else 2 * g.metaKey (2 * p.va : Nat) + h % 32
    return { p with op := .put (ps.map fun q => q.map fun e => (half e.1, e.2)) begun data }
  | _ => return p

/-- The writes that failed, as they are sent again. -/
def State.putsNow (s : State) (i : Issuer) (r : BitVec 256) : List Put → Except Trap (List Put)
  | [] => .ok []
  | p :: ps => do
    let q ← s.putNow i r p
    let qs ← s.putsNow i r ps
    return q :: qs

/-- R403: an AG whose region goes on sends what failed again. -/
def AgRun.resend (x : AgRun) : Fired :=
  if x.st.failed.isEmpty then .no
  else match x.s.putsNow (x.unit.issuer x.s) x.st.record x.st.failed with
    | .error t => x.bad (x.g.arcInto x.p (x.pin 1)) t
    | .ok ps => .go (x.s.onAg x.c x.h (2 * x.p + x.a) fun st => { st with out := ps ++ st.out, failed := [] })

/-- What a write AG does before anything else: it faults for a write that failed; it sends what it has put together. -/
def AgRun.pending (x : AgRun) : Fired :=
  match (x.s.core x.c).portError x.unit.port with
  | some t => x.bad (x.g.arcInto x.p (x.pin 1)) t
  | none => x.resend.or (if x.st.out.isEmpty then .no else x.send)

/-- The code of element `j`, of `e` half bytes, in a token, if its lane is valid. -/
def tokenCode (t : Token) (e j : Nat) : Option Nat :=
  if t.mask.getLsbD (e * j / 8) then some ((t.data.extractLsb' (4 * e * j) 64).toNat % 16 ^ e) else none

/-- R278: the next token of an AFFINE or RECORD walk is written. The scale group in progress ends with an EOS, or with a region about to stop or
step. -/
def AgRun.writeNext (x : AgRun) : Fired :=
  match x.inp 1 with
  | none => if x.g.next || x.g.stop || x.g.rootDone then x.flush else .no
  | some e =>
    let t := e.2.asVector
    if t.mark = 5 then x.bad e.1 (illegalToken t)
    else if t.mark = eosMark && x.st.group.isSome then x.flush
    else if t.mark ≠ 0 then x.fire [e.1] [] x.st
    else if !x.st.walking || x.st.owed then .no
    else
      let w := walkOf x.f x.st.record
      let n := w.chunk x.st.pos
      let ps := (List.range n).filterMap fun j => (tokenCode t w.e j).map fun v => (w.place (x.st.pos + j), v)
      x.commit [e.1] t ps { x.st with pos := x.st.pos + n, owed := decide (w.total ≤ x.st.pos + n) }

/-- R277, R278: a scatter: one idx token with each data token. -/
def AgRun.writeIndexed (x : AgRun) : Fired :=
  if !x.st.walking || x.st.owed then .no
  else match x.inp 1, x.inp 2 with
    | some e, some i =>
      let t := e.2.asVector
      let n := i.2.asVector
      if !sameMark [t, n] then x.bad e.1 (illegalToken t)
      else if n.scale.isSome then x.bad i.1 strayTrap
      else if t.mark = eosMark && x.st.group.isSome then x.flush
      else if t.mark ≠ 0 then x.fire [e.1, i.1] [] { x.st with owed := t.mark == eosMark }
      else match x.tooWide true { n with mask := n.mask &&& t.mask } with
        | some w => x.bad i.1 w
        | none =>
          let ps := (List.zip (List.range 16) (x.indexed n)).filterMap fun q => q.2.bind fun p =>
            if t.mask.getLsbD q.1 then some (p, (t.lane q.1).toNat % 16 ^ p.len) else none
          x.commit [e.1, i.1] t ps x.st
    | _, _ => if x.g.next || x.g.stop || x.g.rootDone then x.flush else .no

/-- R278: a write AG takes its next token, when what it took before has set out. -/
def AgRun.write (x : AgRun) : Fired :=
  if !agDir x.f then .no else x.pending.or (if agMode x.f = 2 then x.writeIndexed else x.writeNext)

/-- R278: every write of the walk is performed: the EOS done token. -/
def AgRun.finish (x : AgRun) : Fired :=
  let p := x.unit.port
  let k := (x.s.core x.c).takeWritten p
  if !agDir x.f || !x.st.walking || !x.st.owed then .no
  else x.pending.or <| x.flush.or <|
    if !k.portIdle p || !x.g.room x.p (x.pin 0) then .no
    else ({ x with s := x.s.setCore x.c k } : AgRun).uncount.fire [] [markToken .control eosMark]
      { x.st with walking := false, owed := false, ended := true, sb := none }

/-- Whatever an AG can do. -/
def AgRun.any (x : AgRun) : Fired := x.start.or (x.read.or (x.write.or x.finish))

/-- The action of AG `a` of a patch. -/
def State.agFire (s : State) (c h p a : Nat) (f : AgRun → Fired) (g : Region) : Fired :=
  match agFrame (g.frames p) a with
  | none => .no
  | some fr => f ⟨s, c, h, p, a, fr, g⟩

/-- R274, AG_WALK_START. -/
def execAgWalkStart (o : AgAt) (s : State) : Out := .next (s.firingOf o.core o.hdl (s.agFire o.core o.hdl o.patch o.ag AgRun.start))
/-- R276, AG_READ_TOKEN. -/
def execAgReadToken (o : AgAt) (s : State) : Out := .next (s.firingOf o.core o.hdl (s.agFire o.core o.hdl o.patch o.ag AgRun.read))
/-- R204, R289: what an AG of a region that does not run has still to write is written. -/
def State.agRest (s : State) (c h p a : Nat) : State :=
  match (s.core c).regions.find? h with
  | none => s
  | some g =>
    if g.run = .running || g.moving || s.frozen (some g.gang) then s
    else
      let x : AgRun := ⟨s, c, h, p, a, 0, g⟩
      match if x.st.out.isEmpty then x.flush else x.send with
      | .go s => s
      | .bad u t => if t.isMiss then s.miss c (u.port c h) t.info1
                    else s.onAg c h (2 * p + a) fun st => { st with group := none }
      | .no => s

/-- R278, AG_WRITE. -/
def execAgWrite (o : AgAt) (s : State) : Out :=
  .next ((s.firingOf o.core o.hdl (s.agFire o.core o.hdl o.patch o.ag AgRun.write)).agRest o.core o.hdl o.patch o.ag)
/-- R278, AG_WRITE_DONE. -/
def execAgWriteDone (o : AgAt) (s : State) : Out := .next (s.firingOf o.core o.hdl (s.agFire o.core o.hdl o.patch o.ag AgRun.finish))

end Sys2Proof.Machine
end

