-- ==== Sys2Proof/Machine/Alu.lean ====
section
/-! DEFINITION. The integer register, immediate and select instructions (R205 to R210). -/

namespace Sys2Proof.Machine

/-- R205: D from A and B. -/
def alu2 (o : OpsDAB) (f : Word → Word → Word) (s : State) : Out :=
  guarded o.g s <| withReg o.a o.fea s fun a => withReg o.b o.feb s fun b => writeReg o.d (f a b) s

/-- R205: D from A and B, signed or unsigned. -/
def alu2u (o : OpsDABu) (f : Bool → Word → Word → Word) (s : State) : Out :=
  guarded o.g s <| withReg o.a o.fea s fun a => withReg o.b o.feb s fun b => writeReg o.d (f o.uns a b) s

/-- R205: D from A, B and C. -/
def alu3 (o : OpsDABC) (f : Word → Word → Word → Word) (s : State) : Out :=
  guarded o.g s <| withReg o.a o.fea s fun a => withReg o.b o.feb s fun b => withReg o.c o.fec s fun c =>
    writeReg o.d (f a b c) s

/-- R205: D from A. -/
def alu1 (o : OpsDA) (f : Word → Word) (s : State) : Out :=
  guarded o.g s <| withReg o.a o.fea s fun a => writeReg o.d (f a) s

/-- R209: D from A and the immediate, sign-extended (R117). -/
def aluImm (o : OpsImm) (f : Word → Word → Word) (s : State) : Out :=
  guarded o.g s <| withReg o.a o.fea s fun a => writeReg o.d (f a (sext o.imm)) s

/-- The shift count of a register: bits [5:0]. -/
def shiftCount (b : Word) : Nat := b.toNat % 64

/-- MULH (R205): bits [127:64] of the product. -/
def mulHigh (uns : Bool) (a b : Word) : Word :=
  if uns then BitVec.ofNat 64 (a.toNat * b.toNat / 2 ^ 64) else BitVec.ofInt 64 (a.toInt * b.toInt / 2 ^ 64)

/-- R206: the quotient. -/
def quotient (uns : Bool) (a b : Word) : Word :=
  if b = 0 then BitVec.allOnes 64
  else if uns then BitVec.ofNat 64 (a.toNat / b.toNat)
  else if a = 0x8000000000000000 ∧ b.toInt = -1 then 0x8000000000000000
  else BitVec.ofInt 64 (a.toInt.tdiv b.toInt)

/-- R206: the remainder. -/
def remainder (uns : Bool) (a b : Word) : Word :=
  if b = 0 then a
  else if uns then BitVec.ofNat 64 (a.toNat % b.toNat)
  else if a = 0x8000000000000000 ∧ b.toInt = -1 then 0
  else BitVec.ofInt 64 (a.toInt.tmod b.toInt)

/-- The smaller of two words, or the larger. -/
def minWord (uns : Bool) (a b : Word) : Word := if (if uns then b.ult a else b.slt a) then b else a
def maxWord (uns : Bool) (a b : Word) : Word := if (if uns then a.ult b else a.slt b) then b else a

/-- R205: leading zero bits among the low `n` bits of `w`, counted from bit n - 1. -/
def leadingZeros {m : Nat} (w : BitVec m) : Nat → Nat
  | 0 => 0
  | n + 1 => if w.getLsbD n then 0 else leadingZeros w n + 1

/-- R205: trailing zero bits among `n` bits from bit `i`. -/
def trailingZeros {m : Nat} (w : BitVec m) (i : Nat) : Nat → Nat
  | 0 => 0
  | n + 1 => if w.getLsbD i then 0 else trailingZeros w (i + 1) n + 1

/-- R205: set bits among the low `n`. -/
def popCount {m : Nat} (w : BitVec m) : Nat → Nat
  | 0 => 0
  | n + 1 => popCount w n + (if w.getLsbD n then 1 else 0)

/-- R207: position and clipped width of a field descriptor. -/
def fieldPos (desc : Word) : Nat := desc.toNat % 64
def fieldWidth (desc : Word) : Nat := min (desc.toNat / 2 ^ 8 % 128) (64 - fieldPos desc)

/-- R207: BEXT. -/
def fieldU (a desc : Word) : Word := BitVec.ofNat 64 (a.toNat / 2 ^ fieldPos desc % 2 ^ fieldWidth desc)

/-- R207: EXT. -/
def fieldS (a desc : Word) : Word :=
  let wf := fieldWidth desc
  let v := a.toNat / 2 ^ fieldPos desc % 2 ^ wf
  if wf = 0 then 0
  else if v / 2 ^ (wf - 1) = 1 then BitVec.ofInt 64 ((v : Int) - 2 ^ wf) else BitVec.ofNat 64 v

/-- R207: BINS. -/
def fieldInsert (a b desc : Word) : Word :=
  let mask : Word := BitVec.ofNat 64 (2 ^ fieldWidth desc - 1)
  let pos := fieldPos desc
  (a &&& ~~~(mask <<< pos)) ||| ((b &&& mask) <<< pos)

/-- R118: MOVHI. -/
def movHigh (old : Word) (imm : BitVec 18) : Word := imm ++ old.extractLsb' 0 46

/-- R205, ADD: gA + gB. -/
def execAdd (o : OpsDAB) (s : State) : Out := alu2 o (fun a b => a + b) s

/-- R205, SUB: gA - gB. -/
def execSub (o : OpsDAB) (s : State) : Out := alu2 o (fun a b => a - b) s

/-- R205, MUL: the low 64 bits of gA × gB. -/
def execMul (o : OpsDAB) (s : State) : Out := alu2 o (fun a b => a * b) s

/-- R205, AND: gA & gB. -/
def execAnd (o : OpsDAB) (s : State) : Out := alu2 o (fun a b => a &&& b) s

/-- R205, OR: gA | gB. -/
def execOr (o : OpsDAB) (s : State) : Out := alu2 o (fun a b => a ||| b) s

/-- R205, XOR: gA ^ gB. -/
def execXor (o : OpsDAB) (s : State) : Out := alu2 o (fun a b => a ^^^ b) s

/-- R205, ANDN: gA & ~gB. -/
def execAndn (o : OpsDAB) (s : State) : Out := alu2 o (fun a b => a &&& ~~~b) s

/-- R205, SHL: gA << gB[5:0]. -/
def execShl (o : OpsDAB) (s : State) : Out := alu2 o (fun a b => a <<< shiftCount b) s

/-- R205, SHR: zeros in. -/
def execShr (o : OpsDAB) (s : State) : Out := alu2 o (fun a b => a >>> shiftCount b) s

/-- R205, SAR: sign in. -/
def execSar (o : OpsDAB) (s : State) : Out := alu2 o (fun a b => a.sshiftRight (shiftCount b)) s

/-- R205, ROTL: rotated left. -/
def execRotl (o : OpsDAB) (s : State) : Out := alu2 o (fun a b => a.rotateLeft (shiftCount b)) s

/-- R205, R206, MULH. -/
def execMulh (o : OpsDABu) (s : State) : Out := alu2u o mulHigh s

/-- R205, R206, DIV. -/
def execDiv (o : OpsDABu) (s : State) : Out := alu2u o quotient s

/-- R205, R206, REM. -/
def execRem (o : OpsDABu) (s : State) : Out := alu2u o remainder s

/-- R205, R206, MIN. -/
def execMin (o : OpsDABu) (s : State) : Out := alu2u o minWord s

/-- R205, R206, MAX. -/
def execMax (o : OpsDABu) (s : State) : Out := alu2u o maxWord s

/-- R205, CLZ. -/
def execClz (o : OpsDA) (s : State) : Out := alu1 o (fun a => BitVec.ofNat 64 (leadingZeros a 64)) s

/-- R205, CTZ. -/
def execCtz (o : OpsDA) (s : State) : Out := alu1 o (fun a => BitVec.ofNat 64 (trailingZeros a 0 64)) s

/-- R205, POPC. -/
def execPopc (o : OpsDA) (s : State) : Out := alu1 o (fun a => BitVec.ofNat 64 (popCount a 64)) s

/-- R207, BEXT. -/
def execBext (o : OpsDAB) (s : State) : Out := alu2 o fieldU s

/-- R207, EXT. -/
def execExt (o : OpsDAB) (s : State) : Out := alu2 o fieldS s

/-- R207, BINS. -/
def execBins (o : OpsDABC) (s : State) : Out := alu3 o fieldInsert s

/-- R205, MAD. -/
def execMad (o : OpsDABC) (s : State) : Out := alu3 o (fun a b c => a * b + c) s

/-- R208, SEL: only the selected operand is read. -/
def execSel (o : OpsSel) (s : State) : Out :=
  guarded o.g s <| withPred o.p s fun p =>
    if p != o.neg then withReg o.a o.fea s fun a => writeReg o.d a s
    else withReg o.b o.feb s fun b => writeReg o.d b s

/-- R209, ADDI. -/
def execAddi (o : OpsImm) (s : State) : Out := aluImm o (fun a i => a + i) s

/-- R209, ANDI. -/
def execAndi (o : OpsImm) (s : State) : Out := aluImm o (fun a i => a &&& i) s

/-- R209, ORI. -/
def execOri (o : OpsImm) (s : State) : Out := aluImm o (fun a i => a ||| i) s

/-- R209, XORI. -/
def execXori (o : OpsImm) (s : State) : Out := aluImm o (fun a i => a ^^^ i) s

/-- R209, MULI. -/
def execMuli (o : OpsImm) (s : State) : Out := aluImm o (fun a i => a * i) s

/-- R209, SHLI. -/
def execShli (o : OpsImm) (s : State) : Out := aluImm o (fun a i => a <<< shiftCount i) s

/-- R209, SHRI. -/
def execShri (o : OpsImm) (s : State) : Out := aluImm o (fun a i => a >>> shiftCount i) s

/-- R209, SARI. -/
def execSari (o : OpsImm) (s : State) : Out := aluImm o (fun a i => a.sshiftRight (shiftCount i)) s

/-- R210, R118, MOVI. -/
def execMovi (o : OpsMovi) (s : State) : Out := guarded o.g s <| writeReg o.d (sext o.imm) s

/-- R210, R118, MOVHI: it keeps bits [45:0] of gD, and reads no operand (log 21). -/
def execMovhi (o : OpsMovhi) (s : State) : Out :=
  guarded o.g s <| writeReg o.d (movHigh (s.curSlot.cell o.d).v o.imm) s

end Sys2Proof.Machine
end

