-- ==== Sys2Proof/Machine/Digest.lean ====
section
/-! DEFINITION. The two public functions that R35 names and the specification does not state, from their own standards (log 8):
SHAKE256 (FIPS 202), by which boot stages and reports are digested, and Ed448 (RFC 8032), by which firmware images and reports are
signed. -/

namespace Sys2Proof.Machine

/-! ### SHAKE256 (FIPS 202) -/

/-- A lane of the permutation's state of 5 × 5 lanes; lane (x, y) stands at x + 5 y. -/
abbrev KLane := BitVec 64

/-- The lane at (x, y). -/
def klane (a : List KLane) (x y : Nat) : KLane := a.getD (x % 5 + 5 * (y % 5)) 0

/-- The state whose lane (x, y) is f x y. -/
def kstate (f : Nat → Nat → KLane) : List KLane := (List.range 25).map fun i => f (i % 5) (i / 5)

/-- The exclusive or of a column. -/
def kcolumn (a : List KLane) (x : Nat) : KLane := (List.range 5).foldl (fun v y => v ^^^ klane a x y) 0

/-- Step θ. -/
def ktheta (a : List KLane) : List KLane :=
  let c := (List.range 5).map (kcolumn a)
  let d := (List.range 5).map fun x => c.getD ((x + 4) % 5) 0 ^^^ (c.getD ((x + 1) % 5) 0).rotateLeft 1
  kstate fun x y => klane a x y ^^^ d.getD x 0

/-- The offsets of step ρ, by lane. -/
def krhoOffsets : List Nat :=
  [0, 1, 62, 28, 27, 36, 44, 6, 55, 20, 3, 10, 43, 25, 39, 41, 45, 15, 21, 8, 18, 2, 61, 56, 14]

/-- Steps ρ and π: lane (x, y) of the result is lane (x + 3 y, x), rotated by its offset. -/
def krhoPi (a : List KLane) : List KLane :=
  kstate fun x y => (klane a (x + 3 * y) x).rotateLeft (krhoOffsets.getD ((x + 3 * y) % 5 + 5 * x) 0)

/-- Step χ. -/
def kchi (a : List KLane) : List KLane :=
  kstate fun x y => klane a x y ^^^ (~~~(klane a (x + 1) y) &&& klane a (x + 2) y)

/-- The constants of step ι, by round. -/
def kroundConstants : List KLane :=
  [0x0000000000000001, 0x0000000000008082, 0x800000000000808A, 0x8000000080008000, 0x000000000000808B, 0x0000000080000001,
   0x8000000080008081, 0x8000000000008009, 0x000000000000008A, 0x0000000000000088, 0x0000000080008009, 0x000000008000000A,
   0x000000008000808B, 0x800000000000008B, 0x8000000000008089, 0x8000000000008003, 0x8000000000008002, 0x8000000000000080,
   0x000000000000800A, 0x800000008000000A, 0x8000000080008081, 0x8000000000008080, 0x0000000080000001, 0x8000000080008008]

/-- A round. -/
def kround (a : List KLane) (rc : KLane) : List KLane :=
  match kchi (krhoPi (ktheta a)) with
  | [] => []
  | l :: ls => (l ^^^ rc) :: ls

/-- The permutation of 24 rounds. -/
def keccakF (a : List KLane) : List KLane := kroundConstants.foldl kround a

/-- Bytes as a number, the first the lowest. -/
def kbytes : List Byte → Nat
  | [] => 0
  | b :: bs => b.toNat + 256 * kbytes bs

/-- SHAKE256's rate in bytes. -/
def shakeRate : Nat := 136

/-- A block of at most the rate taken in: exclusive or, then the permutation. -/
def absorb (a : List KLane) (block : List Byte) : List KLane :=
  keccakF (a.zipIdx.map fun e => e.1 ^^^ BitVec.ofNat 64 (kbytes ((block.drop (8 * e.2)).take 8)))

/-- A message's last block, padded: the suffix 1111 and pad10*1. -/
def shakePad (rest : List Byte) : List Byte :=
  let room := shakeRate - rest.length
  if room ≤ 1 then rest ++ [0x9F] else rest ++ [0x1F] ++ List.replicate (room - 2) 0 ++ [0x80]

/-- A message taken in, block by block; fuel is one more than its blocks. -/
def shakeAbsorb : Nat → List KLane → List Byte → List KLane
  | 0, a, _ => a
  | n + 1, a, m => if m.length < shakeRate then absorb a (shakePad m) else shakeAbsorb n (absorb a (m.take shakeRate)) (m.drop shakeRate)

/-- SHAKE256's first `n` bytes of output, at most one block of them. -/
def shake256 (n : Nat) (m : List Byte) : List Byte :=
  let a := shakeAbsorb (m.length / shakeRate + 1) (List.replicate 25 0) m
  (a.flatMap fun l => (List.range 8).map fun i => l.extractLsb' (8 * i) 8).take n

/-! ### Ed448 (RFC 8032) -/

/-- The field's prime, the group's order, the curve's d. -/
def edP : Nat := 2 ^ 448 - 2 ^ 224 - 1
def edL : Nat := 2 ^ 446 - 13818066809895115352007386748515426880336692474882178609894547503885
def edD : Nat := edP - 39081

/-- A power in the field, by the exponent's bits. -/
def edPow : Nat → Nat → Nat → Nat
  | 0, _, _ => 1
  | n + 1, b, e => edPow n (b * b % edP) (e / 2) * (if e % 2 = 1 then b else 1) % edP

/-- An inverse in the field. -/
def edInv (x : Nat) : Nat := edPow 448 x (edP - 2)

/-- A point of the curve in projective coordinates. -/
structure EdPoint where
  x : Nat
  y : Nat
  z : Nat
deriving DecidableEq, Repr

/-- The neutral point. -/
def edZero : EdPoint := ⟨0, 1, 1⟩

/-- The base point. -/
def edBase : EdPoint :=
  ⟨224580040295924300187604334099896036246789641632564134246125461686950415467406032909029192869357953282578032075146446173674602635247710,
   298819210078481492676017930443930673437544040154080242095928241372331506189835876003536878655418784733982303233503462500531545062832660, 1⟩

/-- The sum of two points (RFC 8032, 5.2.4). -/
def edAdd (p q : EdPoint) : EdPoint :=
  let a := p.z * q.z % edP
  let b := a * a % edP
  let c := p.x * q.x % edP
  let d := p.y * q.y % edP
  let e := edD * c % edP * d % edP
  let f := (b + edP - e) % edP
  let g := (b + e) % edP
  let h := (p.x + p.y) * (q.x + q.y) % edP
  ⟨a * f % edP * ((h + 2 * edP - c - d) % edP) % edP, a * g % edP * ((d + edP - c) % edP) % edP, f * g % edP⟩

/-- A multiple of a point, by the factor's bits. -/
def edMul : Nat → Nat → EdPoint → EdPoint
  | 0, _, _ => edZero
  | n + 1, k, p =>
    let r := edMul n (k / 2) (edAdd p p)
    if k % 2 = 1 then edAdd r p else r

/-- `n` bytes of a number, the lowest first. -/
def edBytes : Nat → Nat → List Byte
  | 0, _ => []
  | n + 1, v => BitVec.ofNat 8 v :: edBytes n (v / 256)

/-- A point as 57 bytes: y, and the lowest bit of x on top. -/
def edEncode (p : EdPoint) : List Byte :=
  let i := edInv p.z
  edBytes 57 (p.y * i % edP + p.x * i % edP % 2 * 2 ^ 455)

/-- The point that 57 bytes name, if they name one (RFC 8032, 5.2.3). -/
def edDecode (bs : List Byte) : Option EdPoint :=
  let v := kbytes bs
  let y := v % 2 ^ 455
  let sign := v / 2 ^ 455 % 2
  if bs.length ≠ 57 ∨ edP ≤ y then none
  else
    let u := (y * y % edP + edP - 1) % edP
    let w := (edD * (y * y % edP) % edP + edP - 1) % edP
    let x := u * u % edP * u % edP * w % edP * edPow 448 (edPow 3 u 5 * edPow 2 w 3 % edP) ((edP - 3) / 4) % edP
    if w * (x * x % edP) % edP ≠ u then none
    else if x = 0 ∧ sign = 1 then none
    else some ⟨if x % 2 = sign then x else edP - x, y, 1⟩

/-- Ed448's hash, with an empty context: SHAKE256 to 114 bytes of dom4(0, ""), and the rest. -/
def edHash (m : List Byte) : Nat :=
  kbytes (shake256 114 ([0x53, 0x69, 0x67, 0x45, 0x64, 0x34, 0x34, 0x38, 0, 0] ++ m))

/-- Whether a signature of 114 bytes over a message verifies under a public key (RFC 8032, 5.2.7). -/
def edVerify (key msg sig : List Byte) : Bool :=
  match edDecode key, edDecode (sig.take 57) with
  | some a, some r =>
    let s := kbytes (sig.drop 57)
    sig.length == 114 && decide (s < edL)
      && edEncode (edMul 448 (4 * s) edBase) == edEncode (edAdd (edMul 3 4 r) (edMul 448 (4 * (edHash (sig.take 57 ++ key ++ msg) % edL)) a))
  | _, _ => false

/-- A private key's digest: its secret scalar and its prefix (RFC 8032, 5.2.5). -/
def edSecret (seed : List Byte) : Nat × List Byte :=
  let h := shake256 114 seed
  let v := kbytes (h.take 57) % 2 ^ 447 / 4 * 4
  (v + 2 ^ 447, h.drop 57)

/-- The public key of a private one. -/
def edPublic (seed : List Byte) : List Byte := edEncode (edMul 448 (edSecret seed).1 edBase)

/-- The signature of a message under a private key (RFC 8032, 5.2.6). -/
def edSign (seed msg : List Byte) : List Byte :=
  let s := edSecret seed
  let key := edEncode (edMul 448 s.1 edBase)
  let r := edHash (s.2 ++ msg) % edL
  let head := edEncode (edMul 448 r edBase)
  let k := edHash (head ++ key ++ msg) % edL
  head ++ edBytes 57 ((r + k * s.1) % edL)

end Sys2Proof.Machine
end

