-- ==== Sys2Proof/Machine/Mu.lean ====
section
/-! DEFINITION. The memory unit's modes (R280, R281, R309, R310) and the window accumulator (R87, R387 to R394). -/

namespace Sys2Proof.Machine

/-- An MU's mode at activation. -/
def MuState.fresh : MuState := ⟨[], 0, [], 0, false, none, []⟩

/-- An MU: place, frame, the region as it stands. -/
structure MuRun where
  s : State
  c : Nat
  h : Nat
  p : Nat
  m : Nat
  f : CFrame
  g : Region
deriving DecidableEq, Repr

def MuRun.st (x : MuRun) : MuState := x.g.fab.mus.get MuState.fresh (4 * x.p + x.m)

/-- Pin `i` of the MU: 0 in0, 1 in1, 2 out0, 3 out1. -/
def MuRun.pin (x : MuRun) (i : Nat) : Nat := 48 + 4 * x.m + i
def MuRun.inp (x : MuRun) (i : Nat) : Option (Nat × Token) :=
  ((x.s.core x.c).peek x.h x.g x.p (x.pin i)).map fun e => (e.1, e.2.asVector)
def MuRun.room (x : MuRun) (i : Nat) : Bool := x.g.room x.p (x.pin i)
def MuRun.bad (x : MuRun) (arc : Nat) (t : Trap) : Fired := .bad ⟨2, x.m, x.p, 0, arc⟩ t

/-- R280: the key of byte 0 of an MU's line 0, and of its mode area. -/
def muKey (c patch m : Nat) : Nat := 2 ^ 47 + c * 2 ^ 24 + 2 ^ 19 * (4 * patch + m)
def MuRun.area (x : MuRun) : Nat := muKey x.c (x.g.base + x.p) x.m + 64 * muBase x.f

/-- A firing: inputs consumed, tokens emitted, the state kept, in the module `x.s`. -/
def MuRun.fire (x : MuRun) (ins : List Nat) (outs : List (Nat × Token)) (st : MuState) : Fired :=
  let y := ins.foldl (fun (y : Site) id => y.take x.h id) ⟨x.s.core x.c, x.g⟩
  let g := outs.foldl (fun (g : Region) e => g.put x.p (x.pin e.1) e.2) y.g
  .go (x.s.putSite x.c x.h ⟨y.k, { g with fab := { g.fab with mus := g.fab.mus.set (4 * x.p + x.m) st } }⟩)

/-- R238, R314: a token that no MU takes. -/
def MuRun.sound (x : MuRun) (e : Nat × Token) (body : Fired) : Fired :=
  if e.2.mark = 5 then x.bad e.1 (illegalToken e.2)
  else if e.2.scale.isSome then x.bad e.1 strayTrap
  else body

/-! ### FIFO and TABLE (R281) -/

/-- R281: a FIFO takes a token: one line holds it. -/
def MuRun.fifoIn (x : MuRun) : Fired :=
  match x.inp 0 with
  | none => .no
  | some e => x.sound e <|
    let st := x.st
    if muLines x.f + 1 ≤ st.fifo.length then .no
    else
      let s := x.s.storeBytes (x.area + 64 * st.line) (leBytes 64 e.2.data.toNat)
      ({ x with s := s } : MuRun).fire [e.1] []
        { st with fifo := st.fifo ++ [e.2], line := (st.line + 1) % (muLines x.f + 1) }

/-- R281: a FIFO emits its oldest token. -/
def MuRun.fifoOut (x : MuRun) : Fired :=
  match x.st.fifo with
  | [] => .no
  | t :: ts => if x.room 2 then x.fire [] [(2, t)] { x.st with fifo := ts } else .no

/-- R281: a TABLE element of a format as a lane word. -/
def tableWord (fmt v : Nat) : Lane :=
  let w := 4 * viewHalf fmt
  match fmtOfCode fmt with
  | some f => if fmt = 0x08 then BitVec.ofNat 32 v else BitVec.ofNat 32 (convElem f .fp32 0 false v).1
  | none => if fmt ≤ 0x03 then BitVec.ofInt 32 (signed w v) else BitVec.ofNat 32 v

/-- R281: element `v` of the area as stored; beyond it, 0. -/
def MuRun.element (x : MuRun) (v : Nat) : Except Trap Nat :=
  let h := viewHalf (muFmt x.f)
  if (v + 1) * h ≤ 128 * (muLines x.f + 1) then
    let key := x.area + v * h / 2
    let n := max 1 (h / 2)
    if x.s.poisonedAt key n then .error { cause := .ecc, info2 := BitVec.ofNat 64 (key % 2 ^ 48) }
    else
      let w := x.s.load key n
      .ok (if h = 1 then (if v % 2 = 0 then w % 16 else w / 16) else w)
  else .ok 0

/-- The lanes of a TABLE token looked up. -/
def MuRun.lookup (x : MuRun) (t : Token) : List Nat → Except Trap (List Lane)
  | [] => .ok []
  | n :: ns => do
    let v ← if t.mask.getLsbD n then (x.element (t.lane n).toNat).map (tableWord (muFmt x.f)) else pure 0
    let l ← x.lookup t ns
    return v :: l

/-- R281: TABLE. -/
def MuRun.table (x : MuRun) : Fired :=
  match x.inp 0 with
  | none => .no
  | some e => x.sound e <|
    if !x.room 2 then .no
    else if e.2.mark ≠ 0 then x.fire [e.1] [(2, e.2)] x.st
    else match x.lookup e.2 (List.range 16) with
      | .error t => x.bad e.1 t
      | .ok ls => x.fire [e.1] [(2, vecToken ls e.2.mask)] x.st

/-! ### Windows (R87, R388 to R390) -/

/-- R388: a ⊕ b on a value with its index, `a` the older. -/
def waccOp (op fmt : Nat) (a b : Lane × Lane) : Lane × Lane :=
  let x := a.1
  let y := b.1
  let keep (v : Lane) : Lane × Lane := (v, 0)
  let lt (u v : Lane) : Bool := if fmt = 0x03 then decide (u.toInt < v.toInt) else decide (u.toNat < v.toNat)
  match op with
  | 0x0 => keep (x + y)
  | 0x1 => keep (fadd32 0 x y)
  | 0x2 => keep (if lt y x then y else x)
  | 0x3 => keep (if lt x y then y else x)
  | 0x4 => keep (fmin32 x y)
  | 0x5 => keep (fmax32 x y)
  | 0x6 => keep (x &&& y)
  | 0x7 => keep (x ||| y)
  | 0x8 => keep (x ^^^ y)
  | 0x9 => if (f32 x).below (f32 y) || ((f32 x).isNan && !(f32 y).isNan) then b else a
  | _ => keep (x * y)

/-- A left fold over contributions, oldest first. -/
def foldBack (op : Lane × Lane → Lane × Lane → Lane × Lane) : List (Lane × Lane) → Option (Lane × Lane)
  | [] => none
  | x :: xs => some (xs.foldl op x)

/-- R87: the right folds of entries, oldest first. -/
def rightFolds (op : Lane × Lane → Lane × Lane → Lane × Lane) : List (Lane × Lane) → List (Lane × Lane)
  | [] => []
  | x :: xs => match rightFolds op xs with
    | [] => [x]
    | f :: fs => op x f :: f :: fs

/-- R87: front_top ⊕ back_fold. -/
def Window.result (op : Lane × Lane → Lane × Lane → Lane × Lane) (w : Window) : Option (Lane × Lane) :=
  match w.front, foldBack op w.back with
  | f :: _, some b => some (op f b)
  | f :: _, none => some f
  | [], b => b

/-- R87, R389: one push of a contribution into a window of length `len`. -/
def Window.push (op : Lane × Lane → Lane × Lane → Lane × Lane) (len : Nat) (w : Window) (v : Lane) : Window :=
  let w := if w.front.length + w.back.length < len then w
    else
      let f := if w.front.isEmpty then rightFolds op w.back else w.front
      { w with front := f.tail, back := if w.front.isEmpty then [] else w.back }
  { w with back := w.back ++ [(v, w.n)], n := w.n + 1 }

/-- An empty window. -/
def Window.empty : Window := ⟨[], [], 0⟩

/-- The word that a result emits (R388). -/
def waccWord (op : Nat) (r : Lane × Lane) : Lane := if op = 0x9 then r.2 else r.1

/-- W now: as the frame gives it until a WSET sets it. -/
def MuRun.window (x : MuRun) : Nat := if x.st.w = 0 then muWlen x.f + 1 else x.st.w

def MuRun.op (x : MuRun) : Lane × Lane → Lane × Lane → Lane × Lane := waccOp (muWop x.f) (muFmt x.f)

/-- R394: what the lines of the mode area hold is not architectural: every push leaves them open. -/
def MuRun.scribble (x : MuRun) : MuRun :=
  let n := 64 * (muLines x.f + 1)
  { x with s := { x.s with mem := writeBytes x.s.mem x.area ((List.range n).map (Config.freeByte x.s.fresh)), fresh := x.s.fresh + 1 } }

/-- Whether a push is waiting that can be served. -/
def MuRun.pushReady (x : MuRun) : Bool :=
  !x.st.wset && x.room 2 && (x.inp 0).elim false fun e => e.2.mark == 0

/-- Whether a query is waiting that can be served. -/
def MuRun.queryReady (x : MuRun) : Bool := muPen x.f == 15 && x.room 3 && (x.inp 1).elim false fun e => e.2.mark == 0

/-- R389, R390, R393: a push. -/
def MuRun.push (x : MuRun) : Fired :=
  match x.inp 0 with
  | none => .no
  | some e =>
    if !x.pushReady || (x.queryReady && x.st.lastPush == some true) then .no
    else x.sound e <|
      let lanes := (List.range 16).filter fun n => e.2.mask.getLsbD n
      let wins := lanes.foldl (fun (t : Tab Window) n => t.upd Window.empty n fun w => w.push x.op x.window (e.2.lane n)) x.st.wins
      let out := (List.range 16).map fun n => if e.2.mask.getLsbD n then
        (((wins.get Window.empty n).result x.op).map (waccWord (muWop x.f))).getD 0 else 0
      x.scribble.fire [e.1] [(2, vecToken out e.2.mask)] { x.st with wins := wins, lastPush := some true }

/-- R392, R393: a query, or a marker on in1. -/
def MuRun.query (x : MuRun) : Fired :=
  match x.inp 1 with
  | none => .no
  | some e =>
    if muPen x.f ≠ 15 || !x.room 3 then .no
    else if e.2.mark ≠ 0 then x.sound e (x.fire [e.1] [(3, e.2)] x.st)
    else if x.pushReady && x.st.lastPush != some true then .no
    else x.sound e <|
      let rs := (List.range 16).map fun n => if e.2.mask.getLsbD n then (x.st.wins.get Window.empty n).result x.op else none
      let mask : BitVec 16 := (rs.zipIdx).foldl (fun (m : BitVec 16) r => if r.1.isSome then m ||| (1 <<< r.2) else m) 0
      x.fire [e.1] [(3, vecToken (rs.map fun r => (r.map (waccWord (muWop x.f))).getD 0) mask)] { x.st with lastPush := some false }

/-- R391: whether W = `w` fits the mode area. -/
def MuRun.fits (x : MuRun) (w : Nat) : Bool := (if muWop x.f = 9 then 2 else 1) * w ≤ muLines x.f + 1

/-- R391: a marker on in0, or the length that follows WSET. -/
def MuRun.marker (x : MuRun) : Fired :=
  match x.inp 0 with
  | none => .no
  | some e => x.sound e <|
    let m := e.2.mark
    if x.st.wset then
      let v := e.2.value.toNat
      if m ≠ 0 ∨ 2 ^ 12 ≤ v ∨ !x.fits (v + 1) then x.bad e.1 (illegalToken e.2)
      else x.fire [e.1] [] { x.st with wset := false, wins := [], w := v + 1 }
    else if m = 0 then .no
    else if m = 6 then x.fire [e.1] [] { x.st with wset := true }
    else if !x.room 2 then .no
    else x.fire [e.1] [(2, e.2)] (if m = eosMark then { x.st with wins := [] } else x.st)

/-! ### ACCR (R309, R310) -/

/-- R310: a matrix token that names a tile and is started and not complete. -/
def MxToken.names (t : MxToken) (tile : Nat) : Bool :=
  let acc := rfld t.w0 56 4
  acc == tile || (t.w0.getLsbD 47 && acc + 1 == tile)

def MxToken.begun (t : MxToken) : Bool := t.phase == .started || t.phase == .faulted

/-- Row tokens of a tile: four to each row, columns ascending. -/
def rowTokens (t : Tile) (first count : Nat) : List Token :=
  (List.range (4 * count)).map fun i =>
    vecToken ((List.range 16).map fun j => t.elems.get 0 (64 * first + 16 * i + j)) 0xFFFF

/-- R309, R312: the next response token, in `rows`; `line` is the tile, `w` its first element. -/
def MuRun.respond (x : MuRun) (t : Token) (ts : List Token) : Fired :=
  if !x.room 2 then .no
  else
    let tile := (x.s.core x.c).tiles.get Tile.zero x.st.line
    match (List.range 16).find? fun j => tile.poisoned.contains (x.st.w + j) with
    | some j => x.bad 0 { cause := .ecc, detail := 1, info2 := BitVec.ofNat 64 (x.st.line + (x.st.w + j) * 2 ^ 4) }
    | none => x.fire [] [(2, t)] { x.st with rows := ts, w := x.st.w + 16 }

/-- R309, R310: a request, a marker, or a response token. -/
def MuRun.accr (x : MuRun) : Fired :=
  match x.st.rows with
  | t :: ts => x.respond t ts
  | [] =>
    match x.inp 0 with
    | none => .no
    | some e => x.sound e <|
      if e.2.mark ≠ 0 then (if x.room 2 then x.fire [e.1] [(2, e.2)] x.st else .no)
      else
        let v := e.2.value.toNat
        let tile := v % 16
        let first := v / 16 % 64
        let count := v / 2 ^ 10 % 64 + 1
        let k := x.s.core x.c
        if 2 ^ 16 ≤ v then x.bad e.1 (illegalToken e.2)
        else if 64 < first + count then x.bad e.1 { cause := .bounds, info1 := Config.accrOffset e.2.value, info2 := Config.accrRecord e.2.value &&& 0xFF }
        else if k.mxq.any fun t => t.begun && t.names tile then .no
        else x.fire [e.1] [] { x.st with rows := rowTokens (k.tiles.get Tile.zero tile) first count, line := tile, w := 64 * first }

/-! ### Firings -/

/-- Whatever an MU can do in its mode. -/
def MuRun.any (x : MuRun) : Fired :=
  match muMode x.f with
  | 2 => x.fifoOut.or x.fifoIn
  | 3 => x.push.or (x.query.or x.marker)
  | 4 => x.accr
  | 5 => x.table
  | _ => .no

/-- The action of MU `m` of a patch. -/
def State.muFire (s : State) (c h p m : Nat) (f : MuRun → Fired) (g : Region) : Fired :=
  match muFrame (g.frames p) m with
  | none => .no
  | some fr => f ⟨s, c, h, p, m, fr, g⟩

/-- An action of an MU in a mode. -/
def muEvent (mode c h p m : Nat) (f : MuRun → Fired) (s : State) : Out :=
  .next (s.firingOf c h (s.muFire c h p m fun x => if muMode x.f = mode then f x else .no))

/-- R281, MU_FIFO. -/
def execMuFifo (o : MuPortAt) (s : State) : Out :=
  muEvent 2 o.core o.hdl o.patch o.mu (if o.out then MuRun.fifoOut else MuRun.fifoIn) s
/-- R281, MU_TABLE. -/
def execMuTable (o : MuAt) (s : State) : Out := muEvent 5 o.core o.hdl o.patch o.mu MuRun.table s
/-- R389, WACC_PUSH. -/
def execWaccPush (o : MuAt) (s : State) : Out := muEvent 3 o.core o.hdl o.patch o.mu MuRun.push s
/-- R392, WACC_QUERY. -/
def execWaccQuery (o : MuAt) (s : State) : Out := muEvent 3 o.core o.hdl o.patch o.mu MuRun.query s
/-- R391, WACC_MARKER. -/
def execWaccMarker (o : MuAt) (s : State) : Out := muEvent 3 o.core o.hdl o.patch o.mu MuRun.marker s
/-- R310, ACCR_REQUEST. -/
def execAccrRequest (o : MuAt) (s : State) : Out := muEvent 4 o.core o.hdl o.patch o.mu MuRun.accr s

end Sys2Proof.Machine
end

