-- ==== Sys2Proof/Machine/Lx.lean ====
section
/-! DEFINITION. LX conversions (R313 to R316), and the general firing row (R241). -/

namespace Sys2Proof.Machine

/-- An LX at activation. -/
def LxState.fresh : LxState := ⟨[], [], none, none, 0⟩

/-- An LX: place, frame, the region as it stands. -/
structure LxRun where
  s : State
  c : Nat
  h : Nat
  p : Nat
  f : CFrame
  g : Region
deriving DecidableEq, Repr

def LxRun.st (x : LxRun) : LxState := x.g.fab.lxs.get LxState.fresh x.p

/-- R314: the pins: data in, metadata in, data out, metadata out. -/
def LxRun.dataIn (x : LxRun) : Nat := 88 + lxIn x.f
def LxRun.metaPin (x : LxRun) : Nat := 89 - lxIn x.f
def LxRun.dataOut (x : LxRun) : Nat := 90 + lxOut x.f
def LxRun.metaOutPin (x : LxRun) : Nat := 91 - lxOut x.f

def LxRun.inp (x : LxRun) (pin : Nat) : Option (Nat × Token) :=
  ((x.s.core x.c).peek x.h x.g x.p pin).map fun e => (e.1, e.2.asVector)
def LxRun.room (x : LxRun) (pin : Nat) : Bool := x.g.room x.p pin
def LxRun.bad (x : LxRun) (arc : Nat) (t : Trap) : Fired := .bad ⟨6, 0, x.p, 0, arc⟩ t

/-- A firing: inputs consumed, tokens emitted on pins, the state kept, status recorded (R83). -/
def LxRun.fire (x : LxRun) (ins : List Nat) (outs : List (Nat × Token)) (st : LxState) (status : BitVec 3 := 0) : Fired :=
  let y := ins.foldl (fun (y : Site) id => y.take x.h id) ⟨x.s.core x.c, x.g⟩
  let g := outs.foldl (fun (g : Region) e => g.put x.p e.1 e.2) y.g
  .go (x.s.putSite x.c x.h ⟨y.k.addStatus (some x.g.gang) status, { g with fab := { g.fab with lxs := g.fab.lxs.set x.p st } }⟩)

/-- R316: the format that PLANE regroups. -/
def planeFmt (f : CFrame) : Nat := 0x10 + (lxRnd f).toNat

/-- The formats of the input and the output stream. -/
def LxRun.formats (x : LxRun) : Nat × Nat := (convFormats (lxConv x.f)).getD (planeFmt x.f, planeFmt x.f)

/-- Half bytes of an element in and out. -/
def LxRun.eIn (x : LxRun) : Nat := viewHalf x.formats.1
def LxRun.eOut (x : LxRun) : Nat := viewHalf x.formats.2

/-- R313: the elements of a token's valid lanes, low element first. -/
def tokenElems (e : Nat) (t : Token) : List (BitVec 32) :=
  (List.range 16).flatMap fun n =>
    if t.mask.getLsbD n then
      (List.range (8 / e)).map fun j => BitVec.ofNat 32 ((t.lane n).toNat / 16 ^ (e * j) % 16 ^ e)
    else []

/-- R313: a token of output elements, packed from lane 0 upward. -/
def elemToken (e : Nat) (vs : List (BitVec 32)) (scale : Option (BitVec 128)) : Token :=
  ⟨.vector, packCodes e (vs.map fun v => v.toNat), lanesMask (vs.length * e), 0, scale⟩

/-- R314: a group's metadata as a token. -/
def metaToken (w : BitVec 128) : Token := ⟨.vector, w.setWidth 512, 0x000F, 0, none⟩

/-- Output elements that fill a token. -/
def LxRun.full (x : LxRun) : Nat := 128 / x.eOut

/-- R313, R314, R316: the next output token: full, or what is left when `flush`; with the metadata that is owed: to a group's first token. -/
def LxRun.emit (x : LxRun) (flush : Bool) : Option Fired :=
  let st := x.st
  if st.outs.length < x.full && !(flush && !st.outs.isEmpty) then none
  else
    let vs := st.outs.take x.full
    let plane := lxConv x.f == 0x1F
    let attach := lxMsrc x.f && (lxToDb (lxConv x.f) || (plane && (st.pos + 512 - st.ins.length - st.outs.length) % 256 == 0))
    let t := elemToken x.eOut vs (if attach then st.metaOut else none)
    let side := match st.metaOut with
      | some w => if !lxMsrc x.f && lxToDb (lxConv x.f) then [(x.metaOutPin, metaToken w)] else []
      | none => []
    let keep := if lxFromDb (lxConv x.f) || (plane && !attach) then st.metaOut else none
    if x.room x.dataOut && side.all fun e => x.room e.1 then
      some (x.fire [] ((x.dataOut, t) :: side) { st with outs := st.outs.drop x.full, metaOut := keep })
    else some .no

/-- R315: input elements converted one by one. -/
def LxRun.convert (x : LxRun) (vs : List (BitVec 32)) : List (BitVec 32 × BitVec 3) :=
  vs.map fun v => match fmtOfCode x.formats.1, fmtOfCode x.formats.2 with
    | some a, some b => let r := convElem a b (lxRnd x.f) (lxSat x.f) v.toNat
                        (BitVec.ofNat 32 r.1, r.2)
    | _, _ => (v, 0)

/-- R82: elements of a DB group from index `i`. -/
def LxRun.fromDb (x : LxRun) (w : BitVec 128) (i : Nat) (vs : List (BitVec 32)) : List (BitVec 32 × BitVec 3) :=
  (vs.zipIdx).map fun e => match fmtOfCode x.formats.2 with
    | some b => let r := dbTo (dbM x.formats.1) w b (lxRnd x.f) (lxSat x.f) (i + e.2) e.1.toNat
                (BitVec.ofNat 32 r.1, r.2)
    | none => (e.1, 0)

/-- The status of several conversions. -/
def orStatus (l : List (BitVec 32 × BitVec 3)) : BitVec 3 := l.foldl (fun s e => s ||| e.2) 0

/-- R80, R314: a group of input elements, padded if short, into DB. -/
def LxRun.group (x : LxRun) (st : LxState) : Fired :=
  let n := min 256 st.ins.length
  let f := (fmtOfCode x.formats.1).getD .fp32
  let g := toDb (dbM x.formats.2) (lxRnd x.f) ((st.ins.take n).map fun v => f.dec v.toNat)
  x.fire [] [] { st with ins := st.ins.drop n, outs := (g.codes.take n).map fun c => BitVec.ofNat 32 c, metaOut := some g.scale } g.status

/-- R316: a block of 32 elements regrouped; missing elements are 0. -/
def LxRun.regroup (x : LxRun) (vs : List (BitVec 32)) : List (BitVec 32) :=
  let fmt := x.formats.1
  let e := viewHalf fmt
  let v := (packCodes e (vs.map fun v => v.toNat)).toNat
  let codes := blockCodes (dbM fmt) (lxSat x.f) (leBytes (16 * e) v)
  let w := leNat (blockBytes (dbM fmt) (!lxSat x.f) codes)
  (List.range 32).map fun j => BitVec.ofNat 32 (w / 16 ^ (e * j) % 16 ^ e)

/-- R314: whether an arc comes from an AG. -/
def arcFromAg (id : Nat) : Bool := arcSpin id == 64 || arcSpin id == 68

/-- R314: whether a scale group begins in a token of the data input: `pos` counts the elements converted, or those taken by PLANE. -/
def LxRun.begins (x : LxRun) (t : Token) : Bool :=
  let first := (x.st.pos + if lxConv x.f = 0x1F then 0 else x.st.ins.length) % 256
  let n := (tokenElems x.eIn t).length
  decide (n ≠ 0 ∧ (first = 0 ∨ 256 < first + n))

/-- R314: metadata that an LX attached, at an input that takes none; an AG's stays unused there. -/
def strayAt (e : Nat × Token) : Bool := e.2.scale.isSome && !arcFromAg e.1

/-- R78, R238, R314: a token that the data input does not take. -/
def LxRun.sound (x : LxRun) (e : Nat × Token) (body : Fired) : Fired :=
  let fromDb := lxFromDb (lxConv x.f)
  let attached := lxMsrc x.f && (fromDb || lxConv x.f == 0x1F)
  if e.2.mark = 5 then x.bad e.1 (illegalToken e.2)
  else if e.2.mark = 0 && attached then
    if !arcFromAg e.1 || (x.begins e.2 && e.2.scale.elim true fun w => fromDb && metaBad w) then x.bad e.1 strayTrap else body
  else if strayAt e then x.bad e.1 strayTrap
  else body

/-- R314: a DB source's elements are converted once their group's metadata is there. -/
def LxRun.drainDb (x : LxRun) : Fired :=
  let st := x.st
  match st.metaIn with
  | some w =>
    let n := min st.ins.length (256 - st.pos)
    let r := x.fromDb w st.pos (st.ins.take n)
    let pos := (st.pos + n) % 256
    x.fire [] [] { st with ins := st.ins.drop n, outs := st.outs ++ r.map (fun e => e.1), pos := pos,
                           metaIn := if pos = 0 then none else some w } (orStatus r)
  | none =>
    if lxMsrc x.f then x.fire [] [] { st with metaIn := some (st.metaOut.getD 0) }
    else match x.inp x.metaPin with
      | none => .no
      | some e =>
        if e.2.mark = 5 then x.bad e.1 (illegalToken e.2)
        else if strayAt e || (e.2.mark = 0 && metaBad (e.2.data.extractLsb' 0 128)) then x.bad e.1 strayTrap
        else if e.2.mark ≠ 0 then x.fire [e.1] [] st
        else x.fire [e.1] [] { st with metaIn := some (e.2.data.extractLsb' 0 128) }

/-- R313: a data token is taken in. -/
def LxRun.takeIn (x : LxRun) (e : Nat × Token) : Fired :=
  let st := x.st
  let vs := tokenElems x.eIn e.2
  let c := lxConv x.f
  if lxToDb c || lxFromDb c then
    x.fire [e.1] [] { st with ins := st.ins ++ vs, metaOut := if lxFromDb c && lxMsrc x.f && x.begins e.2 then e.2.scale else st.metaOut }
  else
    let r := x.convert vs
    x.fire [e.1] [] { st with outs := st.outs ++ r.map fun e => e.1 } (orStatus r)

/-- R313, R314: the marker at the data input: what is left is flushed first, then it goes out and groups start afresh. -/
def LxRun.flushMark (x : LxRun) (e : Nat × Token) : Fired :=
  match x.emit true with
  | some f => f
  | none =>
    if x.room x.dataOut then
      x.fire [e.1] [(x.dataOut, { e.2 with scale := none })] { x.st with metaIn := none, metaOut := none, pos := 0 }
    else .no

/-- R313 to R315: the next move of a conversion. -/
def LxRun.conv (x : LxRun) : Fired :=
  let st := x.st
  let c := lxConv x.f
  if c = 0x1F then .no
  else match x.emit (lxToDb c) with
    | some f => f
    | none =>
      if lxFromDb c && !st.ins.isEmpty then x.drainDb
      else if lxToDb c && 256 ≤ st.ins.length then x.group st
      else match x.inp x.dataIn with
        | none => .no
        | some e => x.sound e <|
          if e.2.mark = 0 then x.takeIn e
          else if lxToDb c && !st.ins.isEmpty then x.group st
          else x.flushMark e

/-- R316: the next move of PLANE. -/
def LxRun.plane (x : LxRun) : Fired :=
  let st := x.st
  if lxConv x.f ≠ 0x1F then .no
  else match x.emit false with
    | some f => f
    | none =>
      if 32 ≤ st.ins.length then
        x.fire [] [] { st with ins := st.ins.drop 32, outs := st.outs ++ x.regroup (st.ins.take 32) }
      else
        let aside : Fired := if lxMsrc x.f then .no else match x.inp x.metaPin with
          | none => .no
          | some e =>
            if e.2.mark = 5 then x.bad e.1 (illegalToken e.2)
            else if strayAt e then x.bad e.1 strayTrap
            else if x.room x.metaOutPin then x.fire [e.1] [(x.metaOutPin, { e.2 with scale := none })] st else .no
        aside.or (match x.inp x.dataIn with
          | none => .no
          | some e => x.sound e <|
            if e.2.mark = 0 then
              let vs := tokenElems x.eIn e.2
              x.fire [e.1] [] { st with ins := st.ins ++ vs, pos := (st.pos + vs.length) % 256,
                                        metaOut := if lxMsrc x.f && x.begins e.2 then e.2.scale else st.metaOut }
            else if !st.ins.isEmpty then
              x.fire [] [] { st with ins := [], outs := st.outs ++ x.regroup st.ins, pos := (st.pos + 32 - st.ins.length) % 256 }
            else x.flushMark e)

/-- The action of a patch's LX. -/
def State.lxFire (s : State) (c h p : Nat) (f : LxRun → Fired) (g : Region) : Fired :=
  match lxFrame (g.frames p) with
  | none => .no
  | some fr => f ⟨s, c, h, p, fr, g⟩

/-- R315, LX_CONVERT. -/
def execLxConvert (o : PatchAt) (s : State) : Out := .next (s.firingOf o.core o.hdl (s.lxFire o.core o.hdl o.patch LxRun.conv))
/-- R316, LX_PLANE. -/
def execLxPlane (o : PatchAt) (s : State) : Out := .next (s.firingOf o.core o.hdl (s.lxFire o.core o.hdl o.patch LxRun.plane))

/-! ### Any unit (R241) -/

/-- What a unit can do now. -/
def State.unitFire (s : State) (c h p : Nat) (u : UnitId) (g : Region) : Fired :=
  match u with
  | .cu cu st => if st = 5 then (s.handOver c h p cu g).or (s.stageFire c h p cu st g) else s.stageFire c h p cu st g
  | .ct k => s.ctFire c h p k g
  | .ag a => s.agFire c h p a AgRun.any g
  | .mu m => s.muFire c h p m MuRun.any g
  | .lx => s.lxFire c h p (fun x => x.conv.or x.plane) g

/-- The units of a patch. -/
def patchUnits : List UnitId :=
  ((List.range 4).flatMap fun c => (List.range 6).map fun st => UnitId.cu c st)
    ++ (List.range 4).map UnitId.ct ++ (List.range 2).map UnitId.ag ++ (List.range 4).map UnitId.mu ++ [.lx]

/-- R241, FIRING: a unit fires, whatever it is. -/
def execFiring (o : UnitAt) (s : State) : Out :=
  .next (s.firingOf o.core o.hdl (s.unitFire o.core o.hdl o.patch o.unit))

end Sys2Proof.Machine
end

