-- ==== Sys2Proof/Machine/Image.lean ====
section
/-! DEFINITION. Configuration images (R178 to R183): the header and tables of Tables 8-1 to 8-4, read through a reader of bytes,
and their checks. -/

namespace Sys2Proof.Machine

/-- A reader of an image: `n` bytes at an offset from its base. -/
abbrev ImageReader := Nat → Nat → Except Trap Nat

/-- Table 8-1. -/
structure ImageHeader where
  clen : Nat
  coff : Nat
  nfrm : Nat
  foff : Nat
  doff : Nat
  roff : Nat
  eoff : Nat
  ncfg : Nat
  nreg : Nat
  nent : Nat
deriving DecidableEq, Repr

/-- FRAME (0x12), for a malformed header or table or a rejected configuration (R182, R183). -/
def frameTrap : Trap := { cause := .frame }

/-- A condition that an image is to meet. -/
def need (b : Bool) : Except Trap Unit := if b then .ok () else .error frameTrap

/-- Table 8-1: the header, with its ranges and alignments. -/
def readHeader (rd : ImageReader) : Except Trap ImageHeader := do
  let v ← rd 0 64
  let h : ImageHeader := ⟨bits v 287 256, bits v 255 224, bits v 223 192, bits v 191 160, bits v 159 128, bits v 127 96,
    bits v 95 64, bits v 47 32, bits v 23 16, bits v 15 8⟩
  need (bits v 7 0 == 1 && bits v 511 288 == 0 && bits v 63 48 == 0 && bits v 31 24 == 0)
  need (h.clen % 8 == 0 && h.coff % 8 == 0 && h.foff % 32 == 0 && h.doff % 8 == 0 && h.roff % 16 == 0 && h.eoff % 16 == 0)
  need (1 ≤ h.nfrm && h.nfrm ≤ 8192 && 1 ≤ h.ncfg && h.ncfg ≤ 1024 && 1 ≤ h.nreg && h.nreg ≤ 8 && h.nent ≤ 48)
  return h

/-- A list built with a reader. -/
def readAll {α : Type} (f : Nat → Except Trap α) : List Nat → Except Trap (List α)
  | [] => .ok []
  | i :: is => do
    let x ← f i
    let xs ← readAll f is
    return x :: xs

/-- R181: frames grouped by relative patch; each group begins with its PATCH frame. -/
def splitGroups : Nat → List CFrame → Option ConfigFrames
  | 0, [] => some []
  | 0, _ :: _ => none
  | _ + 1, [] => none
  | n + 1, f :: fs =>
    if frKind f = 7 ∧ ptCount f ≤ fs.length + 1 then
      (splitGroups n ((f :: fs).drop (ptCount f))).map fun t => (f :: fs).take (ptCount f) :: t
    else none

/-- R181, R182: configuration `n`. -/
def readConfig (rd : ImageReader) (h : ImageHeader) (n : Nat) : Except Trap ConfigFrames := do
  need (n < h.ncfg)
  let d ← rd (h.doff + 8 * n) 8
  let count := bits d 40 32 + 1
  let first := bits d 15 0
  need (bits d 63 41 == 0 && bits d 31 19 == 0 && first + count ≤ h.nfrm)
  let fs ← readAll (fun i => (rd (h.foff + 32 * (first + i)) 32).map (BitVec.ofNat 256)) (List.range count)
  match splitGroups (bits d 18 16 + 1) fs with
  | none => throw frameTrap
  | some groups =>
    need (configOk groups.length groups)
    return groups

/-- R180: entry `r` of the region table, with the list it names. -/
def readRegion (rd : ImageReader) (h : ImageHeader) (r : Nat) : Except Trap RegionEntry := do
  let e ← rd (h.roff + 16 * r) 16
  let nd := bits e 7 6 + 1
  let len := bits e 5 0 + 1
  let counts := (List.range 4).map fun k => bits e (79 + 16 * k) (64 + 16 * k)
  need (bits e 31 8 == 0 && (counts.drop nd).all fun c => c == 0)
  let l ← readAll (fun i => rd (bits e 63 32 + 2 * i) 2) (List.range len)
  need (l.all fun n => n < h.ncfg)
  return ⟨l, (counts.take nd).map fun c => c + 1⟩

/-- R179: entry `e` of the entry table. -/
def readEntry (rd : ImageReader) (h : ImageHeader) (e : Nat) : Except Trap TaskEntry := do
  let v ← rd (h.eoff + 16 * e) 16
  need (bits v 127 88 == 0 && bits v 35 35 == 0 && bits v 31 0 % 8 == 0 && bits v 31 0 < h.clen)
  return ⟨bits v 31 0, BitVec.ofNat 3 (bits v 34 32), BitVec.ofNat 4 (bits v 39 36), BitVec.ofNat 48 (bits v 87 40)⟩

/-- R178: where an image's structures begin and end, as offsets. -/
def imageSpans (h : ImageHeader) (lists : List (Nat × Nat)) : List (Nat × Nat) :=
  [(0, 64), (h.coff, h.coff + h.clen), (h.foff, h.foff + 32 * h.nfrm), (h.doff, h.doff + 8 * h.ncfg),
   (h.roff, h.roff + 16 * h.nreg), (h.eoff, h.eoff + 16 * h.nent)] ++ lists

/-- The lists that the region table names, as spans of offsets. -/
def readLists (rd : ImageReader) (h : ImageHeader) : Except Trap (List (Nat × Nat)) :=
  readAll (fun r => (rd (h.roff + 16 * r) 16).map fun e => (bits e 63 32, bits e 63 32 + 2 * (bits e 5 0 + 1))) (List.range h.nreg)

/-- R178: the 64 KiB pages, from the base, that hold any byte of the image's extent. -/
def imagePages (spans : List (Nat × Nat)) : Nat := (spans.foldl (fun m e => max m e.2) 1 + 65535) / 65536

/-- R183: an image read whole and checked; `page` is its base page. -/
def readImage (rd : ImageReader) (page? : Nat → Except Trap Unit) (dom page : Nat) : Except Trap Image := do
  let h ← readHeader rd
  let lists ← readLists rd h
  let count := imagePages (imageSpans h lists)
  let _ ← readAll page? (List.range count)
  let configs ← readAll (readConfig rd h) (List.range h.ncfg)
  let regions ← readAll (readRegion rd h) (List.range h.nreg)
  let entries ← readAll (readEntry rd h) (List.range h.nent)
  return ⟨dom, page, (List.range count).map fun i => page + i, h.nfrm, h.coff, h.clen, configs, regions, entries, false⟩

/-! ### Readers -/

/-- Bytes of one page translated by `tr`, with the ECC fault of poisoned ones (R417). -/
def State.codePart (s : State) (tr : Nat → Except Trap Page) (va n : Nat) : Except Trap Nat := do
  let p ← tr va
  let key := p.key + va % 2 ^ 16
  if s.poisonedAt key n then throw { cause := .ecc, info1 := BitVec.ofNat 64 va, info2 := BitVec.ofNat 64 (key % 2 ^ 48) }
  return s.load key n

/-- `n` bytes, at most a page, translated by `tr`, as a hem die reads them. -/
def State.codeRead (s : State) (tr : Nat → Except Trap Page) (va n : Nat) : Except Trap Nat := do
  let first := min n (2 ^ 16 - va % 2 ^ 16)
  let a ← s.codePart tr va first
  if first = n then return a
  let b ← s.codePart tr (va + first) (n - first)
  return a + b * 2 ^ (8 * first)

/-- The bytes that a read of `n` bytes, at most a page, asks for. -/
def codeWants (tr : Nat → Except Trap Page) (va n : Nat) : Except Trap (List Want) := do
  let part (va n : Nat) : Except Trap (List Want) :=
    (tr va).map fun p => (List.range n).map fun i => ⟨p.key + va % 2 ^ 16 + i, va + i, none⟩
  let first := min n (2 ^ 16 - va % 2 ^ 16)
  let a ← part va first
  if first = n then return a
  let b ← part (va + first) (n - first)
  return a ++ b

/-- A read that waits for its bytes. No trap of the specification has this detail. -/
def awaitTrap (va n : Nat) : Trap := { cause := .xlate, detail := 254, info1 := BitVec.ofNat 64 va, info2 := BitVec.ofNat 64 n }

/-- Whether a trap stands for such a wait. -/
def Trap.isAwait (t : Trap) : Bool := t.cause == .xlate && t.detail == 254

/-- A read of a unit in the memory that its replies show: its value, or a wait for what is not back. -/
def State.loadRead (s seen : State) (u : Requester) (tr : Nat → Except Trap Page) (va n : Nat) : Except Trap Nat := do
  let ws ← codeWants tr va n
  if !((spansOf ws).all fun x => (((s.core u.core).asked u.port x).bind fun r => r.reply?).isSome) then throw (awaitTrap va n)
  if let some t := seen.wantPoison ws then throw t
  return leNat (ws.map fun w => readByte seen.mem w.key)

/-- What a load of several reads, each depending on those before it, has come to. -/
inductive Loaded (α : Type) where
  | failed (t : Trap)
  | waiting (s : State)
  | done (a : α)

/-- A unit's load, as far as its replies carry it: what it needs next is asked for. -/
def State.loadVia {α : Type} (s : State) (u : Requester) (tr : Nat → Except Trap Page) (read : (Nat → Nat → Except Trap Nat) → Except Trap α) :
    Loaded α :=
  match (s.core u.core).portError u.port with
  | some t => .failed t
  | none => match read (s.loadRead (s.seen u) u tr) with
    | .ok a => .done a
    | .error t =>
      if t.isMiss then .waiting (s.miss u.core u.port t.info1)
      else if t.isAwait then match codeWants tr t.info1.toNat t.info2.toNat with
        | .ok ws => .waiting ((s.remember (u.issuer s) t.info1.toNat).askAll u some (spansOf ws))
        | .error _ => .waiting s
      else .failed t

/-- R183: an image fetch of a core as a requester: it acts for the launch's domain. -/
def imageUnit (core dom page : Nat) : Requester := ⟨core, .image core dom page, none, dom, false⟩

/-- R183: an image fetched on a core: ex is required of every page. -/
def State.fetchImage (s : State) (core dom page : Nat) : Loaded Image :=
  let u := imageUnit core dom page
  let tr (va : Nat) : Except Trap Page := s.translate (u.issuer s) .fetch false false none va
  s.loadVia u tr fun rd => readImage (fun off n => rd (page * 2 ^ 16 + off) n) (fun i => (tr ((page + i) * 2 ^ 16)).map fun _ => ()) dom page

/-- An SCFG load as a requester (R191). -/
def Scfg.unit (x : Scfg) (core ix : Nat) : Requester := ⟨core, .load core ix, x.gang, x.dom, x.priv⟩

/-- R94, R97, R191: SCFG's reads through its record: LINEAR, viewed as CODE, a configuration fetch. -/
def State.scfgPage (s : State) (u : Requester) (x : Scfg) (va : Nat) : Except Trap Page := do
  let p ← s.translate (u.issuer s) .fetch false false none va (recView x.record)
  if recBad x.record || recKind x.record ≠ 0 || recView x.record ≠ 0x1E then throw (formatTrap va p.fmt (recView x.record))
  return p

/-- R103, R191: SCFG's reader over one of VAs. -/
def Scfg.read (x : Scfg) (rd : Nat → Nat → Except Trap Nat) (off n : Nat) : Except Trap Nat := do
  match ← boundOf x.record x.ix ⟨0, off, recExtent x.record, none⟩ n false false with
  | .nothing => return 0
  | .part o lo len =>
    let v ← rd ((recBase x.record : Int) + o).toNat len
    return v * 2 ^ (8 * lo)

/-- R191: the configuration that an SCFG loads, for a region of `len` patches at `base`. -/
def State.scfgLoad (s : State) (core ix : Nat) (x : Scfg) (len base : Nat) : Loaded ConfigFrames :=
  let u := x.unit core ix
  s.loadVia u (s.scfgPage u x) fun rd => do
    let h ← readHeader (x.read rd)
    let c ← readConfig (x.read rd) h x.n
    need (c.length == len && mxOk base (mxPatches c))
    return c

end Sys2Proof.Machine
end

