-- ==== Sys2Proof/Machine/Region.lean ====
section
/-! DEFINITION. Region control: banks and swaps (R185, R186, R190), SCFG (R191), SGO, SNEXT and SSTOP (R192 to R194), SBIND (R339),
the step of a region (R187), rolling swap (R188, R289), a region's end (R38, R189, R290), clasps on delivery (R283). -/

namespace Sys2Proof.Machine

/-! ### Banks (R185, R186) -/

/-- A bank that nothing fills. -/
def Bank.none : Bank := ⟨.invalid, [], []⟩

/-- R183, R185: the frames of the configuration after the next advance. -/
def Core.nextFrames (k : Core) (g : Region) : Option ConfigFrames := g.nextPos.bind fun e => k.listed g e.1

/-- R38: CFGPC and the indices after an advance. -/
def Region.advance (g : Region) : Region :=
  match g.nextPos with
  | some (pc, ix) => { g with cfgpc := pc, idx := ix }
  | none => g

/-- Table 10-2, R186: the units of patch `p` start afresh; the MUs in `keep` keep their mode state. -/
def Fabric.freshUnits (f : Fabric) (p : Nat) (keep : List Nat) : Fabric :=
  { f with
    stages := f.stages.filter fun e => e.1 / 24 != p
    holds := f.holds.filter fun e => e.1 / 1536 != p
    cts := f.cts.filter fun e => e.1 / 4 != p
    ags := f.ags.filter (fun e => e.1 / 2 != p) ++ restAgs (f.ags.filter fun e => e.1 / 2 == p)
    mus := f.mus.filter fun e => e.1 / 4 != p || keep.contains (e.1 % 4)
    lxs := f.lxs.filter fun e => e.1 != p
    taken := f.taken.filter fun e => e.1 / 16 != p
    eos := f.eos.filter fun n => n / 128 != p }

/-- R186: patch `p` swaps. `next` is its group in the configuration that comes after the one it swaps to. -/
def Region.swapPatch (g : Region) (p : Nat) (next : Option (List CFrame)) : Region :=
  let new := g.shadow.get Bank.none p
  let old := g.active.get Bank.none p
  let keep := (List.range 4).filter fun m =>
    (muFrame new.frames m).isSome && muFrame old.frames m == muFrame new.frames m
  { g with
    active := g.active.set p { new with state := .valid }
    shadow := if next = some old.frames then g.shadow.set p { old with state := .valid } else g.shadow.erase p
    fab := g.fab.freshUnits p keep
    binds := g.binds.filter fun e => e.1 / 2 != p
    moved := true }

/-- R339: bound walks of the patches in `ps` end, and their counters fall. -/
def Core.cutWalks (k : Core) (g : Region) (ps : List Nat) : Core :=
  g.fab.ags.foldl (fun (k : Core) e => match e.2.sb with
    | some b => if e.2.walking && ps.contains (e.1 / 2) then k.sbDec b.sb.toNat else k
    | none => k) k

/-- R280, R430: the records that a patch's frames name and the slice pages of their mode areas are marked. -/
def Core.markFrames (k : Core) (c : Nat) (g : Region) (p : Nat) : Core :=
  let fs := g.frames p
  let recs := (fs.filter fun f => frKind f == 4).map agRec
    ++ ((patchDescs fs).filter fun d => d.op == 0x18).map Desc.seqRec
  let pages := (fs.filter fun f => frKind f == 2 && (muMode f == 2 || muMode f == 3 || muMode f == 5)).flatMap fun f =>
    let a := muKey c (g.base + p) (muIx f) % 2 ^ 24 + 64 * muBase f
    (List.range (64 * (muLines f + 1) / 2 ^ 16 + 2)).filterMap fun i =>
      if (a / 2 ^ 16 + i) * 2 ^ 16 < a + 64 * (muLines f + 1) then some (a / 2 ^ 16 + i) else none
  let k := recs.foldl (fun (k : Core) n => k.markRecord (some g.gang) n) k
  pages.foldl (fun (k : Core) n => k.onGang g.gang fun i =>
    { i with marks := { i.marks with pages := i.marks.pages ||| (1 <<< n) } }) k

/-- R455: the relative patches that name an mx pin in the configurations of a list. -/
def Image.mxNames (m : Image) (list : List Nat) : List Nat := ((list.filterMap fun n => m.configs[n]?).flatMap mxPatches).eraseDups

/-- R246, R455: the banks of a configuration bound or loaded at a region's base; one that is not for it leaves none. -/
def Region.banksOf (g : Region) (c : ConfigFrames) (st : BankState) : Tab Bank :=
  let ok := c.length == g.len && mxOk g.base (mxPatches c)
  (List.range g.len).map fun p => (p, if ok then ⟨st, c.getD p [], []⟩ else Bank.none)

/-- R185: list[0] is bound to the active banks, and nothing is preloaded yet. -/
def Core.bindFirst (k : Core) (g : Region) : Option Region :=
  (k.listed g 0).map fun c =>
    { g with
      mxNames := ((k.imageOf g.dom g.page).elim [] fun m => m.mxNames g.list)
      cfgpc := 0
      idx := g.dims.map fun _ => 0
      rootDone := false
      active := g.banksOf c .valid
      shadow := []
      fab := { (default : Fabric) with fabLeft := g.fab.fabLeft, sfuLeft := g.fab.sfuLeft, memLeft := g.fab.memLeft } }

/-- R171: the image that a region is bound from becomes the one bound last, which stands first in the store. -/
def Core.used (k : Core) (g : Region) : Core :=
  match k.imageOf g.dom g.page with
  | none => k
  | some m => { k with store := m :: k.store.filter fun x => !(x.dom == m.dom && x.page == m.page) }

/-- FRAME, for a region that comes to position `pc` of its list without a bank for it (R191). -/
def Region.frameFault (g : Region) (h pc : Nat) : Trap :=
  { cause := .frame, info1 := BitVec.ofNat 64 (g.list.getD pc 0), info2 := BitVec.ofNat 64 h }

/-- R405, Table 20-3: the unit that a frame of patch `p` configures. -/
def framePos (p : Nat) (f : CFrame) : UnitPos :=
  match frKind f with
  | 1 => ⟨1, cuIx f, p, cuStage f, 0⟩
  | 7 => ⟨0, 0, p, 0, 0⟩
  | n => ⟨n, frameUnit f % 32, p, 0, 0⟩

/-- The unit whose frame is poisoned in a bank of patch `p`. -/
def Bank.marred (b : Bank) (p : Nat) : Option UnitPos := (b.poisoned.head?).map fun n => framePos p (b.frames.getD n 0)

/-- Table 20-8: a unit whose frame is poisoned faults its region when the bank becomes active in a running region; so does a bank that the
binding rejected (R246; log 34). -/
def State.activated (s : State) (c h : Nat) : State :=
  match (s.core c).regions.find? h with
  | none => s
  | some g =>
    if g.run == .running && g.active.any fun e => e.2.state == .invalid then s.regionFault c h ⟨0, 0, 0, 0, 0⟩ (g.frameFault h g.cfgpc)
    else if g.run != .running then s
    else match g.active.findSome? fun e => e.2.marred e.1 with
      | some u => s.regionFault c h u { cause := .ecc, detail := 2 }
      | none => s

/-! ### Quiescence (R187) -/

/-- A firing that cannot happen. -/
def Fired.isNo : Fired → Bool
  | .no => true
  | _ => false

/-- The module with permits and budgets put aside, to ask what units would do. -/
def State.unmetered (s : State) (c : Nat) : State :=
  s.onCore c fun k => { k with permitsNow := 0, budgetNow := 0, refilled := s.stitch.toNat }

/-- Whether a token is one that a pin of the region sent. -/
def MxToken.ofRegion (t : MxToken) (h : Nat) : Bool := match t.source with
  | .pin x _ => x == h
  | .cp _ _ => false

/-- R290, R307: matrix tokens that the region's pins sent and whose dones are owed. -/
def State.matrixOwes (s : State) (c h : Nat) (g : Region) : Bool :=
  !g.fab.offered.isEmpty || g.fab.owed.any (fun e => !e.2.isEmpty) || (s.core c).mxq.any fun t => t.ofRegion h

/-- R307: the next item of mx.1 that is ready is emitted. -/
def Region.emitOwed (g : Region) (p : Nat) : Option Region :=
  let rest (l : List PinItem) : Region := { g with fab := { g.fab with owed := g.fab.owed.set p l } }
  match g.fab.owed.get [] p with
  | .done :: l => if g.room p 95 then some ((rest l).put p 95 doneToken) else none
  | .marker m :: l => if g.room p 95 then some ((rest l).put p 95 (markToken .control m)) else none
  | _ => none

/-- R307: whether a matrix pin of the region can still act: a token at mx.0, an item of mx.1 that finds room, a token in the engine that is
not stopped by a fault. -/
def State.pinsBusy (s : State) (c h : Nat) (g : Region) : Bool :=
  (s.core c).mxq.any (fun t => t.ofRegion h && t.phase != .faulted)
    || g.run == .running && (List.range g.len).any fun p => ((s.core c).peek h g p 94).isSome || (g.emitOwed p).isSome

/-- R187, R290: whether every memory request of a region has been made and is performed; one that its fault stands for is not made. -/
def State.performed (s : State) (c h : Nat) (g : Region) : Bool :=
  g.fab.ags.all (fun e => e.2.out.isEmpty && e.2.group.isNone && (g.run == .faulted || e.2.failed.isEmpty))
    && !(s.core c).reqs.any fun r => r.unit.any (Port.inRegion h) && r.unperformed

/-- R187 step 1: every firing is complete, so that no unit can fire, and every access is performed. The units of a region that is held or faulted
do not fire. -/
def State.settled (s : State) (c h : Nat) (g : Region) : Bool :=
  let t := s.unmetered c
  s.performed c h g && !s.pinsBusy c h g
    && (g.run != .running || (List.range g.len).all fun p => patchUnits.all fun u => (t.unitFire c h p u g).isNo)

/-- Whether every arc of a region is empty. -/
def Region.drained (g : Region) : Bool := g.fab.arcs.all fun e => e.2.isEmpty

/-! ### Replies of SGO, SNEXT and SSTOP -/

/-- All ones: done, or stopped by the resolution (Table 8-7). -/
def steerNone : Word := 0xFFFFFFFFFFFFFFFF

/-- Its reply is not back. -/
def Req.unanswered (r : Req) : Bool := match r.phase with
  | .back _ => false
  | _ => true

/-- The steering requests on region `h` whose replies are not back, in issue order. -/
def Core.steering (k : Core) (h : Nat) : List Req :=
  k.reqs.filter fun r => match r.op with
    | .steer _ x _ => x == h && r.unanswered
    | _ => false

/-- Whether a request is of a kind. -/
def Req.steers (r : Req) (how : Steering) : Bool := match r.op with
  | .steer _ _ x => x == how
  | _ => false

/-- R192: those that act at the region: an SGO among them acts after those before it, and before those after it. -/
def Core.acting (k : Core) (h : Nat) : List Req := (k.steering h).takeWhile fun r => !r.steers .go

/-- A steering request is answered with a value. -/
def Core.answer (k : Core) (id : Nat) (v : Word) : Core :=
  k.onReq id fun r => match r.op with
    | .steer d _ _ => { r with phase := .back (Reply.of [(d, v)]) }
    | _ => r

/-- The acting requests of a region that is done. -/
def Core.answerAll (k : Core) (h : Nat) : Core := (k.acting h).foldl (fun (k : Core) r => k.answer r.id steerNone) k

/-- The oldest acting request of a kind is answered with a count. -/
def Core.answerFirst (k : Core) (h : Nat) (how : Steering) (v : Word) : Core :=
  match (k.acting h).find? fun r => r.steers how with
  | none => k
  | some r => k.answer r.id v

/-! ### Discards -/

/-- Tokens on the arcs of a region (R192), those held at edges of a rolling step among them. -/
def Region.tokens (g : Region) : Nat := (g.fab.arcs ++ g.fab.edges).foldl (fun n e => n + e.2.length) 0

/-- R192, R284, R285: the clasps on a region's arcs are cleared; one that withholds a token, still on its arc in `k`, has set hit. -/
def Core.clearClasps (k : Core) (h : Nat) : Core :=
  let k := (List.range 8).foldl (fun (k : Core) n => if (k.clasp n).hdl.toNat = h then k.strikeClasp n else k) k
  { k with clasps := k.clasps.map fun e => if e.2.hdl.toNat = h then (e.1, { e.2 with en := false }) else e }

/-! ### Stepping (R187) -/

/-- R182, R188: whether the region's configuration steps by rolling swap; every patch of a configuration agrees. -/
def Region.rolling (g : Region) : Bool := g.armed 0

/-- R187: whether a root done calls for a step: one that a patch gave in the midst of a rolling step waits for its end. -/
def Region.stepDue (g : Region) : Bool := g.rootDone && g.fab.swapped.isEmpty

/-- R191: whether an SCFG load to the region is outstanding. -/
def Core.loading (k : Core) (h : Nat) : Bool := k.scfgs.any fun e => e.2.hdl == h

/-- R187 step 2: every shadow bank is filled, or has failed. -/
def Region.shadowed (g : Region) : Bool := (List.range g.len).all fun p => (g.shadow.find? p).isSome

/-- R191: a region that reaches its step with an invalid shadow bank. -/
def Region.shadowFailed (g : Region) : Bool := g.shadow.any fun e => e.2.state == .invalid

/-- R187 steps 3 and 4: every patch swaps, and CFGPC and the indices advance. -/
def Core.stepRegion (k : Core) (c h : Nat) (g : Region) : Core :=
  let k := (k.cutWalks g (List.range g.len)).disownUnits (Port.inRegion h)
  let g := g.advance
  let next := k.nextFrames g
  let g := (List.range g.len).foldl (fun (g : Region) p => g.swapPatch p (next.bind fun m => m[p]?)) g
  let g := { g with rootDone := false }
  (List.range g.len).foldl (fun (k : Core) p => k.markFrames c g p) { k with regions := k.regions.set h g }

/-- R38, R192, R285, R310: the region is done with a status; requests that its units still serve go with them. -/
def Core.finish (k : Core) (h : Nat) (g : Region) (status : Nat) : Core :=
  { ((k.clearClasps h).cutWalks g (List.range g.len)).disownUnits (Port.inRegion h) with
    regions := k.regions.set h { g with run := .done status, doneOwed := some status, rootDone := false,
                                        fab := { g.fab.noRows with ags := restAgs g.fab.ags, stages := [] }, moved := true } }

/-- R187, R192: a region whose step may take place steps, is done (R38, R189), faults (R191), or waits for its banks. -/
def State.stepOnce (s : State) (c h : Nat) (g : Region) (snext : Bool) : State :=
  let k := s.core c
  let n := BitVec.ofNat 64 g.tokens
  let answer (k : Core) : Core := if snext then k.answerFirst h .next n else k
  let g' := { g.discard with next := false }
  if k.loading h || !s.settled c h g || !(snext || g.drained) then s
  else if g.nextPos.isNone then s.setCore c (answer (k.finish h g' 0))
  else if !g.shadowed then s
  else if g.shadowFailed then
    s.regionFault c h ⟨0, 0, 0, 0, 0⟩ (g.frameFault h (g.nextPos.elim 0 fun e => e.1))
  else (s.setCore c (answer ((if snext then k.clearClasps h else k).stepRegion c h g'))).activated c h

/-- R192: SSTOP's quiescence is complete: the region is done with status 1, its fault record informs only, and the token that stopped it is
discarded. -/
def State.stopRegion (s : State) (c h : Nat) (g : Region) : State :=
  let k := s.core c
  if !s.settled c h g then s
  else
    let k : Core := { k with frecs := k.frecs.map fun (e : Nat × Frec) => if e.2.subject = .region h then (e.1, { e.2 with subject := .report }) else e }
    let k := (k.mxq.filter fun t => t.ofRegion h).foldl (fun (k : Core) t => k.tokDone t.id) k
    let k := k.finish h { g.discard with next := false, stop := false } 1
    s.setCore c ((k.answerFirst h .stop (BitVec.ofNat 64 g.tokens)).answerAll h)

/-- Table 2-4, R290: the region-done message, posted once, after every access of the region is performed and every output is written. -/
def State.postDone (s : State) (c h : Nat) : State :=
  let k := s.core c
  match k.regions.find? h with
  | none => s
  | some g => match g.doneOwed with
    | none => s
    | some st =>
      if !s.performed c h g || k.mxq.any fun t => t.ofRegion h && t.phase != .faulted then s
      else s.setCore c (({ k with regions := k.regions.set h { g with doneOwed := none } }.disownUnits (Port.inRegion h)).postSource 1
        (fun p => p.toNat % 8 == h) (sourceMsg (BitVec.ofNat 64 h) (BitVec.ofNat 64 st) 0))

/-- R192, R194: the SNEXTs and SSTOPs that act at a region, in issue order, begin to act as far as they can: an SNEXT begins a step, or is
counted as none when the region is done or its step has begun; on a faulted region it waits, and those behind it; an SSTOP waits for the
SNEXT before it. `pending` says that an SNEXT's step has begun. -/
def Core.takeUp (h : Nat) : Bool → List Req → Core → Core
  | _, [], k => k
  | pending, r :: rs, k =>
    match k.regions.find? h with
    | none => k
    | some g =>
      match g.run with
      | .done _ => Core.takeUp h pending rs (k.answer r.id steerNone)
      | _ =>
        if r.steers .stop then (if pending then k else { k with regions := k.regions.set h { g with stop := true } })
        else if g.run = .faulted || g.stop then k
        else if pending then Core.takeUp h pending rs (k.answer r.id 0)
        else if g.next then Core.takeUp h true rs k
        else if g.rootDone || !g.fab.swapped.isEmpty then Core.takeUp h false rs (k.answer r.id 0)
        else Core.takeUp h true rs { k with regions := k.regions.set h { g with next := true } }

/-- What acts at a region begins to act. -/
def Core.takeUpAll (k : Core) (h : Nat) : Core := Core.takeUp h false (k.acting h) k

/-- Table 8-7: the prior state that SGO writes. -/
def RunState.code : RunState → Nat
  | .held => 0 | .running => 1 | .done _ => 2 | .faulted => 3

/-- R192, R193: the SGO whose turn it is acts, then those behind it. A done region that its image has left starts again when the image is
resident. -/
def State.takeGo (s : State) (c h : Nat) : State :=
  let k := s.core c
  match k.regions.find? h, (k.steering h).head? with
  | some g, some r =>
    let on (k : Core) : State :=
      let k := k.answer r.id (BitVec.ofNat 64 g.run.code)
      (s.setCore c (k.takeUpAll h)).activated c h
    match g.run with
    | .held => on { k with regions := k.regions.set h { g with run := .running, watch := 0 } }
    | .done _ =>
      let t := s.postDone c h
      let k := t.core c
      match if (k.regions.find? h).elim true (fun g => g.doneOwed.isSome) then none else k.bindFirst g with
      | none => t
      | some g' =>
        let k := k.used g
        let k := { k with regions := k.regions.set h { g' with run := .running, doneOwed := none, next := false, stop := false, watch := 0 } }
        on ((List.range g'.len).foldl (fun (k : Core) p => k.markFrames c g' p) k)
    | _ => on k
  | _, _ => s

/-- R187, R192, R194, CONFIG_STEP: what is due: an SGO's turn, a step, an SNEXT, an SSTOP. -/
def execConfigStep (o : RegionAt) (s : State) : Out :=
  let s := s.onCore o.core fun k => if (k.regions.find? o.hdl).elim true fun g => g.moving || s.frozen (some g.gang) then k else k.takeUpAll o.hdl
  let k := s.core o.core
  match k.regions.find? o.hdl with
  | none => .next s
  | some g =>
    if g.moving || s.frozen (some g.gang) then .next s
    else if (k.steering o.hdl).head?.any fun r => r.steers .go then .next (s.takeGo o.core o.hdl)
    else match g.run with
      | .done _ =>
        .next (s.setCore o.core ({ k with regions := k.regions.set o.hdl { g with next := false, stop := false } }.answerAll o.hdl))
      | .faulted => if g.stop then .next (s.stopRegion o.core o.hdl g) else .next s
      | _ =>
        if g.next then .next (s.stepOnce o.core o.hdl g true)
        else if g.stepDue then .next (s.stepOnce o.core o.hdl g false)
        else if g.stop && g.fab.swapped.isEmpty then .next (s.stopRegion o.core o.hdl g)
        else .next s

/-! ### Rolling swap (R188, R289) -/

/-- R289: the units of a patch that have no configured input have ended their last walk, run or pass. -/
def Region.sourcesEnded (g : Region) (p : Nat) : Bool :=
  let fs := g.frames p
  let ags := (List.range 2).all fun a => match agFrame fs a with
    | none => true
    | some _ => [1, 2, 3].any (fun i => g.reached p (64 + 4 * a + i)) || (g.fab.ags.get AgState.idle (2 * p + a)).ended
  let cts := (List.range 4).all fun i => match ctOp fs i with
    | none => true
    | some d =>
      let free := d.isRoot || (d.op == 0x06 && d.param / 2 ^ 13 % 2 == 1)
      !free || (g.fab.cts.get CtState.fresh (4 * p + i)).finished
  ags && cts

/-- R188: every configured input of every unit of `p` has consumed EOS. -/
def Region.inputsEnded (g : Region) (p : Nat) : Bool :=
  ((g.arcsOf p).all fun e => arcDp e.1 != p || g.fab.eos.contains (128 * p + arcDpin e.1)) && g.sourcesEnded p

/-- R188: every arc with both ends in `p` is empty. -/
def Region.innerEmpty (g : Region) (p : Nat) : Bool :=
  g.fab.arcs.all fun e => arcSp e.1 != p || arcDp e.1 != p || e.2.isEmpty

/-- R188: every arc leaving `p` has accepted the EOS. -/
def Region.leftEnded (g : Region) (p : Nat) : Bool :=
  (g.arcsOf p).all fun e => arcSp e.1 != p || arcDp e.1 == p || g.fab.eos.contains (128 * p + arcSpin e.1)

/-- R339, R367: what the AGs of patch `p` have taken is written, so that the counters of their walks may fall. -/
def Core.agsWritten (k : Core) (h : Nat) (g : Region) (p : Nat) : Bool :=
  g.fab.ags.all (fun e => e.1 / 2 != p || (e.2.out.isEmpty && e.2.group.isNone && e.2.failed.isEmpty))
    && !k.reqs.any fun r => r.unit.any (Port.inPatch h p) && r.op != .fetch && r.unperformed

/-- The pin of patch `p` at which a track enters it. -/
def entryPin (p track : Nat) : Nat :=
  let line := track % 100
  if line < 8 then 104 + line else if (line - 8) / 8 = p then 96 + (line - 8) % 8 else 112 + (line - 8) % 8

/-- R188: the tokens that wait where tracks enter `p`: those of arcs into it, then those at its edges; by source and track. -/
def Region.waiting (g : Region) (p : Nat) : List (Nat × Nat × Nat × List Token) :=
  let arcs := g.fab.arcs.filterMap fun e =>
    if arcDp e.1 = p ∧ arcSp e.1 ≠ p ∧ !e.2.isEmpty then
      let via := (List.find? (fun x => x.1 == e.1) (g.arcsOf p)).bind fun x => x.2
      via.map fun t => (t, arcSp e.1, arcSpin e.1, e.2)
    else none
  arcs ++ g.fab.edges.filterMap fun e =>
    if edgePatch e.1 = p then some (edgeTrack e.1, edgeSp e.1, edgeSpin e.1, e.2) else none

/-- Waiting tokens of one track and source, once: an arc that forks inside `p` holds them on every branch. -/
def mergeWaiting : List (Nat × Nat × Nat × List Token) → List (Nat × Nat × Nat × List Token) → List (Nat × Nat × Nat × List Token)
  | acc, [] => acc
  | acc, w :: ws =>
    if acc.any fun v => v.1 == w.1 && v.2.1 == w.2.1 && v.2.2.1 == w.2.2.1 && decide (w.2.2.2.length ≤ v.2.2.2.length) then
      mergeWaiting acc ws
    else mergeWaiting (acc ++ [w]) ws

/-- R188: patch `p` has swapped: tokens that waited go on from their boundary pins along its new connections, or are discarded. -/
def Region.resume (g : Region) (p : Nat) (ws : List (Nat × Nat × Nat × List Token)) : Region :=
  let cs := g.conns
  ws.foldl (fun (g : Region) w =>
    (endsOnce g.allFrames w.2.1 w.2.2.1 (g.follow cs true pathFuel p (some (w.1 / 100)) (entryPin p w.1) (some w.1))).foldl (fun (g : Region) e =>
      w.2.2.2.foldl (fun (g : Region) t => g.append (e.key w.2.1 w.2.2.1) (e.carried w.2.2.1 t)) g) g) g

/-- R188: patch `p` of a region swaps; the last one advances CFGPC. -/
def Core.rollPatch (k : Core) (c h : Nat) (g : Region) (p : Nat) : Core :=
  let k := (k.cutWalks g [p]).disownUnits (Port.inPatch h p)
  let g := if g.fab.swapped.isEmpty then { g with fab := { g.fab with before := g.arcsIn g.allFrames true } } else g
  let next := (k.nextFrames g.advance).bind fun m => m[p]?
  let edges := g.fab.edges.filter fun e => edgePatch e.1 == p
  let fromArcs := mergeWaiting [] ((g.waiting p).take ((g.waiting p).length - edges.length))
  let fromEdges := (g.waiting p).drop ((g.waiting p).length - edges.length)
  let g' := g.swapPatch p next
  let g' := { g' with fab := { g'.fab with
    arcs := g'.fab.arcs.filter fun e => arcDp e.1 != p || arcSp e.1 == p
    edges := g'.fab.edges.filter fun e => edgePatch e.1 != p
    swapped := p :: g'.fab.swapped } }
  let g' := g'.resume p (fromArcs ++ fromEdges)
  let g' := if (List.range g'.len).all g'.fab.swapped.contains then
      { g'.advance with fab := { g'.fab with swapped := [], before := [] } } else g'
  ({ k with regions := k.regions.set h g' }).markFrames c g' p

/-- R188, ROLLING_SWAP: a patch whose inputs have taken EOS and whose arcs are drained swaps on its own, once its writes are performed
(log 39). -/
def execRollingSwap (o : PatchAt) (s : State) : Out :=
  let k := s.core o.core
  .next <| match s.liveRegion o.core o.hdl with
    | none => s
    | some g =>
      let p := o.patch
      if !g.armed p || g.next || g.nextPos.isNone || decide (g.len ≤ p) || g.fab.swapped.contains p
          || (k.loading o.hdl && g.fab.swapped.isEmpty) || (g.stop && g.fab.swapped.isEmpty)
          || !(g.inputsEnded p && g.innerEmpty p && g.leftEnded p && k.agsWritten o.hdl g p) then s
      else match g.shadow.find? p with
        | none => s
        | some b =>
          if b.state = .invalid then
            s.regionFault o.core o.hdl ⟨0, 0, p, 0, 0⟩ (g.frameFault o.hdl (g.nextPos.elim 0 fun e => e.1))
          else (s.setCore o.core (k.rollPatch o.core o.hdl g p)).activated o.core o.hdl

/-! ### The end of a region (R38, R189, R290) -/

/-- R189: whether a running region at its last position is done. -/
def State.atEnd (s : State) (c h : Nat) (g : Region) : Bool :=
  g.run == .running && g.nextPos.isNone && !g.next &&
    if g.rolling then
      (List.range g.len).all (fun p => g.inputsEnded p && g.innerEmpty p) && s.performed c h g && !s.matrixOwes c h g
    else g.rootDone && g.drained && s.settled c h g && !s.matrixOwes c h g

/-- R38, R189, R290, REGION_DONE: a region at its end is done, and the message of one that is done is posted. -/
def execRegionDone (o : RegionAt) (s : State) : Out :=
  match (s.core o.core).regions.find? o.hdl with
  | none => .next s
  | some g =>
    if g.moving || s.frozen (some g.gang) then .next s
    else
      let s := if s.atEnd o.core o.hdl g then s.onCore o.core fun k => k.finish o.hdl g 0 else s
      .next (s.postDone o.core o.hdl)

/-! ### The preloader (R185) -/

/-- R185, PRELOAD_DONE: shadow banks that nothing fills are loaded from the resident image and marked valid. At the last position
nothing is loaded (R189). -/
def execPreloadDone (o : RegionAt) (s : State) : Out :=
  let k := s.core o.core
  match k.regions.find? o.hdl with
  | none => .next s
  | some g =>
    if k.loading o.hdl then .next s
    else
      let load (g : Region) (p : Nat) : Region :=
        if (g.shadow.find? p).isSome then g
        else
          let at_ := if g.fab.swapped.contains p then g.advance else g
          match k.nextFrames at_ with
          | none => g
          | some c => { g with shadow := g.shadow.set p ((g.banksOf c .valid).get Bank.none p) }
      .next (s.setCore o.core { k with regions := k.regions.set o.hdl ((List.range g.len).foldl load g) })

/-! ### Instructions (R191 to R193, R339) -/

/-- R192: a handle that is not a live region of the issuer's gang on this core. -/
def handleTrap (h : Nat) : Trap := { cause := .frame, detail := 1, info2 := BitVec.ofNat 64 h }

/-- R191, R362, SCFG: the load begins, after what the slot waits to acquire. -/
def execScfg (o : OpsCfg) (s : State) : Out :=
  guarded o.g s <| withReg o.b false s fun b => unspeculated s <| withRecord o.src s fun s record =>
    let h := rfld b 16 3
    if !s.ownRegion h then trap (handleTrap h) s
    else afterAcquires s <|
      let k := (s.curCore.sbInc o.sb.toNat).markCounter s.curSlot.gang o.sb.toNat
      let id := k.scfgs.foldl (fun m e => max m (e.1 + 1)) 0
      let x : Scfg := ⟨record, o.src.toNat, h, rfld b 0 16, o.sb, s.cur.slot, s.curSlot.gang, k.domain.toNat, s.curSlot.priv⟩
      retireCore { k with scfgs := k.scfgs.set id x } s

/-- R191, R455, SCFG_LOAD_DONE: the load runs after every earlier one to its region, after a swap or a move in progress. -/
def execScfgLoadDone (o : CmdAt) (s : State) : Out :=
  let k := s.core o.core
  match k.scfgs.find? o.ix with
  | none => .next s
  | some x =>
    let done (k : Core) : Core := ({ k with scfgs := k.scfgs.erase o.ix }.disownUnits (Port.isLoad o.ix)).sbDec x.sb.toNat
    match k.regions.find? x.hdl with
    | none => .next (s.setCore o.core (done k))
    | some g =>
      if k.scfgs.any (fun e => e.2.hdl == x.hdl && decide (e.1 < o.ix)) || !g.fab.swapped.isEmpty || g.moving || s.frozen x.gang then .next s
      else match s.scfgLoad o.core o.ix x g.len g.base with
        | .waiting s => .next s
        | .failed t =>
          let bad := (List.range g.len).map fun p => (p, Bank.none)
          let s := (s.setCore o.core (done { k with regions := k.regions.set x.hdl { g with shadow := bad } })).tookFault (x.unit o.core o.ix).port
          .next (s.report o.core { t with detail := 2, info1 := BitVec.ofNat 64 x.n, info2 := BitVec.ofNat 64 x.hdl } x.gang x.slot)
        | .done groups =>
          let banks := (List.range g.len).map fun p => (p, (⟨.override, groups.getD p [], []⟩ : Bank))
          .next (s.setCore o.core (done { k with regions := k.regions.set x.hdl { g with shadow := banks } }))

/-- R192: a steering instruction: its operand, the handle's check, gD's place. Its request joins those of the region, and gD is marked
empty; `act` is what it does at once when nothing stands before it. -/
def steering (o : OpsDA) (how : Steering) (s : State) (act : Nat → Nat → State → State) : Out :=
  guarded o.g s <| withReg o.a o.fea s fun a => unspeculated s <|
    let h := a.toNat % 8
    if !s.ownRegion h then trap (handleTrap h) s
    else withDest o.d s <|
      let k := s.curCore
      let r : Req := { s.newReq (.steer o.d h how) noTarget 0 0 false with id := k.nextReq, phase := .done Reply.empty }
      match retireCore ({ k with reqs := k.reqs ++ [r], nextReq := k.nextReq + 1 }.setSlot s.cur.slot (s.curSlot.markEmpty o.d)) s with
      | .next t => .next (act h r.id t)
      | x => x

/-- R192, R193, SGO: it acts after every steering instruction before it. -/
def execSgo (o : OpsDA) (s : State) : Out :=
  steering o .go s fun h id t => if (t.curCore.steering h).head?.any fun r => r.id == id then t.takeGo t.cur.core h else t

/-- R192: an SNEXT or SSTOP that no SGO stands before. -/
def takeUpNow (h _id : Nat) (t : State) : State :=
  if (t.curCore.regions.find? h).elim true fun g => g.moving || t.frozen (some g.gang) then t else t.setCurCore (t.curCore.takeUpAll h)

/-- R192, R194, SNEXT. -/
def execSnext (o : OpsDA) (s : State) : Out := steering o .next s takeUpNow

/-- R192, R194, SSTOP. -/
def execSstop (o : OpsDA) (s : State) : Out := steering o .stop s takeUpNow

/-- R339, SBIND. -/
def execSbind (o : OpsCfg) (s : State) : Out :=
  guarded o.g s <| withReg o.b false s fun b => unspeculated s <| withRecord o.src s fun s _ =>
    let h := rfld b 0 3
    let p := rfld b 3 3
    let a := rfld b 6 1
    if !s.ownRegion h then trap (handleTrap h) s
    else match s.curCore.regions.find? h with
      | none => trap (handleTrap h) s
      | some g =>
        if g.len ≤ p ∨ (agFrame (g.frames p) a).isNone then trap { cause := .frame, detail := 3, info2 := BitVec.ofNat 64 h } s
        else
          let k := s.curCore.markCounter s.curSlot.gang o.sb.toNat
          retireCore { k with regions := k.regions.set h { g with binds := g.binds.set (2 * p + a) ⟨o.src, o.sb, s.cur.slot, s.curSlot.priv⟩ } } s

/-! ### Clasps (R282, R283) -/

/-- R283, R284, CLASP_DELIVERY: an arc held by a clasp sets hit and posts its message once. -/
def execClaspDelivery (o : CmdAt) (s : State) : Out :=
  let k := s.core o.core
  match k.regions.find? (k.clasp o.ix).hdl.toNat with
  | none => .next s
  | some g => if s.frozen (some g.gang) then .next s else .next (s.setCore o.core (k.strikeClasp o.ix))

end Sys2Proof.Machine
end

