-- ==== Sys2Proof/Machine/Matrix.lean ====
section
/-! DEFINITION. The matrix engine (R293 to R312): acceptance, the start of a token with its checks, k-groups (R85, R86, R299),
drains, completion, the mx pins. -/

namespace Sys2Proof.Machine

/-! ### Tokens (Tables 5-20 and 13-2) -/

def mxOp (w : Word) : Nat := rfld w 60 4
def mxAcc (w : Word) : Nat := rfld w 56 4
def mxM128 (w : Word) : Bool := w.getLsbD 47
def mxK (w : Word) : Nat := rfld w 31 16
def mxArec (w : Word) : Nat := rfld w 23 8
def mxBrec (w : Word) : Nat := rfld w 15 8
def mxDfmt (w : Word) : Nat := rfld w 12 3

/-- Whether an operation accumulates (R302), and whether it is redundant. -/
def mxAccum (op : Nat) : Bool := op == 1 || op == 2 || op == 5 || op == 6
def mxRedundant (op : Nat) : Bool := op == 5 || op == 6

/-- Tables 5-20, 5-21 and 13-2: whether a token's words are assigned. -/
def mxTokenOk (w0 w1 : Word) : Bool :=
  let op := mxOp w0
  let depths := rfld w0 48 8
  1 ≤ op && op ≤ 6 && rfld w0 52 4 != 15 && rfld w0 48 4 != 15 && mxK w0 != 0 && mxDfmt w0 ≤ 4 && rfld w0 1 6 == 0
    && !(mxM128 w0 && (mxAcc w0 % 2 == 1 || mxRedundant op)) && !(w0.getLsbD 0 && rfld w0 7 5 != 0)
    && (if mxAccum op then mxDfmt w0 == 0 else depths == 0 && mxK w0 == 1 && mxBrec w0 == 0)
    && (op != 3 || (mxArec w0 == 0 && mxDfmt w0 == 0 && w1 == 0)) && (op != 4 || rfld w1 32 32 == 0)

/-- R294: the tiles that a token names. -/
def MxToken.tiles (t : MxToken) : List Nat := if mxM128 t.w0 then [mxAcc t.w0, mxAcc t.w0 + 1] else [mxAcc t.w0]

def MxToken.op (t : MxToken) : Nat := mxOp t.w0

/-- The records that a token names. -/
def mxRecords (w0 : Word) : List Nat :=
  if mxAccum (mxOp w0) then [mxArec w0, mxBrec w0] else if mxOp w0 = 4 then [mxArec w0] else []

/-- Tile `n` of a core. -/
def Core.tile (k : Core) (n : Nat) : Tile := k.tiles.get Tile.zero n

/-! ### Acceptance (R294, R306, R307) -/

/-- The patches that hold mx pins (R245), as sources 1 to 4; source 0 is the control processor. -/
def mxPatchNos : List Nat := [1, 3, 4, 6]

/-- The running region and relative patch at a physical patch of core `c`, where a token is offered on mx.0. -/
def State.offeredAt (s : State) (c patch : Nat) : Option (Nat × Nat) :=
  (s.core c).regions.findSome? fun e =>
    if e.2.base ≤ patch ∧ patch < e.2.base + e.2.len ∧ e.2.fab.offered.contains (patch - e.2.base) ∧ (s.liveRegion c e.1).isSome then
      some (e.1, patch - e.2.base) else none

/-- R294: whether slot `n` of a core holds a token: its next word is an MTOK whose guard and operands are ready, whose token is checked, and
which nothing but the engine holds back. -/
def State.slotOffers (s : State) (c n : Nat) : Bool :=
  let k := s.core c
  let sl := k.slot n
  if sl.status ≠ .occupied || s.frozen sl.gang || sl.spec.isSome then false
  else match (k.fetchWord sl.pc).map decode with
    | some (.ok (.mtok o)) =>
      let p := sl.pcell o.g.p
      !p.pending && p.v != o.g.neg && match sl.read o.a o.fea, sl.read o.b o.feb with
        | .full a, .full b => mxTokenOk a b
        | _, _ => false
    | _ => false

/-- R294: whether the control processor holds a token. -/
def State.cpOffers (s : State) (c : Nat) : Bool := (List.range 16).any (s.slotOffers c)

/-- R294: the order in which sources are asked, beginning after the one accepted last. -/
def mxOrder (last : Nat) : List Nat := (List.range 5).map fun i => (last + 1 + i) % 5

/-- R294: the source that holds a token and comes next; `cp` tells whether the control processor holds one. -/
def State.mxNext (s : State) (c : Nat) (cp : Bool) : Option Nat :=
  (mxOrder (s.core c).mxLast).find? fun n => if n = 0 then cp else (s.offeredAt c (mxPatchNos.getD (n - 1) 0)).isSome

/-- R294: whether the queue of sixteen has room. A token keeps its entry until it completes. -/
def Core.mxRoom (k : Core) : Bool := k.mxq.length < 16

/-- R294, R295, R430: a token is accepted, with copies of its records, and counted. -/
def Core.accept (k : Core) (w0 w1 : Word) (src : MxSource) (gang : Option GangId) (priv : Bool) : Core :=
  let t : MxToken :=
    { id := k.nextTok, w0 := w0, w1 := w1, arec := k.record (mxArec w0), brec := k.record (mxBrec w0), source := src, gang := gang,
      dom := k.domain.toNat, priv := priv, phase := .queued, zeroed := false, resume := 0, halves := [],
      trap := (mxRecords w0).findSome? fun n => k.badRecords.find? n, age := 0, out := [], paid := 0 }
  let k := ({ k with mxq := k.mxq ++ [t], nextTok := k.nextTok + 1 } : Core).powered fun u => u == .matrix
  let k := (mxRecords w0).foldl (fun (k : Core) n => k.markRecord gang n) k
  let k := match t.counter with
    | none => k
    | some n => (k.sbInc n).markCounter gang n
  match gang with
  | none => k
  | some g => t.tiles.foldl (fun (k : Core) n =>
      let x := k.tile n
      if x.users.contains g then k else { k with tiles := k.tiles.set n { x with users := g :: x.users } }) k

/-- R324: whether a RECLD to a record that a token names is outstanding. -/
def Core.mxWaits (k : Core) (w0 : Word) : Bool := (mxRecords w0).any fun n => recldPending k (BitVec.ofNat 8 n)

/-- R306, MTOK. It is the control processor's turn when no patch that holds a token comes before it. -/
def execMtok (o : OpsAB) (s : State) : Out :=
  guarded o.g s <| withReg o.a o.fea s fun a => withReg o.b o.feb s fun b => unspeculated s <|
    if !mxTokenOk a b then trap { cause := .illegal, info1 := wordOfInstr (.mtok o), info2 := b } s
    else
      let k := s.curCore
      if !k.mxRoom || s.mxNext s.cur.core true != some 0 || k.mxWaits a then stall s
      else
        let sl := s.curSlot
        retireCore { k.accept a b (.cp s.cur.slot sl.pc) sl.gang sl.priv with mxLast := 0 } s

/-- Word `n` of a token on mx.0 (R307). -/
def Token.word (t : Token) (n : Nat) : Word := t.data.extractLsb' (64 * n) 64

/-- R294, R307, R430, MATRIX_ACCEPT: the engine accepts the token offered by the patch whose turn it is. -/
def execMatrixAccept (o : CoreAt) (s : State) : Out :=
  let k := s.core o.core
  match if k.mxRoom then s.mxNext o.core (s.cpOffers o.core) else none with
  | none => .next s
  | some 0 => .next s
  | some (n + 1) =>
    match s.offeredAt o.core (mxPatchNos.getD n 0) with
    | none => .next s
    | some (h, p) => .next <| match s.liveRegion o.core h with
      | none => s
      | some g => match k.peek h g p 94 with
        | none => s
        | some e =>
          if k.mxWaits (e.2.word 0) then s
          else
            let x := (⟨k, g⟩ : Site).take h e.1
            let f := x.g.fab
            let g := { x.g with fab := { f with offered := f.offered.filter fun q => q != p
                                                owed := f.owed.upd [] p fun l => l ++ [.pending x.k.nextTok] } }
            let k := { x.k with regions := x.k.regions.set h g }
            let k := { k.accept (e.2.word 0) (e.2.word 1) (.pin h p) (some g.gang) false with mxLast := n + 1 }
            let i : Issuer := ⟨dieOf o.core, k.domain.toNat, false, k.ptbase, some o.core, none⟩
            (mxRecords (e.2.word 0)).foldl (fun (s : State) n => s.markCollar (some g.gang) i (k.record n)) (s.setCore o.core k)

/-- R307, MX_PIN_TOKEN: what mx.1 owes is emitted as room allows; a data token at mx.0 is checked and offered; a marker follows the
dones of the tokens before it. -/
def execMxPinToken (o : PatchAt) (s : State) : Out :=
  .next <| match s.liveRegion o.core o.hdl with
  | none => s
  | some g =>
    let k := s.core o.core
    match g.emitOwed o.patch with
    | some g => s.putSite o.core o.hdl ⟨k, g⟩
    | none =>
      if g.fab.offered.contains o.patch then s
      else match k.peek o.hdl g o.patch 94 with
        | none => s
        | some e =>
          let t := e.2.asVector
          let bad (t : Trap) : State := s.regionFault o.core o.hdl ⟨7, 0, o.patch, 0, e.1⟩ t
          if t.mark = 5 then bad (illegalToken t)
          else if t.scale.isSome then bad strayTrap
          else if t.mark ≠ 0 then
            let x := (⟨k, g⟩ : Site).take o.hdl e.1
            s.putSite o.core o.hdl ⟨x.k, { x.g with fab := { x.g.fab with owed := x.g.fab.owed.upd [] o.patch fun l => l ++ [.marker t.mark] } }⟩
          else if t.mask ≠ 0x000F ∨ e.2.kind ≠ .vector ∨ !mxTokenOk (t.word 0) (t.word 1) then
            bad { cause := .illegal, info1 := t.word 0, info2 := t.word 1 }
          else s.putSite o.core o.hdl ⟨k, { g with fab := { g.fab with offered := o.patch :: g.fab.offered } }⟩

/-! ### Operands (R296 to R298) -/

/-- One operand of an accumulating token. -/
structure MxOperand where
  record : BitVec 256
  ix : Nat
  depth : Nat
  base : Int
  rows : Nat
  k : Nat
deriving DecidableEq, Repr

/-- A block offset, signed for a ring (Table 17-1). -/
def mxOffset (record : BitVec 256) (v : BitVec 32) : Int := if recKind record = 2 then v.toInt else (v.toNat : Int)

def MxToken.opA (t : MxToken) : MxOperand :=
  ⟨t.arec, mxArec t.w0, rfld t.w0 52 4, mxOffset t.arec (t.w1.extractLsb' 0 32), 64 * t.tiles.length, mxK t.w0⟩
def MxToken.opB (t : MxToken) : MxOperand :=
  ⟨t.brec, mxBrec t.w0, rfld t.w0 48 4, mxOffset t.brec (t.w1.extractLsb' 32 32), 64, mxK t.w0⟩

/-- The planed block size of the operand's format. -/
def MxOperand.bb (x : MxOperand) : Nat := 4 * (dbM (recView x.record) + 2)
/-- The row step. -/
def MxOperand.rs (x : MxOperand) : Int := if recKind x.record = 2 then (x.k * x.bb : Nat) else recStride1 x.record
/-- The record offset of block `b` of row `i`. -/
def MxOperand.off (x : MxOperand) (b i : Nat) : Int := (x.base + b) * x.bb + i * x.rs

/-- A token as a requester: it reads its operands and writes its rows as one port. -/
def MxToken.unit (t : MxToken) (c : Nat) : Requester := ⟨c, .token c t.id, t.gang, t.dom, t.priv⟩

/-- An access of a token: by byte, its position and VA; the page of the first; the page that it runs into, and the VA there. -/
structure MxSpan where
  bytes : List (Option (Nat × Nat))
  page : Option XuPage
  next : Option (XuPage × Nat)
deriving DecidableEq, Repr

/-- A token's page: translated and checked (R94, R97, R98, R419); an operand's page is planed and has its record's view. -/
def State.mxPage (s : State) (c : Nat) (t : MxToken) (r : BitVec 256) (wr : Bool) (va : Nat) : Except Trap Page := do
  let lined := if recKind r = 1 then some (recLid r) else none
  let p ← s.translate ((t.unit c).issuer s) (if wr then .copy else .matrix) (!wr) wr lined va (recView r)
  if !wr && (p.fmt ≠ recView r || !p.planed || !recPlaned r) then throw (formatTrap va p.fmt (recView r))
  if p.node ≠ 0 && s.unreachable.contains p.node then
    throw { cause := .link, info1 := BitVec.ofNat 64 va, info2 := BitVec.ofNat 64 p.node }
  return p

/-- An access of `n` bytes at a record offset: its bytes, page by page (R103, R145, R156, R380). -/
def State.mxSpan (s : State) (c : Nat) (t : MxToken) (r : BitVec 256) (ix : Nat) (o : Int) (n : Nat) (wr : Bool) : Except Trap MxSpan := do
  if recBad r then throw (formatTrap (recBase r) 0 (recView r))
  let sp ← spotOf r ix o (!wr) wr
  match ← boundOf r ix sp n wr false with
  | .nothing => return ⟨List.replicate n none, none, none⟩
  | .part off lo len =>
    let va : Int := ((recBase r + sp.base : Nat) : Int) + off
    if va < 0 then throw { cause := .xlate, detail := 2, info1 := wordOf va }
    let v := va.toNat
    let first := min len (2 ^ 16 - v % 2 ^ 16)
    let p ← s.mxPage c t r wr v
    let q ← if first = len then pure p else s.mxPage c t r wr (v + first)
    let key (j : Nat) : Nat := (s.homeOf (if j < first then p else q) (v + j)).pos
    let bytes := (List.range n).map fun j => if lo ≤ j ∧ j < lo + len then some (key (j - lo), v + (j - lo)) else none
    match if wr then s.elementRules t.dom bytes else none with
    | some e => throw e
    | none => return ⟨bytes, some (s.pageSeen p v), if first = len then none else some (s.pageSeen q (v + first), v + first)⟩

/-- Whether a list of checks all pass. -/
def allOk {α : Type} (f : α → Except Trap Unit) : List α → Except Trap Unit
  | [] => .ok ()
  | a :: as => do
    f a
    allOk f as

/-- Blocks by row and number. -/
def MxOperand.blocks (x : MxOperand) : List (Nat × Nat) := (List.range x.k).flatMap fun b => (List.range x.rows).map fun i => (b, i)

/-- The bytes that block `b` of row `i` of an operand is read from. -/
def State.blockSpan (s : State) (c : Nat) (t : MxToken) (x : MxOperand) (b i : Nat) : Except Trap MxSpan :=
  s.mxSpan c t x.record x.ix (x.off b i) x.bb false

/-- R94, R97, R98, R103, R311: the records and pages of an operand when its token starts. -/
def State.operandPages (s : State) (c : Nat) (t : MxToken) (x : MxOperand) : Except Trap Unit :=
  allOk (fun e => (s.blockSpan c t x e.1 e.2).map fun _ => ()) x.blocks

/-- R296, R297: the engine's own checks of an operand, after those of its pages. -/
def State.operandCheck (s : State) (c : Nat) (t : MxToken) (x : MxOperand) : Except Trap Unit := do
  let view := recView x.record
  if !fmtDb view || !recPlaned x.record then throw (formatTrap (recBase x.record) 0 view)
  allOk (fun e => do
    let sp ← s.blockSpan c t x e.1 e.2
    if sp.page.isSome && x.off e.1 e.2 % x.bb ≠ 0 then throw { cause := .align, info1 := wordOf (x.off e.1 e.2) }) x.blocks
  if dbM view < x.depth then throw (formatTrap (recBase x.record) view view)

/-- R298: the slot barriers that hold an operand. -/
def MxOperand.holds (x : MxOperand) : List Nat :=
  if recKind x.record ≠ 2 then []
  else (x.blocks.filterMap fun e => match spotOf x.record x.ix (x.off e.1 e.2) true false with
    | .ok sp => sp.hold
    | .error _ => none).dedup

/-- R98: the metadata of a span's page, byte by byte. -/
def MxSpan.scale (sp : MxSpan) : List (Nat × Nat) :=
  match sp.page, sp.bytes.findSome? id with
  | some p, some e => (List.range 16).map fun j => (p.metaKey (2 * e.2 : Nat) + j, e.2)
  | _, _ => []

/-- The bytes that an operand's block needs: its own, and its metadata. -/
def MxSpan.wants (sp : MxSpan) : List Want := (sp.bytes.filterMap id ++ sp.scale).map fun e => ⟨e.1, e.2, none⟩

/-- R297: an element's code with the magnitude planes below the depth dropped. -/
def dropPlanes (m depth code : Nat) : Nat := if depth = 0 then code else code - code % 2 ^ m % 2 ^ (m - depth)

/-- R296, R297, R299: the 32 values of a block, once its bytes are read. -/
def State.blockValues (s : State) (x : MxOperand) (sp : MxSpan) : Except Trap (List Exact) := do
  let view := recView x.record
  let m := dbM view
  if let some e := s.wantPoison sp.wants then throw e
  let codes := blockCodes m true (sp.bytes.map fun y => y.elim 0 fun e => readByte s.mem e.1)
  match sp.page, sp.bytes.findSome? id with
  | some p, some e =>
    let w : BitVec 128 := BitVec.ofNat 128 (leNat (sp.scale.map fun b => readByte s.mem b.1))
    if metaBad w then throw (formatTrap e.2 p.fmt view)
    let first := (p.group (2 * e.2 : Nat)).2 / 32 * 32
    return (codes.zipIdx).map fun y => dbValue m w (first + y.2) (dropPlanes m x.depth y.1)
  | _, _ => return codes.map fun _ => .fin false 0 0

/-- The spans of block `b` of every row of an operand. -/
def State.blockSpans (s : State) (c : Nat) (t : MxToken) (x : MxOperand) (b : Nat) : Except Trap (List MxSpan) :=
  (List.range x.rows).mapM (s.blockSpan c t x b)

/-- The sixteen values of k-group `g`, row by row. -/
def State.groupValues (s : State) (x : MxOperand) (g : Nat) (sps : List MxSpan) : Except Trap (List (List Exact)) :=
  sps.mapM fun sp => (s.blockValues x sp).map fun v => (v.drop (16 * (g % 2))).take 16

/-! ### Tiles -/

/-- A tile's elements from a function of (row × 64 + column); +0 is not listed. -/
def tileElems (f : Nat → Lane) : Tab Lane := (List.range 4096).filterMap fun e => if f e = 0 then none else some (e, f e)

/-- R85, R86: one element after a k-group. -/
def groupElem (c : Lane) (a b : List Exact) : Lane :=
  let x := Exact.sum 0 (Fmt.fp32.dec c.toNat :: List.zipWith Exact.mul a b)
  BitVec.ofNat 32 (Fmt.fp32.rnd 0 false x).1

/-- R302: a tile, and its check copy when redundant, after a k-group of rows `as` and columns `bs`. -/
def Tile.group (t : Tile) (as bs : List (List Exact)) : Tile :=
  let step (old : Tab Lane) : Tab Lane := tileElems fun e => groupElem (old.get 0 e) (as.getD (e / 64) []) (bs.getD (e % 64) [])
  { t with elems := step t.elems, check := t.check.map step }

/-- R302, R303, R312: a tile as a token that has not yet run sets it. -/
def Tile.begin (t : Tile) (op : Nat) : Tile :=
  let t := if op = 2 ∨ op = 3 ∨ op = 6 then { t with elems := [], check := t.check.map fun _ => [], applied := 0, poisoned := [] } else t
  if mxRedundant op then { t with check := some (t.check.getD t.elems) } else if op = 4 then t else { t with check := none }

/-- The core with tile `n` changed. -/
def Core.onTile (k : Core) (n : Nat) (f : Tile → Tile) : Core := { k with tiles := k.tiles.set n (f (k.tile n)) }

/-! ### A token's steps -/

/-- The core with a token changed. -/
def Core.onTok (k : Core) (id : Nat) (f : MxToken → MxToken) : Core :=
  { k with mxq := k.mxq.map fun t => if t.id = id then f t else t }

/-- R311: the token faults, stopped at `resume`: its region or the core's c63 has the record, and the token waits. What it has read is asked
for again if it goes on. With no record free it withholds acknowledgement (R402). A translation that is not buffered is no fault: the token
waits for its walk (R100). -/
def State.mxFault (s : State) (c ix : Nat) (t : MxToken) (e : Trap) : State :=
  let k := s.core c
  let p := (t.unit c).port
  if e.isMiss then s.miss c p e.info1
  else match k.freeFrec with
  | none => s
  | some f =>
    let half := t.halves.headD 0 % 2
    let s := s.setCore c ((k.onTok t.id fun _ => { t with phase := .faulted, halves := [], out := [], paid := 0 }).dropFailed p)
    (match t.source with
    | .pin h q => s.regionFault c h ⟨7, half, q, 0, (k.regions.find? h).elim 0 fun (g : Region) => g.arcInto q 94⟩ e
    | .cp slot epc =>
      s.raise c f ⟨.token t.id, e.cause, epc, BitVec.ofNat 64 (7 * 2 ^ 44 + half * 2 ^ 40 + e.detail), e.info1, e.info2,
        info3 (.token t.id) (ix % 16) t.gang c slot, 0, t.gang, false⟩).tookFault p

/-- R294: the halves that a token needs among those free, lower first; [2] is the drain path. -/
def Core.takeHalves (k : Core) (t : MxToken) : Option (List Nat) :=
  let used := (k.mxq.filter fun u => u.id != t.id).flatMap fun u => u.halves
  let free := [0, 1].filter fun n => !used.contains n
  let n := if mxRedundant t.op || mxM128 t.w0 then 2 else 1
  if t.op = 3 then some []
  else if t.op = 4 then (if used.contains 2 then none else some [2])
  else if free.length < n then none else some (free.take n)

/-- R310: an ACCR request on a tile is being served. -/
def Core.served (k : Core) (tile : Nat) : Bool :=
  k.regions.any fun e => e.2.fab.mus.any fun m => !m.2.rows.isEmpty && m.2.line == tile

/-- R294, R310: whether the token at position `ix` may go on: it is started, or it is the head and its tiles are free. -/
def Core.mayRun (k : Core) (ix : Nat) (t : MxToken) : Bool :=
  t.phase == .started ||
    (t.phase == .queued && (k.mxq.take ix).all (fun u => u.phase != .queued && (u.phase == .complete || !t.tiles.any fun n => u.names n))
      && !t.tiles.any k.served)

/-- R302 to R304: the drain's target: view, half bytes of an element. -/
def drainView (dfmt : Nat) : Nat := match dfmt with
  | 0 => 0x08 | 1 => 0x09 | 2 => 0x11 | 3 => 0x12 | _ => 0x0A

def MxToken.view (t : MxToken) : Nat := drainView (mxDfmt t.w0)
/-- Rows converted together: a scale group's four, or one. -/
def MxToken.unitRows (t : MxToken) : Nat := if fmtDb t.view then 4 else 1
/-- The bytes of a row. -/
def MxToken.rowBytes (t : MxToken) : Nat := 32 * viewHalf t.view
def MxToken.rowStep (t : MxToken) : Int := if recKind t.arec = 2 then (t.rowBytes : Int) else recStride1 t.arec
def MxToken.rows (t : MxToken) : Nat := 64 * t.tiles.length
/-- The record offset of a row. -/
def MxToken.rowOff (t : MxToken) (i : Nat) : Int := mxOffset t.arec (t.w1.extractLsb' 0 32) * 64 + i * t.rowStep

/-- R304: the bytes that row `i` of a drain is written to. -/
def State.drainSpan (s : State) (c : Nat) (t : MxToken) (i : Nat) : Except Trap MxSpan :=
  s.mxSpan c t t.arec (mxArec t.w0) (t.rowOff i) t.rowBytes true

/-- R94, R97, R103, R311: the record and the pages of a drain when it starts. -/
def State.drainPages (s : State) (c : Nat) (t : MxToken) : Except Trap Unit :=
  allOk (fun i => (s.drainSpan c t i).map fun _ => ()) (List.range t.rows)

/-- R304: the engine's own checks of a drain, after those of its pages. -/
def State.drainCheck (s : State) (c : Nat) (t : MxToken) : Except Trap Unit := do
  let r := t.arec
  if recView r ≠ t.view || (fmtDb t.view && !recPlaned r) then throw (formatTrap (recBase r) 0 (recView r))
  allOk (fun i => do
    let sp ← s.drainSpan c t i
    let first := sp.page.bind fun p => (sp.bytes.findSome? id).map fun e => (p, e.2)
    allOk (fun e => if e.1.fmt ≠ t.view || (fmtDb t.view && !e.1.planed) then throw (formatTrap e.2 e.1.fmt (recView r)) else .ok ())
      (first.toList ++ sp.next.toList)) (List.range t.rows)
  let o := t.rowOff 0
  if fmtDb t.view then
    if t.rowStep ≠ t.rowBytes ∨ o % (4 * t.rowBytes : Nat) ≠ 0 then throw { cause := .align, info1 := wordOf o }
  else if t.rowStep % (max 1 (viewHalf t.view / 2) : Nat) ≠ 0 then throw { cause := .align, info1 := wordOf o }

/-- R305: the first redundant tile that differs from its check copy, and the element. -/
def Core.mismatch (k : Core) (t : MxToken) : Option (Nat × Nat) :=
  t.tiles.findSome? fun n => (k.tile n).check.bind fun c =>
    ((List.range 4096).find? fun e => (k.tile n).elems.get 0 e != c.get 0 e).map fun e => (n, e)

/-- R298, R304, R311: whether a token may start: its records, operands and pages. -/
def State.mxCheck (s : State) (c : Nat) (t : MxToken) : Except Trap Unit := do
  match t.trap with
  | some e => throw e
  | none => pure ()
  if mxAccum t.op then
    s.operandPages c t t.opA
    s.operandPages c t t.opB
    s.operandCheck c t t.opA
    s.operandCheck c t t.opB
  else if t.op = 4 then
    s.drainPages c t
    s.drainCheck c t

/-- The slot barriers that hold a token (R298). -/
def MxToken.holds (t : MxToken) : List Nat := if mxAccum t.op then t.opA.holds ++ t.opB.holds else []

/-- R298: whether an operand is held. -/
def State.mxHeld (s : State) (c : Nat) (t : MxToken) : Bool := t.holds.any fun va => s.heldAt c (t.unit c).port (some va)

/-- R100, R298: a token looks at its slot barriers' words. -/
def State.mxLook (s : State) (c : Nat) (t : MxToken) : State :=
  t.holds.foldl (fun (s : State) va => s.lookHold c (t.unit c).port (some va)) s

/-- R406, R415: the MEMTO of a token held at a collar slot: the first block that is held, and where it lies. -/
def State.mxMemto (s : State) (c : Nat) (t : MxToken) : Trap :=
  let held := [t.opA, t.opB].findSome? fun x => x.blocks.findSome? fun e => match spotOf x.record x.ix (x.off e.1 e.2) true false with
    | .ok sp => if sp.hold.any fun va => s.heldAt c (t.unit c).port (some va) then
        some (((recBase x.record + sp.base : Nat) : Int) + sp.off).toNat else none
    | .error _ => none
  let va := held.getD (recBase t.arec)
  { cause := .memto, info1 := BitVec.ofNat 64 va, info2 := BitVec.ofNat 64 (((s.collarKey c (t.unit c).port va).getD 0) % 2 ^ 60) }

/-- R415: whether a token held at a collar slot has waited out the limit. -/
def Core.waitedOut (k : Core) (t : MxToken) : Bool := k.memto.toNat != 0 && decide (k.memto.toNat ≤ t.age)

/-- R99: the module after the translations of some spans. -/
def State.noteSpans (s : State) (c : Nat) (t : MxToken) (sps : List MxSpan) : State :=
  sps.foldl (fun (s : State) sp => ((sp.bytes.filterMap id).foldl (fun (l : List Nat) e => if l.contains (e.2 / 2 ^ 16) then l else l ++ [e.2 / 2 ^ 16])
    []).foldl (fun (s : State) p => s.remember ((t.unit c).issuer s) (p * 2 ^ 16)) s) s

/-- R302, R303, R311: the token starts: its checks, and its tiles as they begin. -/
def State.mxStart (s : State) (c ix : Nat) (t : MxToken) : State :=
  let k := s.core c
  match s.mxCheck c t with
  | .error e => s.mxFault c ix t e
  | .ok () =>
    if t.op = 4 then
      match k.mismatch t with
      | some (n, e) =>
        let f := s.mxFault c ix t { cause := .redundant, info1 := BitVec.ofNat 64 (k.tile n).applied, info2 := BitVec.ofNat 64 (n + 16 * e) }
        if k.freeFrec.isNone then f else { f with reports := f.reports ++ [Report.mismatch c n] }
      | none => s.setCore c (k.onTok t.id fun _ => { t with phase := .started, zeroed := true })
    else
      let k := t.tiles.foldl (fun (k : Core) n => k.onTile n fun x => x.begin t.op) k
      s.setCore c (k.onTok t.id fun _ => { t with phase := if t.op = 3 then .complete else .started, zeroed := true })

/-- R352: the k-groups that the engine may still do in this stitch; none until its boundary's refill is made. -/
def Core.mxRate (k : Core) : Nat := rfld k.permitsNow 48 16
def Core.mxAvail (k : Core) (stitch : Word) : Nat := if k.refilled == stitch.toNat then k.mxLeft else 0

/-- R352: the permits of a token's next k-group taken, one for each half, as far as they are left; whether it has them all. -/
def Core.payGroup (k : Core) (stitch : Word) (t : MxToken) : Core × Bool :=
  if k.mxRate = 0 then (k, k.refilled == stitch.toNat)
  else
    let n := min (t.halves.length - t.paid) (k.mxAvail stitch)
    (({ k with mxLeft := k.mxLeft - n }).onTok t.id fun _ => { t with paid := t.paid + n }, t.halves.length ≤ t.paid + n)

/-- R302: a k-group is added to a token's tiles. -/
def Core.addGroup (k : Core) (t : MxToken) (as bs : List (List Exact)) : Core :=
  let k := (t.tiles.zipIdx).foldl (fun (k : Core) e => k.onTile e.1 fun x => x.group ((as.drop (64 * e.2)).take 64) bs) k
  let over_ := t.resume + 1 = 2 * mxK t.w0
  let k := if over_ then t.tiles.foldl (fun (k : Core) n => k.onTile n fun x => { x with applied := x.applied + 1 }) k else k
  k.onTok t.id fun _ => { t with resume := t.resume + 1, phase := if over_ then .complete else .started, halves := if over_ then [] else t.halves, paid := 0 }

/-- R296, R302: the next k-group of a token: its operands' blocks are read, once for both of their groups, then it is summed. -/
def State.mxGroup (s : State) (c ix : Nat) (t : MxToken) : State :=
  let g := t.resume
  let u := t.unit c
  match s.blockSpans c t t.opA (g / 2), s.blockSpans c t t.opB (g / 2) with
  | .error e, _ => s.mxFault c ix t e
  | _, .error e => s.mxFault c ix t e
  | .ok as, .ok bs =>
    match (s.noteSpans c t (as ++ bs)).fetch u ((as ++ bs).flatMap MxSpan.wants) with
    | .failed e => s.mxFault c ix t e
    | .waiting s => s.onCore c fun k => k.onTok t.id fun _ => t
    | .ready seen => match seen.groupValues t.opA g as, seen.groupValues t.opB g bs with
      | .error e, _ => s.mxFault c ix t e
      | _, .error e => s.mxFault c ix t e
      | .ok a, .ok b =>
        let r := (s.core c).payGroup s.stitch t
        if !r.2 then s.setCore c r.1
        else
          let k := r.1.addGroup t a b
          s.setCore c (if g % 2 = 1 then k.dropReads u.port else k)

/-- R304: the codes of the rows of a unit of a drain, row by row, its metadata and its status. -/
def drainData (t : MxToken) (elems : List Lane) : List Byte × Option (BitVec 128) × BitVec 3 :=
  match t.view with
  | 0x08 => (elems.flatMap fun v => leBytes 4 v.toNat, none, 0)
  | 0x11 | 0x12 =>
    let g := toDb (dbM t.view) 0 (elems.map fun v => Fmt.fp32.dec v.toNat)
    ((List.range 8).flatMap fun b => blockBytes (dbM t.view) true (blockOf g.codes b), some g.scale, g.status)
  | v =>
    let f := (fmtOfCode v).getD .bf16
    let r := elems.map fun x => convElem .fp32 f 0 true x.toNat
    (r.flatMap fun x => leBytes (viewHalf v / 2) x.1, none, r.foldl (fun st x => st ||| x.2) 0)

/-- The half bytes that bytes of a span take, sector by sector, each with the VA of its first byte (R304: a sector is written at once). -/
def MxSpan.part (sp : MxSpan) (bs : List Byte) : List (Nat × Part) :=
  let es := (List.zip sp.bytes bs).filterMap fun e => e.1.map fun b => (b, e.2)
  ((es.map fun e => e.1.1 / 64).eraseDups).map fun sec =>
    let mine := es.filter fun e => e.1.1 / 64 == sec
    ((mine.head?).elim 0 fun e => e.1.2, mine.flatMap fun e => [(2 * e.1.1, e.2.toNat % 16), (2 * e.1.1 + 1, e.2.toNat / 16)])

/-- R304: the writes of some rows, each its own, those of a scale group's metadata first. -/
def drainPuts (t : MxToken) (d : List Byte × Option (BitVec 128) × BitVec 3) (first : Nat) (rows : List (Nat × MxSpan)) : List Put :=
  let scale := match d.2.1, (rows.map fun e => e.2).find? fun sp => sp.page.isSome with
    | some w, some sp => putsOf 128 (({ sp with bytes := sp.scale.map some } : MxSpan).part (leBytes 16 w.toNat)) false
    | _, _ => []
  scale ++ rows.flatMap fun e => putsOf 128 (e.2.part ((d.1.drop ((e.1 - first) * t.rowBytes)).take t.rowBytes)) true

/-- Whether row `i` of a drain holds the byte at a VA. -/
def MxToken.inRow (t : MxToken) (i va : Nat) : Bool :=
  match spotOf t.arec (mxArec t.w0) (t.rowOff i) false true with
  | .error _ => false
  | .ok sp => match boundOf t.arec (mxArec t.w0) sp t.rowBytes true false with
    | .ok (.part off _ len) =>
      let v := ((recBase t.arec + sp.base : Nat) : Int) + off
      decide (v ≤ (va : Int) ∧ (va : Int) < v + len)
    | _ => false

/-- R311: the lowest row of a drain whose write failed, and how. -/
def State.failedRow (s : State) (c : Nat) (t : MxToken) : Option (Nat × Trap) :=
  let rs := (s.core c).portReqs (t.unit c).port
  match (List.range t.rows).findSome? fun i => rs.findSome? fun r =>
    if t.inRow i r.tgt.va then (r.reply?.bind fun a => a.error).map fun e => (i, e) else none with
  | some x => some x
  | none => ((s.core c).portError (t.unit c).port).map fun e => (0, e)

/-- R304, R312: the next rows of a drain are converted: a row, or what is left of a scale group of four. -/
def State.mxConvert (s : State) (c ix : Nat) (t : MxToken) : State :=
  let k := s.core c
  let first := t.resume / t.unitRows * t.unitRows
  let rows := (List.range t.unitRows).map fun i => first + i
  let tile (row : Nat) : Nat := t.tiles.getD (row / 64) 0
  let bad := rows.findSome? fun row =>
    ((k.tile (tile row)).poisoned.find? fun e => e / 64 == row % 64).map fun e => (tile row, e)
  match bad, (rows.filter fun row => decide (t.resume ≤ row)).mapM fun row => (s.drainSpan c t row).map fun sp => (row, sp) with
  | some (n, e), _ => s.mxFault c ix t { cause := .ecc, detail := 1, info2 := BitVec.ofNat 64 (n + 16 * e) }
  | none, .error e => s.mxFault c ix t e
  | none, .ok sps =>
    let d := drainData t (rows.flatMap fun row => (List.range 64).map fun j => (k.tile (tile row)).elems.get 0 (row % 64 * 64 + j))
    let s := s.setCore c ((k.addStatus t.gang d.2.2).onTok t.id fun _ =>
      { t with resume := first + t.unitRows, phase := .started, out := drainPuts t d first sps })
    s.noteSpans c t (sps.map fun e => e.2)

/-- R304, R311: a drain goes on: its rows converted are sent; a write that failed stops it at the lowest such row, once the rows before that
one have set out; every write performed, it is complete. -/
def State.mxDrain (s : State) (c ix : Nat) (t : MxToken) : State :=
  let u := t.unit c
  let failed := s.failedRow c t
  match if t.out.isEmpty then failed.filter fun e => decide (e.1 < t.resume) else none with
  | some e => s.mxFault c ix { t with resume := e.1 } e.2
  | none =>
    if !t.out.isEmpty then
      let r := (s.onCore c fun k => k.takeWritten u.port).sendPuts u some t.out
      r.1.onCore c fun k => k.onTok t.id fun _ => { t with out := r.2 }
    else if t.resume < t.rows then s.mxConvert c ix t
    else
      let k := (s.core c).takeWritten u.port
      if k.portIdle u.port then s.setCore c (k.onTok t.id fun _ => { t with phase := .complete, halves := [] }) else s.setCore c k

/-- R294, R298, R302 to R304: what the token at position `ix` of the queue does next, if its operation is `op`. -/
def State.mxMove (s : State) (c ix op : Nat) : State :=
  let k := s.core c
  match k.mxq[ix]? with
  | none => s
  | some t =>
    if t.op ≠ op || !k.mayRun ix t || s.frozen t.gang || k.gated.contains .matrix then s
    else match if t.halves.isEmpty then k.takeHalves t else some t.halves with
      | none => s
      | some hs =>
        let t := { t with halves := hs }
        if !t.zeroed then
          if s.mxHeld c t then
            if k.waitedOut t then s.mxFault c ix t (s.mxMemto c t) else s.mxLook c t
          else s.mxStart c ix t
        else if op = 4 then s.mxDrain c ix t
        else s.mxGroup c ix t

/-- R302, MMA. -/
def execMma (o : CmdAt) (s : State) : Out := .next (s.mxMove o.core o.ix 1)
/-- R302, MMAZ. -/
def execMmaz (o : CmdAt) (s : State) : Out := .next (s.mxMove o.core o.ix 2)
/-- R303, MZERO. -/
def execMzero (o : CmdAt) (s : State) : Out := .next (s.mxMove o.core o.ix 3)
/-- R304, MDRAIN. -/
def execMdrain (o : CmdAt) (s : State) : Out := .next (s.mxMove o.core o.ix 4)
/-- R302, MMAR. -/
def execMmar (o : CmdAt) (s : State) : Out := .next (s.mxMove o.core o.ix 5)
/-- R302, MMARZ. -/
def execMmarz (o : CmdAt) (s : State) : Out := .next (s.mxMove o.core o.ix 6)

/-- R295, R307, MATRIX_TOKEN_COMPLETE: the counter falls, and the pin's done is owed; it is emitted at once if its turn has come and
it finds room. -/
def execMatrixTokenComplete (o : CmdAt) (s : State) : Out :=
  let k := s.core o.core
  match k.mxq[o.ix]? with
  | none => .next s
  | some t =>
    if t.phase ≠ .complete || s.frozen t.gang then .next s
    else match t.source with
      | .cp _ _ => .next (s.setCore o.core (k.tokDone t.id))
      | .pin h p =>
        match k.regions.find? h with
        | none => .next (s.setCore o.core (k.tokDone t.id))
        | some g =>
          let g := { g with fab := { g.fab with owed := g.fab.owed.upd [] p fun l => l.map fun i => if i = .pending t.id then .done else i } }
          let g := if g.moving || s.frozen (some g.gang) then g else (g.emitOwed p).getD g
          .next (s.setCore o.core ({ k with regions := k.regions.set h g }.tokDone t.id))

end Sys2Proof.Machine
end

