-- ==== Sys2Proof/Machine/Queue.lean ====
section
/-! DEFINITION. Commands (R156 to R158, R450 to R453), host accesses (R142, R143), queue controllers (R145 to R149, R153, R155). -/

namespace Sys2Proof.Machine

/-! ### Head entries -/

/-- A queue entry as a number, byte 0 lowest. The hem die reads its payload as it stands, poisoned words included (log 42). -/
def State.entry (s : State) (q : Nat) (i : Word) : Nat :=
  match s.entryKey q i with
  | .ok key => s.load key 64
  | .error _ => 0

/-- Bytes i to j of an entry. -/
def entryBytes (e i j : Nat) : Nat := bits e (8 * j + 7) (8 * i)

/-- R155: the launch identifier of an entry. -/
def launchId (q : Nat) (i : Word) : Nat := q * 2 ^ 48 + i.toNat % 2 ^ 48
def launchQueue (id : Nat) : Nat := id / 2 ^ 48

/-- A launch record (Table 6-3). -/
abbrev LRecord := BitVec 512
def lrCount (r : LRecord) : Nat := rfld r 223 24 + 1
def lrCidx (r : LRecord) : Nat := rfld r 210 13
def lrCpage (r : LRecord) : Nat := rfld r 174 36
def lrArg (r : LRecord) : Nat := rfld r 128 46 * 64
def lrNawait (r : LRecord) : Nat := rfld r 121 3
def lrChbase (r : LRecord) : Nat := rfld r 115 6
def lrNreg (r : LRecord) : Nat := rfld r 112 3 + 1
def lrPrio (r : LRecord) : Nat := rfld r 109 3
def lrCores (r : LRecord) : Nat := rfld r 100 9 + 1
def lrImg (r : LRecord) : Nat := rfld r 64 36
/-- Await `k`: counter index, value. -/
def lrAwait (r : LRecord) (k : Nat) : Nat × Nat := (rfld r (320 + 45 * k) 13, rfld r (333 + 45 * k) 32)
/-- Region `i`: patches, rail class. -/
def lrShape (r : LRecord) (i : Nat) : Nat × Nat := (rfld r (256 + 6 * i) 3 + 1, rfld r (259 + 6 * i) 3)
/-- The regions of a member core. -/
def lrShapes (r : LRecord) : List (Nat × Nat) := (List.range (lrNreg r)).map (lrShape r)

/-! ### Commands (R156, R157) -/

/-- Tables 6-4 and 23-3: the argument bytes that a command names. -/
def argBytes (op : Nat) : List (Nat × Nat) :=
  match op with
  | 1 => [(16, 17), (32, 47)]
  | 2 => [(16, 17), (32, 63)]
  | 3 => [(16, 17)]
  | 4 => [(16, 23)]
  | 6 => [(16, 23)]
  | 7 => [(16, 23), (32, 63)]
  | _ => []

/-- R157: an opcode that is assigned, and zero bytes where they are to be 0. -/
def commandOk (e : Nat) : Bool :=
  let op := entryBytes e 8 8
  1 ≤ op && op ≤ 7 && entryBytes e 9 15 == 0
    && (List.range 48).all fun i => (argBytes op).any (fun r => decide (r.1 ≤ 16 + i ∧ 16 + i ≤ r.2)) || entryBytes e (16 + i) (16 + i) == 0

/-- The head command of a domain's queue, when the queue is open and the command may be dispensed. -/
def State.headCommand (s : State) (dom : Nat) : Option Nat :=
  if dom < 16 && s.opened && (s.queue dom).type == 2 && s.dispensable dom then some (s.entry dom (s.queue dom).head) else none

/-- R157: the head command is skipped and logged. -/
def State.skipCommand (s : State) (dom : Nat) : State :=
  { s.advanceHead dom with errorLog := s.errorLog ++ [.skipped dom (s.queue dom).head] }

/-- R156, R157: the head command of a domain is performed as `f` says, if its opcode is `op`: `f` answers nothing where the command is
skipped. A malformed head is skipped by whichever command's turn comes. -/
def command (dom op : Nat) (f : Nat → State → Option State) (s : State) : Out :=
  match s.headCommand dom with
  | none => .next s
  | some e =>
    if !commandOk e then .next (s.skipCommand dom)
    else if entryBytes e 8 8 ≠ op then .next s
    else match f e s with
      | none => .next (s.skipCommand dom)
      | some t => .next (t.advanceHead dom)

/-- R158: the unplaced instances of a partly placed head launch of a queue are discarded, and the log says how many. -/
def State.dropHead (s : State) (q : Nat) : State :=
  let x := s.queue q
  let id := launchId q x.head
  match s.launches.find? fun l => l.id == id && !l.placed with
  | none => s
  | some l =>
    if l.next = 0 then { s with launches := s.launches.filter fun m => m.id != id }
    else
      { s with
        launches := s.launches.filterMap fun m =>
          if m.id ≠ id then some m else if m.live = 0 then none else some { m with placed := true, uncounted := true }
        errorLog := s.errorLog ++ [.discarded q x.head (lrCount l.record - l.next)] }

/-- R156, R158: the LKILL marks of a queue's entries go with the entries that are abandoned (log 17). -/
def State.dropMarks (s : State) (q : Nat) : State :=
  let hem := q / Config.queuesPerHem
  { s with marks := s.marks.set hem ((s.marks.get [] hem).filter fun m => launchQueue m != q) }

/-- Table 6-1: a descriptor as a queue at reset. -/
def queueOf (d : Nat) : Queue :=
  { Queue.reset with
    valid := true
    type := BitVec.ofNat 2 (bits d 126 125)
    prio := BitVec.ofNat 3 (bits d 124 122)
    weight := BitVec.ofNat 8 (bits d 121 114)
    dom := BitVec.ofNat 4 (bits d 113 110)
    logn := BitVec.ofNat 5 (bits d 109 105)
    ring := BitVec.ofNat 42 (bits d 104 63)
    ctl := BitVec.ofNat 46 (bits d 62 17) }

/-- R157: whether a valid descriptor may be written by domain `dom`. -/
def descriptorOk (d dom : Nat) : Bool :=
  bits d 126 125 < 2 && bits d 121 114 != 0 && bits d 113 110 == dom && 4 ≤ bits d 109 105 && bits d 109 105 ≤ 20 && bits d 16 0 == 0

/-- R157: a queue that a command of a domain may name. -/
def State.ownQueue (s : State) (q dom : Nat) : Bool := !(s.queue q).valid || (s.queue q).dom.toNat == dom

/-- R156, R158, QDESC. -/
def execQdesc (o : DomAt) (s : State) : Out :=
  command o.dom 1 (fun e s =>
    let q := entryBytes e 16 17
    let d := entryBytes e 32 47
    let valid := bits d 127 127 == 1
    if q < 16 || !s.ownQueue q o.dom || (valid && !descriptorOk d o.dom) then none
    else
      let s := if (s.queue q).valid then (s.dropHead q).dropMarks q else s
      some (if valid then s.setQueue q (queueOf d) else s.setQueue q { s.queue q with valid := false })) s

/-- R106: a lining descriptor. -/
def liningOf (d : Nat) : Lining :=
  ⟨bits d 255 255 == 1, bits d 254 254 == 1, BitVec.ofNat 36 (bits d 223 188), BitVec.ofNat 20 (bits d 187 168),
    BitVec.ofNat 32 (bits d 167 136), BitVec.ofNat 4 (bits d 135 132)⟩

/-- R156, LDESC: `id` is one of 4,096; a command that names another is skipped (log 42). -/
def execLdesc (o : DomAt) (s : State) : Out :=
  command o.dom 2 (fun e s =>
    let id := entryBytes e 16 17
    let d := liningOf (entryBytes e 32 63)
    if 4096 ≤ id || ((s.lining id).valid && (s.lining id).dom.toNat != o.dom) || (d.valid && d.dom.toNat != o.dom) then none
    else some { s with linings := s.linings.set id d }) s

/-- R156, QRESET. A partly placed head launch is discarded as QDESC discards it (log 17). -/
def execQreset (o : DomAt) (s : State) : Out :=
  command o.dom 3 (fun e s =>
    let q := entryBytes e 16 17
    if q < 16 || !s.ownQueue q o.dom then none
    else
      let s := (s.dropHead q).dropMarks q
      some (s.setQueue q { s.queue q with head := 0, tail := 0, resv := 0, closed := false, faulted := false, headSeen := false,
                                          awaitsMet := [] })) s

/-- R156: the instances of a launch are removed, and those saved or being saved with them; the launch is never counted. -/
def State.killLaunch (s : State) (id : Nat) : State :=
  let s := (s.gangs.filter fun g => g.id.launch == id).foldl (fun (s : State) g => s.removeGang g.id) s
  { s with saves := s.saves.filter fun v => v.gang.id.launch != id
           launches := s.launches.filter fun l => l.id != id }

/-- R428: whether an instance of a launch is being saved. -/
def State.savingLaunch (s : State) (id : Nat) : Bool := s.gangs.any fun g => g.id.launch == id && g.job.isSome

/-- R156, R428, LKILL: it waits for a save in progress. A launch whose entry stands at the head and may be dispensed goes as its head passes;
an entry that is still to come, or to be published, is marked. -/
def execLkill (o : DomAt) (s : State) : Out :=
  if ((s.headCommand o.dom).elim false fun e => commandOk e && entryBytes e 8 8 == 4 && s.savingLaunch (entryBytes e 16 23)) then .next s
  else command o.dom 4 (fun e s =>
    let id := entryBytes e 16 23
    let q := launchQueue id
    let x := s.queue q
    let i := id % 2 ^ 48
    let hem := q / Config.queuesPerHem
    if !s.ownQueue q o.dom then none
    else match s.launches.find? fun l => l.id == id with
      | some l =>
        let s := s.killLaunch id
        some (if l.placed then s else s.advanceHead q)
      | none =>
        if (i + 2 ^ 48 - x.head.toNat % 2 ^ 48) % 2 ^ 48 ≥ 2 ^ 47 then some s
        else if launchId q x.head = id ∧ x.type = 0 ∧ s.dispensable q then some (s.advanceHead q)
        else
          let marks := s.marks.get [] hem
          if marks.contains id then some s
          else if Config.lkillMarks ≤ marks.length then none
          else some { s with marks := s.marks.set hem (id :: marks) }) s

/-- R156, R412, XINV: head passes once no access of the domain is outstanding. -/
def execXinv (o : DomAt) (s : State) : Out :=
  match s.headCommand o.dom with
  | none => .next s
  | some e =>
    let r : PageRange := ⟨0, 0, true⟩
    if commandOk e && entryBytes e 8 8 == 5 && s.invalidating o.dom r then .next (s.invalidate o.dom r)
    else command o.dom 5 (fun _ s => some (s.invalidate o.dom r)) s

/-! ### Reports (R450 to R453) -/

/-- R24: a core's number within its die. -/
def coreInDie (c : Nat) : Nat := coreY c % 4 * 6 + coreX c % 6

/-- Table 23-4: a die's 8 bytes: failing cores, repaired lanes. -/
def TestResult.die (t : TestResult) (d : Nat) : Nat :=
  ((t.failCores.filter fun c => dieOf c == d).foldl (fun v c => v ||| 2 ^ coreInDie c) 0) + t.lanes.get 0 d % 256 * 2 ^ 24

/-- Table 23-4: the dies with a failure, hem dies from 16. -/
def TestResult.failed (t : TestResult) (d : Nat) : Bool :=
  if d < 16 then t.failCores.any fun c => dieOf c == d else t.failHems.contains (d - 16)

/-- R450: whether every part passed. -/
def TestResult.passed (t : TestResult) : Bool :=
  t.failCores.isEmpty && t.failHems.isEmpty && t.stackOk.all fun e => e.2 != 2

/-- Table 23-4: bytes 0 to 383 of a report. -/
def State.reportBody (s : State) (kind : Nat) (nonce : List Byte) : List Byte :=
  let t := s.test
  let pass := (if t.passed then 1 else 0) + ((List.range 20).foldl (fun v d => v + if t.failed d then 2 ^ (d + 1) else 0) 0)
  [BitVec.ofNat 8 kind, 1] ++ List.replicate 6 0 ++ leBytes 8 (s.node % 2 ^ 12) ++ leBytes 8 s.stitch.toNat ++ leBytes 8 pass
    ++ nonce ++ s.meas ++ (edPublic Config.identitySeed.toList) ++ List.replicate 7 0
    ++ ((List.range 20).flatMap fun d => leBytes 8 (t.die d))
    ++ ((List.range 32).map fun n => BitVec.ofNat 8 (t.stackOk.get 0 n))

/-- R451: a report of 512 bytes, signed. -/
def State.reportBytes (s : State) (kind : Nat) (nonce : List Byte) : List Byte :=
  let body := s.reportBody kind nonce
  body ++ edSign Config.identitySeed.toList (shake256 64 body) ++ List.replicate 14 0

/-- R450: where a report is written: 512-byte aligned, in a RAW page of the domain. -/
def State.reportKey (s : State) (dom va : Nat) : Option Nat :=
  match s.translate (s.hemIssuer (dom / Config.queuesPerHem) dom) .store false true none va with
  | .ok p => if va % 512 = 0 ∧ p.fmt = 0 then some (p.key + va % 2 ^ 16) else none
  | .error _ => none

/-- R446, R450, R452: what the self-test found; a core that fails is withheld. Only a passing test clears the count of shocks. -/
def State.tested (s : State) (o : TestAt) : State :=
  let t : TestResult := ⟨o.failCores, o.failHems, o.lanes, o.stackOk⟩
  { s with test := t, shockSinceTest := false, shocks := if t.passed then 0 else s.shocks
           cores := (List.range Config.numCores).foldl (fun (m : Tab Core) c =>
             let k := m.get Core.reset c
             if k.withheld == o.failCores.contains c then m else m.set c { k with withheld := o.failCores.contains c }) s.cores }

/-- R450, R452, SELFTEST: it waits until no gang is resident. What the tests do to memory is log 18's. -/
def execSelftest (o : TestAt) (s : State) : Out :=
  match s.headCommand o.dom with
  | none => .next s
  | some e =>
    if commandOk e && entryBytes e 8 8 == 6 && o.dom == 0 && !s.gangs.isEmpty && (s.reportKey o.dom (entryBytes e 16 23)).isSome then .next s
    else command o.dom 6 (fun e s =>
      match if o.dom = 0 then s.reportKey o.dom (entryBytes e 16 23) else none with
      | none => none
      | some key =>
        let count := leBytes 4 (s.shocks % 2 ^ 32) ++ List.replicate 28 0
        let s := s.tested o
        some (s.storeBytes key (s.reportBytes 0 count))) s

/-- R450, R451, ATTEST. -/
def execAttest (o : DomAt) (s : State) : Out :=
  command o.dom 7 (fun e s =>
    (s.reportKey o.dom (entryBytes e 16 23)).map fun key => s.storeBytes key (s.reportBytes 1 (leBytes 32 (entryBytes e 32 63)))) s

/-! ### Hosts (R142, R143) -/

/-- R94, R143, R145: a host's access translated and checked; its size is one that a control processor's access has (log 22). -/
def State.hostTarget (s : State) (o : HostAccess) : Except Trap Target := do
  let wr := match o.op with | .load => false | _ => true
  let rd := match o.op with | .store _ => false | _ => true
  let u : Use := match o.op with
    | .load => .load
    | .store _ => .store
    | .atomic op _ _ => .atomic (op == .fadd)
  let p ← s.translate (s.hemIssuer o.hem o.dom) u rd wr none o.va
  if o.va % o.size ≠ 0 then throw { cause := .align, info1 := BitVec.ofNat 64 o.va }
  let home := s.homeOf p o.va
  if wr then
    match s.queueRules home p.dom o.va o.size true with
    | some t => throw t
    | none => pure ()
  if p.node ≠ 0 && s.unreachable.contains p.node then throw { cause := .link, info1 := BitVec.ofNat 64 o.va }
  return ⟨home, o.va, o.size, 0, o.size, none⟩

/-- R143, R203: what a host's access does, and its answer. -/
def State.hostPerform (s : State) (o : HostAccess) (t : Target) : State × Answer :=
  match o.op with
  | .load =>
    if s.homePoisoned t.home 0 o.size then (s, .cause .ecc) else (s, .data (leBytes o.size (s.homeLoad t.home 0 o.size)))
  | .store data => (s.homeStore t.home (data.take o.size), .data [])
  | .atomic op v cmp =>
    if s.homePoisoned t.home 0 o.size then (s, .cause .ecc)
    else
      let old := s.homeLoad t.home 0 o.size
      (s.homeStore t.home (leBytes o.size (atomNew op (8 * o.size) old v.toNat cmp.toNat)), .data (leBytes o.size old))

/-- R143, HOST_ACCESS: an access that arrives at a hem die is performed, or answered with its cause. -/
def execHostAccess (o : HostAccess) (s : State) : Out :=
  match s.hostTarget o with
  | .error t => .next { s with answers := s.answers ++ [(o.tag, .cause t.cause)] }
  | .ok t =>
    let r := (s.remember (s.hemIssuer o.hem o.dom) o.va).hostPerform o t
    .next { r.1 with answers := r.1.answers ++ [(o.tag, r.2)] }

/-! ### Queue controllers -/

/-- R146, TAIL_WRITE: a value written to a queue's tail. -/
def execTailWrite (o : TailAt) (s : State) : Out := .next (if (s.queue o.q).valid then s.tailTo o.q o.v else s)

/-- R145, QUEUE_CLOSE. -/
def execQueueClose (o : QueueAt) (s : State) : Out := .next (if (s.queue o.q).valid then s.closeQueue o.q else s)

/-- R148, QUEUE_REREAD: the head entry is read again. -/
def execQueueReread (o : QueueAt) (s : State) : Out := .next (s.reread o.q)

/-- R153: whether await `k` of a record is satisfied in a domain; one whose translation fails is not (log 42). A poisoned counter is compared
as it stands (log 42). -/
def State.awaited (s : State) (hem dom : Nat) (r : LRecord) (k : Nat) : Bool :=
  let a := lrAwait r k
  match s.translate (s.hemIssuer hem dom) .counter true false none (lrCpage r * 2 ^ 16 + 8 * a.1) with
  | .error _ => false
  | .ok p => a.2 ≤ s.load (p.key + 8 * a.1) 8

/-- R153: the awaits of a queue's head launch that have not been found satisfied are read again. -/
def State.rereadAwait (s : State) (q : Nat) : State :=
  let x := s.queue q
  match s.launches.find? fun l => l.id == launchId q x.head with
  | none => s
  | some l =>
    let met := (List.range (lrNawait l.record)).filter fun k =>
      x.awaitsMet.contains k || s.awaited (q / Config.queuesPerHem) l.dom l.record k
    s.setQueue q { x with awaitsMet := met }

/-- R153: every unsatisfied await of the module is read again: after every completion advance, and at least once in a stitch. -/
def State.rereadAwaits (s : State) : State :=
  (s.launches.map fun l => launchQueue l.id).foldl State.rereadAwait s

/-- R153, AWAIT_REREAD: the awaits of the queue's head launch. -/
def execAwaitReread (o : QueueAt) (s : State) : Out := .next (s.rereadAwait o.q)

/-- Table 6-6: whether a reserved field of a record is nonzero, or a count too large. -/
def lrIllegal (r : LRecord) : Bool :=
  rfld r 500 12 != 0 || rfld r 304 16 != 0 || rfld r 247 9 != 0 || rfld r 124 4 != 0 || 4 < lrNawait r
    || 8 < (lrShapes r).foldl (fun n e => n + e.1) 0

/-- R155, Table 6-6: the cause of a malformed head launch, as far as the hem die finds it: record, translations, image header. The argument block
is checked for reading and the counter page for reading and writing, with the hem die's privilege, and a counter page that is neither RAW
nor INT64 is FORMAT (log 42). -/
def State.launchBad (s : State) (q : Nat) (r : LRecord) : Option Cause :=
  let i := s.hemIssuer (q / Config.queuesPerHem) (s.queue q).dom.toNat
  let tr (u : Use) (rd wr : Bool) (va : Nat) : Option Cause := match s.translate i u rd wr none va with
    | .error t => some t.cause
    | .ok _ => none
  let header := readHeader (fun off n => s.codeRead (fun va => s.translate { i with priv := false } .fetch false false none va)
    (lrImg r * 2 ^ 16 + off) n)
  if lrIllegal r then some .illegal
  else ((tr .any true false (lrArg r)).orElse fun _ => tr .counter true true (lrCpage r * 2 ^ 16)).orElse fun _ =>
    match header with
    | .error t => some t.cause
    | .ok h =>
      if h.nent = 0 ∨ h.nreg ≠ lrNreg r then some .frame
      else if 48 < lrChbase r + h.nent then some .illegal
      else none

/-- R155: the head launch of a queue is malformed: the queue dispenses nothing more, and the log says why. -/
def State.malformed (s : State) (q : Nat) (c : Cause) : State :=
  let x := s.queue q
  { s.setQueue q { x with faulted := true } with errorLog := s.errorLog ++ [.malformed q x.head c] }

/-- The blocked POP that a queue serves next (R224): oldest first. -/
def State.firstPop (s : State) (q : Nat) : Option (Nat × Nat) :=
  let all := s.cores.flatMap fun e => e.2.conts.filterMap fun x => match x.2.kind with
    | .pop p n => if p = q ∧ !x.2.posted then some (n, e.1, x.1) else none
    | .wait _ _ => none
  (all.foldl (fun (m : Option (Nat × Nat × Nat)) e => match m with
    | none => some e
    | some f => if e.1 < f.1 then some e else some f) none).map fun e => e.2

/-- R148, R155, R156, QUEUE_DISPENSE: the head entry of a WORK queue goes to the POP that waits for it; that of a LAUNCH queue is taken up
for the scheduler, found malformed, or passed over by an LKILL mark. A COMMAND queue's head is performed by its command's row. -/
def execQueueDispense (o : QueueAt) (s : State) : Out :=
  let x := s.queue o.q
  if !s.dispensable o.q then .next s
  else if x.type = 1 then
    match s.firstPop o.q with
    | none => .next s
    | some (c, ix) => execContinuationPost ⟨c, ix⟩ s
  else if x.type = 0 then
    let id := launchId o.q x.head
    let hem := o.q / Config.queuesPerHem
    if s.launches.any fun l => l.id == id then .next s
    else if (s.marks.get [] hem).contains id then
      .next { s.advanceHead o.q with marks := s.marks.set hem ((s.marks.get [] hem).filter fun m => m != id) }
    else
      let r := BitVec.ofNat 512 (s.entry o.q x.head)
      match s.launchBad o.q r with
      | some c => .next (s.malformed o.q c)
      | none => .next { s.setQueue o.q { x with headSeen := true, awaitsMet := [] } with
          launches := s.launches ++ [⟨id, x.dom.toNat, r, 0, false, 0, false⟩] }
  else .next s

end Sys2Proof.Machine
end

