-- ==== Sys2Proof/Machine/Place.lean ====
section
/-! DEFINITION. The launch scheduler and placement (R159 to R170), binding (R154, R164, R185, R193), image residency (R171, R183), the
end of a gang and of its launch (R42, R43, R153, R437). -/

namespace Sys2Proof.Machine

/-! ### Patches (R166 to R169) -/

/-- Consecutive patches from a base. -/
def runOf (base len : Nat) : List Nat := (List.range len).map fun i => base + i

/-- The patches of a core that regions hold, or move to. -/
def Core.patchesHeld (k : Core) : List Nat :=
  k.regions.flatMap fun e => runOf e.2.base e.2.len ++ if e.2.moving then runOf e.2.target e.2.len else []

/-- R166, R168: the lowest-numbered run of free patches of a length below `limit` that meets a condition. -/
def lowestRun (occupied : List Nat) (len limit : Nat) (ok : Nat → Bool) : Option Nat :=
  (List.range (9 - len)).find? fun b => decide (b < limit) && ok b && (runOf b len).all fun p => !occupied.contains p

/-- R455: the relative patches of a region that name an mx pin in any configuration of its list, or in a configuration that its banks hold
(log 34). -/
def Region.mxNamed (g : Region) : List Nat :=
  let bank (t : Tab Bank) : List Nat := mxPatches ((List.range g.len).map fun p => (t.get Bank.none p).frames)
  g.mxNames ++ bank g.active ++ bank g.shadow

/-- R168: FIFO, WACC and TABLE modes pin a region. -/
def Region.pinned (g : Region) : Bool :=
  (List.range g.len).any fun p => (g.frames p).any fun f => frKind f == 2 && (muMode f == 2 || muMode f == 3 || muMode f == 5)

/-- R168, R170: the next move of a pass that has visited the bases below `from_`: the lowest-based movable region that has a run below it, its
base and the run. A region whose gang is halted does not move. -/
def State.nextMove (s : State) (c from_ : Nat) (reserved : List Nat) : Option (Nat × Nat × Nat) :=
  let k := s.core c
  (List.range 8).findSome? fun b =>
    match if b < from_ then none else List.find? (fun (e : Nat × Region) => e.2.base == b) k.regions with
    | none => none
    | some (h, g) =>
      let others := (k.regions.filter fun e => e.1 != h).flatMap fun e => runOf e.2.base e.2.len
      if g.pinned || s.frozen (some g.gang) then none
      else (lowestRun (others ++ reserved) g.len g.base (mxOk · g.mxNamed)).map fun t => (h, b, t)

/-- R169: a region freezes for its move. -/
def Core.startMove (k : Core) (h t : Nat) : Core :=
  match k.regions.find? h with
  | none => k
  | some g => { k with regions := k.regions.set h { g with moving := true, target := t } }

/-- Patches that are reserved or placed wake (R176); with one placed the slice is powered (R177). -/
def Core.wake (k : Core) (ps : List Nat) (slice : Bool) : Core :=
  k.powered fun u => (ps.any fun p => u == .patch p) || (slice && u == .slice)

/-- Patches are placed: they wake, on their rail (R173). -/
def Core.wakePatches (k : Core) (ps : List Nat) (rail : BitVec 3) : Core :=
  { k.wake ps true with
           patchRails := ps.foldl (fun (t : Tab (BitVec 3)) p => t.set p rail) k.patchRails }

/-- R173, R174: the rail of a class at a throttle level on a core, by the cmap in force since the last stitch. -/
def State.railOf (s : State) (c cls level : Nat) : BitVec 3 :=
  (s.cmapsNow.get cmapReset (dieOf c)).extractLsb' (3 * min 7 (cls + level)) 3

/-- R169, COMPACTION_MOVE_DONE: the region runs on from its new base. -/
def execCompactionMoveDone (o : RegionAt) (s : State) : Out :=
  let k := s.core o.core
  match k.regions.find? o.hdl with
  | none => .next s
  | some g =>
    if !g.moving then .next s
    else
      let g' := { g with base := g.target, moving := false, moved := true }
      let level := (k.gangInfo? g.gang).elim 0 fun i => i.level
      .next (s.setCore o.core ({ k with regions := k.regions.set o.hdl g' }.wakePatches (runOf g'.base g'.len) (s.railOf o.core g.cls level)))

/-! ### Reservations (R166, R167) -/

/-- What a core answers: bases for every region, or those found before compaction is needed, or that it cannot place the member. -/
inductive Fit where
  | fits (bases : List Nat)
  | stuck (bases : List Nat)
  | fails
deriving DecidableEq, Repr

/-- The patches of the regions reserved so far. -/
def reservedBy (r : LRecord) (bases : List Nat) : List Nat := (bases.zipIdx).flatMap fun e => runOf e.1 (lrShape r e.2).1

/-- R166: the remaining regions of a member, in record order. -/
def Core.reserve (k : Core) (dom : Nat) (r : LRecord) : List Nat → List Nat → Fit
  | [], bases => .fits bases
  | n :: ns, bases =>
    let len := (lrShape r n).1
    let names := (k.imageOf dom (lrImg r)).elim [] fun m => (m.regions[n]?).elim [] fun e => m.mxNames e.list
    let occupied := k.patchesHeld ++ reservedBy r bases
    match lowestRun occupied len 9 (mxOk · names) with
    | some b => k.reserve dom r ns (bases ++ [b])
    | none => if len ≤ ((List.range 8).filter fun p => !occupied.contains p).length then .stuck bases else .fails

/-- The entries of the launch's image, by any core's resident copy or by its header. -/
def State.entryCount (s : State) (l : Launch) : Nat :=
  match readHeader (fun off n => s.codeRead (fun va => s.translate (s.hemIssuer 0 l.dom) .fetch false false none va) (lrImg l.record * 2 ^ 16 + off) n) with
  | .ok h => h.nent
  | .error _ => 0

/-- R167, R450: whether a core may hold a member: its domain, its health, its channels. -/
def State.mayHold (s : State) (l : Launch) (nent c : Nat) : Bool :=
  let k := s.core c
  k.domain.toNat == l.dom && !k.withheld && (List.range nent).all fun e => !(k.chan (lrChbase l.record + e)).valid

/-- What a core comes to: it holds its reservations; it cannot take the member; the decision waits for a move on it, in a pass or for the one that
is to begin. `swept` says that the core has made its pass. -/
inductive CoreTry where
  | holds (bases : List Nat) (swept : Bool)
  | fails (swept : Bool)
  | moving (s : State) (bases : List Nat) (pass : Option Nat)
deriving DecidableEq, Repr

/-- R166: the regions of a member still to be reserved. -/
def restOf (l : Launch) (bases : List Nat) : List Nat := (List.range (lrNreg l.record)).drop bases.length

/-- R168: a pass goes on at base `from_`: the next region moves, or the region that found no run is tried once more. -/
def State.sweep (s : State) (l : Launch) (c : Nat) (bases : List Nat) (from_ : Nat) : CoreTry :=
  match s.nextMove c from_ (reservedBy l.record bases) with
  | some (h, b, t) => .moving (s.onCore c fun k => k.startMove h t) bases (some (b + 1))
  | none => match (s.core c).reserve l.dom l.record (restOf l bases) bases with
    | .fits all => .holds all true
    | _ => .fails true

/-- R167, R168, R170: a core is tried for a member whose first regions have their bases: by one pass at most in a decision, which waits while a
region of the core moves. -/
def State.tryCore (s : State) (l : Launch) (passed : List Nat) (c : Nat) (bases : List Nat) (pass : Option Nat) : CoreTry :=
  let k := s.core c
  let busy := k.regions.any fun e => e.2.moving
  match pass with
  | some b => if busy then .moving s bases (some b) else s.sweep l c bases b
  | none => match k.reserve l.dom l.record (restOf l bases) bases with
    | .fits all => .holds all false
    | .fails => .fails false
    | .stuck got =>
      if passed.contains c then .fails false
      else if busy then .moving s got none
      else s.sweep l c got 0

/-- What trying to place an instance comes to: the cores that hold reservations; none; or a wait for a move. -/
inductive Try where
  | placed (d : Decision)
  | failed (d : Decision)
  | pause (s : State) (d : Decision)
deriving DecidableEq, Repr

/-- A decision in which a core has made its pass, if it has, and no pass is in progress. -/
def Decision.after (d : Decision) (c : Nat) (swept : Bool) : Decision :=
  { d with pass := none, passed := if swept then c :: d.passed else d.passed }

/-- R167: cores in ascending order, until as many as the gang's width hold their reservations. `part` are the bases reserved on the
first of them before a pause. -/
def State.tryCores (s : State) (l : Launch) : List Nat → List Nat → Decision → Try
  | [], _, d => if d.held.length = lrCores l.record then .placed d else .failed d
  | c :: cs, part, d =>
    if d.held.length = lrCores l.record then .placed d
    else match s.tryCore l d.passed c part d.pass with
      | .holds bases swept => s.tryCores l cs [] { d.after c swept with held := d.held ++ [(c, bases)] }
      | .fails swept => s.tryCores l cs [] (d.after c swept)
      | .moving t bases pass => .pause t { d.after c pass.isSome with held := d.held ++ [(c, bases)], pass := pass }

/-- R167: an instance of a launch is tried, from where the decision paused while its reservations stand, else afresh. -/
def State.tryPlace (s : State) (l : Launch) (d : Decision) : Try :=
  let nent := s.entryCount l
  let cores := (List.range Config.numCores).filter (s.mayHold l nent)
  match if d.held.all fun e => cores.contains e.1 then d.held.getLast? else none with
  | none => s.tryCores l cores [] { d with held := [], pass := none }
  | some (c, bases) => s.tryCores l (cores.filter fun x => c ≤ x) bases { d with held := d.held.dropLast }

/-- R176: the patches that cores have reserved wake. -/
def State.wakeReserved (s : State) (l : Launch) (held : List (Nat × List Nat)) : State :=
  held.foldl (fun (s : State) e => s.onCore e.1 fun k => k.wake (reservedBy l.record e.2) false) s

/-! ### Binding (R154, R185, R193) -/

/-- A region as placement binds it: held, list[0] active. -/
def newRegion (id : GangId) (dom page base len cls : Nat) (e : RegionEntry) (names : List Nat) : Region where
  gang := id
  dom := dom
  base := base
  len := len
  cls := cls
  page := page
  list := e.list
  mxNames := names
  cfgpc := 0
  dims := e.dims
  idx := e.dims.map fun _ => 0
  run := .held
  doneOwed := none
  rootDone := false
  next := false
  stop := false
  active := []
  shadow := []
  fab := default
  binds := []
  watch := 0
  moved := false
  moving := false
  target := 0

/-- R37: the lowest handle that is free. -/
def Core.freeHandle (k : Core) : Nat := (firstFree (fun h => (k.regions.find? h).isSome) 8).getD 0

/-- R154, R179: a channel that an image's entry binds; `handles` are those of the regions in record order. An index that names no region of the
launch is kept as the handle, and a reserved source or a period of 0 is bound as given (log 42). -/
def entryChan (id : GangId) (im : Image) (handles : List Nat) (e : TaskEntry) : Chan :=
  let param := if e.src = 1 then
      match handles[e.param.toNat % 8]? with
      | some h => BitVec.ofNat 48 (e.param.toNat / 8 * 8 + h)
      | none => e.param
    else e.param
  { Chan.unbound with
    valid := true, prio := e.prio, src := e.src, param := param, gang := some id, timerLeft := param.toNat % 2 ^ 32
    entry := BitVec.ofNat 49 ((im.page * 2 ^ 16 + im.coff + e.off) / 8) }

/-- Order 3 of Table 6-5: the regions of a member are bound, and their handles. -/
def State.bindRegions (s : State) (c : Nat) (id : GangId) (r : LRecord) (im : Image) (bases : List Nat) : State × List Nat :=
  (bases.zipIdx).foldl (fun (x : State × List Nat) b =>
    let k := x.1.core c
    let h := k.freeHandle
    let sh := lrShape r b.2
    let e := im.regions.getD b.2 ⟨[0], [1]⟩
    let g := newRegion id im.dom im.page b.1 sh.1 sh.2 e (im.mxNames e.list)
    let g := (k.bindFirst g).getD g
    let k := { k with regions := k.regions.set h g }.wakePatches (runOf b.1 sh.1) (x.1.railOf c sh.2 0)
    let k := (List.range sh.1).foldl (fun (k : Core) p => k.markFrames c g p) k
    (x.1.setCore c k, x.2 ++ [h])) (s, [])

/-- R100, R196: who translates the entries' first lines of an image on a core. -/
def State.entryIssuer (s : State) (c : Nat) (im : Image) : Issuer := s.issuerOf c false (some (.image c im.dom im.page))

/-- R179: the VA of an entry's first word. -/
def entryVa (im : Image) (e : TaskEntry) : Nat := (im.page * 2 ^ 16 + im.coff + e.off) / 8 % 2 ^ 49 * 8

/-- R100: the walks that the first lines of an image's entries wait for on a core have begun; whether one is lacking. -/
def State.entryWalks (s : State) (c : Nat) (im : Image) : State × Bool :=
  im.entries.foldl (fun (x : State × Bool) e =>
    match x.1.translate (x.1.entryIssuer c im) .fetch false false none (entryVa im e) with
    | .error t => if t.isMiss then (x.1.miss c (.image c im.dom im.page) t.info1, true) else x
    | .ok _ => x) (s, false)

/-- R196: the line that holds an entry's first instruction goes into the buffer. One that cannot be fetched is left to the fetch that traps at it
(R195; log 34). -/
def State.loadEntry (s : State) (c : Nat) (im : Image) (e : TaskEntry) : State :=
  let va := entryVa im e
  let i := s.entryIssuer c im
  match s.translate i .fetch false false none va with
  | .error _ => s.tookFault (.image c im.dom im.page)
  | .ok p =>
    let key := p.key + va / 64 * 64 % 2 ^ 16
    if s.poisonedAt key 64 then s
    else (s.remember i va).onCore c fun k => k.putLine ⟨i.dom, va / 64, readBytes s.mem key 64⟩

/-- R40, R154: a member is bound: its marks, regions and channels, the image as the one bound last. -/
def State.bindMember (s : State) (id : GangId) (r : LRecord) (im : Image) (width : Nat) (e : (Nat × List Nat) × Nat) : State :=
  let c := e.1.1
  let s := s.onCore c fun k =>
    { k with gangs := k.gangs ++ [(id, ⟨0, ⟨0, 0, 0, 0⟩, 0, e.2, width⟩)]
             store := im :: k.store.filter fun m => !(m.dom == im.dom && m.page == im.page) }
  let b := s.bindRegions c id r im e.1.2
  let s := b.1.onCore c fun k => (im.entries.zipIdx).foldl (fun (k : Core) x =>
    k.setChan (lrChbase r + x.2) (entryChan id im b.2 x.1)) k
  (im.entries.reverse).foldl (fun (s : State) x => s.loadEntry c im x) s

/-- R154: the start message of a member (Table 2-5). -/
def startMsg (r : LRecord) (inst rank width : Nat) : Msg :=
  ⟨[BitVec.ofNat 64 (lrArg r), BitVec.ofNat 64 rank, BitVec.ofNat 64 width, BitVec.ofNat 64 inst], 0, [], [], none, none, false⟩

/-- R167: an instance is bound on every member, and then each gets its start message (R154). -/
def State.bindInstance (s : State) (q : Nat) (l : Launch) (held : List (Nat × List Nat)) : State :=
  let id : GangId := ⟨l.id, l.next⟩
  let width := held.length
  let images := held.map fun e => (s.core e.1).imageOf l.dom (lrImg l.record)
  match images.head?.join with
  | none => s
  | some im =>
    let s := (held.zipIdx).foldl (fun (s : State) e =>
      match (s.core e.1.1).imageOf l.dom (lrImg l.record) with
      | some m => s.bindMember id l.record m width e
      | none => s) s
    let s := (held.zipIdx).foldl (fun (s : State) e =>
      s.onCore e.1.1 fun k => k.post (lrChbase l.record) (startMsg l.record l.next e.2 width)) s
    let prio := min (s.queue q).prio.toNat (lrPrio l.record)
    let last := decide (lrCount l.record ≤ l.next + 1)
    let s := { s with
      gangs := s.gangs ++ [⟨id, l.dom, held.map fun e => e.1, prio, lrChbase l.record, im.entries.length, im.page, s.stitch, 0, none, none⟩]
      launches := s.launches.map fun m => if m.id = l.id then { m with next := m.next + 1, live := m.live + 1, placed := last } else m }
    if last then s.advanceHead q else s

/-! ### The decision (R159, R160) -/

/-- The unplaced head launch of a queue, as taken up. -/
def State.headLaunch (s : State) (q : Nat) : Option Launch :=
  s.launches.find? fun l => l.id == launchId q (s.queue q).head && !l.placed

/-- R150, R159: whether a queue is eligible: its head is dispensable still, and its awaits are satisfied. -/
def State.eligibleQueue (s : State) (q : Nat) : Bool :=
  let x := s.queue q
  x.valid && x.type == 0 && x.headSeen && s.dispensable q && match s.headLaunch q with
    | none => false
    | some l => (List.range (lrNawait l.record)).all x.awaitsMet.contains

/-- R159, R160: a queue's effective priority. -/
def State.queueLevel (s : State) (q : Nat) : Nat :=
  min 7 (min (s.queue q).prio.toNat ((s.headLaunch q).elim 0 fun l => lrPrio l.record) + (s.queue q).passes / 16)

/-- R160 steps 1 and 2: the next queue of a decision that has skipped some, and the credits as then reloaded. -/
def State.chooseQueue (s : State) (skipped : List Nat) : Option (State × Nat) :=
  let all := (s.queues.map fun e => e.1).filter s.eligibleQueue
  let play := all.filter fun q => !skipped.contains q
  let top := play.foldl (fun m q => max m (s.queueLevel q)) 0
  let here := play.filter fun q => s.queueLevel q == top
  if here.isEmpty then none
  else
    let s := if here.all fun q => (s.queue q).credit == 0 then
        (all.filter fun q => s.queueLevel q == top).foldl (fun (s : State) q =>
          s.setQueue q { s.queue q with credit := (s.queue q).weight.toNat }) s
      else s
    let rich := here.filter fun q => (s.queue q).credit != 0
    ((rich.find? fun q => decide (s.lastQueue < q)).orElse fun _ => rich.head?).map fun q => (s, q)

/-- R160 step 4: a placement costs its queue a credit; every other eligible queue that was not skipped is passed over. -/
def State.chargeQueue (s : State) (q : Nat) (skipped eligible : List Nat) : State :=
  let s := s.setQueue q { s.queue q with credit := (s.queue q).credit - 1, passes := 0 }
  let s := (eligible.filter fun p => p != q && !skipped.contains p).foldl (fun (s : State) p =>
    s.setQueue p { s.queue p with passes := (s.queue p).passes + 1 }) s
  { s with lastQueue := q, decision := none }

/-- R182, R183: whether an image's lists fit the patch counts of a record. -/
def listsFit (im : Image) (r : LRecord) : Bool :=
  (List.range (lrNreg r)).all fun n => match im.regions[n]? with
    | none => false
    | some e => e.list.all fun i => (im.configs[i]?).elim false fun c => c.length == (lrShape r n).1

/-- R155, R182, R183: the head launch of a queue is found malformed after it was taken up. -/
def State.rejectHead (s : State) (q : Nat) (c : Cause) : State := (s.dropHead q).malformed q c

/-- R417: a poisoned image is discarded before it is bound. -/
def Core.dropPoisoned (k : Core) (dom page : Nat) : Core :=
  { k with store := k.store.filter fun m => !(m.dom == dom && m.page == page && m.poisoned) }

/-- R160: what trying the head launch of a chosen queue comes to: the decision is over; the queue is skipped; the launch was malformed. The
cores that made their pass stay with the decision (R168). -/
inductive Attempt where
  | over (s : State)
  | skip (s : State) (passed : List Nat)
  | rejected (s : State) (passed : List Nat)
deriving DecidableEq, Repr

/-- R455: whether the bases that a core holds are runs for the image as it is resident there now. -/
def Core.basesOk (k : Core) (l : Launch) (bases : List Nat) : Bool :=
  (k.imageOf l.dom (lrImg l.record)).any fun m => (bases.zipIdx).all fun e =>
    mxOk e.1 ((m.regions[e.2]?).elim [] fun r => m.mxNames r.list)

/-- R100: the same on every core that holds reservations. -/
def State.firstLines (s : State) (held : List (Nat × List Nat)) (dom page : Nat) : State × Bool :=
  held.foldl (fun (x : State × Bool) e => match (x.1.core e.1).imageOf dom page with
    | none => x
    | some im => let y := x.1.entryWalks e.1 im; (y.1, x.2 || y.2)) (s, false)

/-- R160 step 3: the next instance of a launch is tried. It waits for the walks of its entries' first lines (log 28). A queue whose image is not yet resident on a core that holds the reservations is
skipped (R171, R184; log 34). -/
def State.attempt (s : State) (l : Launch) (q : Nat) (d : Decision) : Attempt :=
  let eligible := (s.queues.map fun e => e.1).filter s.eligibleQueue
  match s.tryPlace l { d with launch := l.id } with
  | .failed d => .skip (s.wakeReserved l d.held) d.passed
  | .pause t d => .over { t.wakeReserved l d.held with decision := some d }
  | .placed d =>
    let page := lrImg l.record
    let t := d.held.foldl (fun (t : State) e => t.onCore e.1 fun k => k.dropPoisoned l.dom page) (s.wakeReserved l d.held)
    match (d.held.head?).bind fun e => (t.core e.1).imageOf l.dom page with
    | none => .skip t d.passed
    | some im =>
      if d.held.any fun e => ((t.core e.1).imageOf l.dom page).isNone then .skip t d.passed
      else if !listsFit im l.record then .rejected (t.rejectHead q .frame) d.passed
      else if !d.held.all fun e => (t.core e.1).basesOk l e.2 then .skip t d.passed
      else if (t.firstLines d.held l.dom page).2 then .over { (t.firstLines d.held l.dom page).1 with decision := some d }
      else .over ((t.bindInstance q l d.held).chargeQueue q d.skipped eligible)

/-- A decision that has skipped some queues and goes on with another. -/
def Decision.fresh (skipped passed : List Nat) : Decision := ⟨0, skipped, [], passed, none⟩

/-- R160: a decision: the queues that it may still choose are tried, at most `fuel` of them. -/
def State.decisionLoop (s : State) : Nat → List Nat → List Nat → State
  | 0, _, _ => { s with decision := none }
  | fuel + 1, skipped, passed =>
    match s.chooseQueue skipped with
    | none => { s with decision := none }
    | some (t, q) =>
      match t.headLaunch q with
      | none => { t with decision := none }
      | some l => match t.attempt l q (Decision.fresh skipped passed) with
        | .over u => u
        | .skip u passed => u.decisionLoop fuel (skipped ++ [q]) passed
        | .rejected u passed => u.decisionLoop fuel skipped passed

/-- R160, R168, SCHEDULER_DECISION: one that waited for a move goes on where it stopped, if its launch is still a head launch. -/
def execSchedulerDecision (s : State) : Out :=
  let fuel := s.queues.length + 1
  .next <| match s.decision with
    | none => s.decisionLoop fuel [] []
    | some d =>
      let q := launchQueue d.launch
      match if s.eligibleQueue q then (s.headLaunch q).filter fun l => l.id == d.launch else none with
      | none => { s with decision := none }.decisionLoop fuel [] []
      | some l => match s.attempt l q d with
        | .over u => u
        | .skip u passed => u.decisionLoop fuel (d.skipped ++ [q]) passed
        | .rejected u passed => u.decisionLoop fuel d.skipped passed

/-- R167: what a paused decision has reserved on a core: patches, channels of the launch, the lowest handles that are free. -/
structure Reserved where
  patches : List Nat
  chans : List Nat
  handles : List Nat
deriving DecidableEq, Repr

/-- The first `n` numbers below `limit` that are not used. -/
def firstFrees (used : Nat → Bool) (limit n : Nat) : List Nat := ((List.range limit).filter fun i => !used i).take n

/-- R167: what a paused decision has reserved on core `c`. -/
def State.reservedOn (s : State) (c : Nat) : Reserved :=
  match s.decision.bind fun d => (s.launches.find? fun l => l.id == d.launch).bind fun l =>
      (d.held.find? fun e => e.1 == c).map fun e => (l, e.2) with
  | none => ⟨[], [], []⟩
  | some (l, bases) =>
    ⟨reservedBy l.record bases, (List.range (s.entryCount l)).map fun e => lrChbase l.record + e,
      firstFrees (fun h => ((s.core c).regions.find? h).isSome) 8 (lrNreg l.record)⟩

/-! ### Residency (R171, R183, R184) -/

/-- Whether a core's image is in use (R171). -/
def Core.imageUsed (k : Core) (m : Image) : Bool := k.regions.any fun e => e.2.dom == m.dom && e.2.page == m.page

/-- R171: the store's images, the one bound last first, with the least recently bound unused ones evicted until `room` frames are free beside
those of the fetches in progress. -/
def Core.evict (k : Core) (room : Nat) : Nat → List Image → Option (List Image)
  | 0, _ => none
  | fuel + 1, ms =>
    if room + k.fetches.foldl (fun n x => n + x.nfrm) 0 + ms.foldl (fun n m => n + m.nfrm) 0 ≤ Config.storeFrames then some ms
    else match ms.reverse.find? fun m => !k.imageUsed m with
      | none => none
      | some x => k.evict room fuel (ms.filter fun m => !(m.dom == x.dom && m.page == x.page))

/-- The core with room for `n` frames in its store, if they can be had. -/
def Core.makeRoom (k : Core) (n : Nat) : Option Core := (k.evict n (k.store.length + 1) k.store).map fun ms => { k with store := ms }

/-- R183: an unplaced launch of a domain that a core's image at `page` is fetched for, or a region that re-binds it (R193). -/
def State.imageWanted (s : State) (c dom page : Nat) : Bool :=
  s.launches.any (fun l => l.dom == dom && !l.placed && lrImg l.record == page)
    || (s.core c).regions.any fun e => e.2.dom == dom && e.2.page == page

/-- R155, R183: every head launch of the image is malformed. -/
def State.rejectImage (s : State) (dom page : Nat) (c : Cause) : State :=
  (s.launches.filter fun l => l.dom == dom && !l.placed && lrImg l.record == page).foldl (fun (s : State) l =>
    s.rejectHead (launchQueue l.id) c) s

/-- The fetch of an image is over: nothing is reserved for it, and no reply of it is waited for. -/
def Core.endFetch (k : Core) (c dom page : Nat) : Core :=
  { k.disownUnits (· == .image c dom page) with fetches := k.fetches.filter fun x => !(x.dom == dom && x.page == page) }

/-- Table 8-5 order 1: the frames that an image's header asks for, as the launch's hem die reads it. -/
def State.imageFrames (s : State) (dom page : Nat) : Nat :=
  let i := { s.hemIssuer 0 dom with priv := false }
  match readHeader fun off n => s.codeRead (fun va => s.translate i .fetch false false none va) (page * 2 ^ 16 + off) n with
  | .ok h => h.nfrm
  | .error _ => 1

/-- R171, R183, R184, IMAGE_FETCH_DONE: the allocator's fetch of an image goes on. Space is reserved first, and where the store cannot take the
image nothing is fetched; then header, tables and frames are read and checked as their bytes come; then the image is resident, as the one bound
last (log 42), or its head launches are malformed. -/
def execImageFetchDone (o : ImageAt) (s : State) : Out :=
  let s := s.onCore o.core fun k => k.dropPoisoned o.dom o.page
  let k := s.core o.core
  let ended := k.endFetch o.core o.dom o.page
  if k.domain.toNat ≠ o.dom ∨ (k.imageOf o.dom o.page).isSome ∨ !s.imageWanted o.core o.dom o.page then .next (s.setCore o.core ended)
  else if !k.fetches.any fun x => x.dom == o.dom && x.page == o.page then
    let n := s.imageFrames o.dom o.page
    match k.makeRoom n with
    | none => .next s
    | some k => .next (s.setCore o.core { k with fetches := k.fetches ++ [⟨o.dom, o.page, n⟩] })
  else match s.fetchImage o.core o.dom o.page with
    | .waiting t => .next t
    | .failed t => .next (((s.setCore o.core ended).tookFault (.image o.core o.dom o.page)).rejectImage o.dom o.page t.cause)
    | .done im => match ended.makeRoom im.nfrm with
      | none => .next (s.setCore o.core ended)
      | some k => .next (s.setCore o.core { k with store := im :: k.store })

/-! ### The end of a gang (R42, R43, R153) -/

/-- R192: a steering instruction that has still to act. -/
def Req.steersYet (r : Req) : Bool := (r.steers .go || r.steers .next || r.steers .stop) && r.unanswered

/-- R42: whether a member core has nothing left of a gang, and has performed its accesses (log 35). -/
def Core.gangOver (k : Core) (g : GangId) : Bool :=
  let mine (x : Option GangId) : Bool := x == some g
  k.regions.all (fun e => e.2.gang != g || match e.2.run, e.2.doneOwed with
      | .done _, none => true
      | _, _ => false)
    && k.slots.all (fun e => !mine e.2.gang)
    && k.chans.all (fun e => !mine e.2.gang || (e.2.fifo.isEmpty && e.2.held.isEmpty))
    && k.conts.all (fun e => !mine e.2.gang)
    && k.xus.all (fun e => !mine e.2.gang)
    && k.mxq.all (fun t => !mine t.gang)
    && k.scfgs.all (fun e => !mine e.2.gang)
    && k.reqs.all (fun r => !mine r.gang || !(r.unperformed || r.steersYet))

/-- R153: the completion counter of a launch is advanced, and the module's unsatisfied awaits are read again; where its translation fails
then, nothing is (log 42). A poisoned counter is advanced as it stands (log 42). -/
def State.countLaunch (s : State) (l : Launch) : State :=
  match s.translate (s.hemIssuer (launchQueue l.id / Config.queuesPerHem) l.dom) .counter true true none (lrCpage l.record * 2 ^ 16) with
  | .error _ => s
  | .ok p =>
    let key := p.key + 8 * lrCidx l.record
    (s.storeBytes key (leBytes 8 (s.load key 8 + 1))).rereadAwaits

/-- R43, R153, R437: an instance of a launch has ended; with the last one the launch completes. -/
def State.instanceEnded (s : State) (id : Nat) : State :=
  match s.launches.find? fun l => l.id == id with
  | none => s
  | some l =>
    if l.placed && decide (l.live ≤ 1) then
      let s := { s with launches := s.launches.filter fun m => m.id != id }
      if l.uncounted then s else s.countLaunch l
    else { s with launches := s.launches.map fun m => if m.id = id then { m with live := m.live - 1 } else m }

/-- R42, R43, R153, GANG_END. -/
def execGangEnd (o : GangAt) (s : State) : Out :=
  let id : GangId := ⟨o.launch, o.inst⟩
  .next <| match s.gangs.find? fun g => g.id == id with
    | none => s
    | some g =>
      if g.job.isSome || !g.members.all fun c => (s.core c).gangOver id then s
      else (s.removeGang id).instanceEnded id.launch

end Sys2Proof.Machine
end

