-- ==== Sys2Proof/Machine/Cloak.lean ====
section
/-! DEFINITION. The cloak: halting (R421 to R424), save areas (R425 to R427), use marks (R430), SAVE and RESTORE (R428, R429, R431),
pre-emption by the scheduler and the management plane, the emergency save (R432). -/

namespace Sys2Proof.Machine

/-! ### Save areas (R425 to R427) -/

/-- R425: the 64 KiB pages of an area. -/
def areaPages (width : Nat) : Nat := 1 + 288 * width

/-- R426: the offset of member slot `m` in its area. -/
def memberOff (m : Nat) : Nat := 0x10000 + 0x1200000 * m

/-- R428: a byte of an area by VA: a privileged write to a SAVE page in HBM. -/
def State.areaKey (s : State) (i : Issuer) (va : Nat) : Except Trap Nat := do
  let p ← s.translate i .any false true none va
  if p.fmt ≠ 0x1F ∨ p.key / 2 ^ 47 % 2 = 1 then throw (formatTrap va p.fmt 0)
  return p.key + va % 2 ^ 16

/-- `n` bytes of an area, within a page. -/
def State.areaLoad (s : State) (i : Issuer) (va n : Nat) : Option Nat :=
  match s.areaKey i va with
  | .error _ => none
  | .ok key => some (s.load key n)

/-- Bytes written to an area, within a page. -/
def State.areaStore (s : State) (i : Issuer) (va : Nat) (bs : List Byte) : State :=
  match s.areaKey i va with
  | .error _ => s
  | .ok key => s.storeBlock key bs

/-- R428: every page of an area. -/
def State.areaCheck (s : State) (i : Issuer) (va width : Nat) : Except Trap Unit :=
  (readAll (fun n => s.areaKey i (va + 2 ^ 16 * n)) (List.range (areaPages width))).map fun _ => ()

/-- R427: what an entry of a page list names: nothing; a slice page; a slice page by the PTE at a key; a BARRIER page by its first byte
and its bytes. -/
inductive Listed where
  | skip
  | direct (page : Nat)
  | sliced (pte : Nat) (page : Nat)
  | barrier (key : Nat) (bytes : Nat)
deriving DecidableEq, Repr

/-- The slice page that an entry saves. -/
def Listed.page? : Listed → Option Nat
  | .direct p => some p
  | .sliced _ p => some p
  | _ => none

/-- R427: entry `n` of the page list of a member on core `c`, for a gang of domain `dom`; none: malformed. -/
def State.listEntry (s : State) (i : Issuer) (c dom n e : Nat) : Option Listed :=
  if e = 0 then some (.direct n)
  else if e / 2 % 2 = 1 then (if e = 2 then some .skip else none)
  else if e / 2 ^ 52 ≠ 0 ∨ e / 4 % 4 ≠ 0 then none
  else
    let va := bits e 51 4 * 16
    match s.translate i .any true false none va with
    | .error _ => none
    | .ok p =>
      let key := p.key + va % 2 ^ 16
      let pte := BitVec.ofNat 128 (s.load key 16)
      if pteType pte ≠ 2 ∨ pteBad 3 pte ∨ pteDom pte ≠ dom then none
      else if e % 2 = 0 then
        if !pteSize pte && ppnSlice (ptePpn pte) && s.nodeOf (pteNode pte) == 0 && ptePpn pte / 2 ^ 8 % 2 ^ 9 == c then
          some (.sliced key (ptePpn pte % 2 ^ 8)) else none
      else if pteFmt pte = 0x1C then
        some (.barrier (memKey (s.nodeOf (pteNode pte)) (ptePpn pte * 2 ^ 16)) (if pteSize pte then 2 ^ 21 else 2 ^ 16))
      else none

/-- R427: the page list of a member slot at a VA, with npg; none: malformed. -/
def State.pageList (s : State) (i : Issuer) (va c dom : Nat) : Option (List Listed) :=
  match s.areaLoad i va 16 with
  | none => none
  | some h =>
    let npg := bits h 40 32
    if 256 < npg then none
    else (List.range npg).mapM fun n => (s.areaLoad i (va + 0x800 + 8 * n) 8).bind (s.listEntry i c dom n)

/-- The key of a page of a core's slice (Table 4-1). -/
def slicePage (c page : Nat) : Nat := 2 ^ 47 + c * 2 ^ 24 + page * 2 ^ 16

/-! ### Halting (R422) -/

/-- R204, R422: what a stalled instruction has begun that it does again on resume. -/
def Prog.halted : Prog → Prog
  | .scfence _ => .idle
  | .invalidated => .idle
  | .captured _ => .idle
  | p => p

/-- R232, R422: a slot stops at an instruction boundary; a speculating one is at its checkpoint again. A speculation whose stores have begun to be
issued is over: the ones left are still issued (finishUnits). -/
def Core.haltSlot (k : Core) (n : Nat) : Core :=
  let sl := k.slot n
  let k := match sl.spec with
    | none => k
    | some sp => if sp.committing then k else (k.dropSince n sp.mark).setSlot n (sl.restore sp)
  k.setSlot n { k.slot n with prog := (k.slot n).prog.halted }

/-- Table 21-1, R170: a member core halts; a move of the gang's regions is abandoned. -/
def Core.haltGang (k : Core) (g : GangId) : Core :=
  let k := ((k.slots.filter fun e => e.2.gang == some g).map fun e => e.1).foldl Core.haltSlot k
  { k with regions := k.regions.map fun (e : Nat × Region) => if e.2.gang = g then (e.1, { e.2 with moving := false }) else e }

/-- R422: every member of a gang halts, for a save. -/
def State.haltFor (s : State) (g : Gang) (job : SaveJob) : State :=
  let s := g.members.foldl (fun (s : State) c => s.onCore c fun k => k.haltGang g.id) s
  { s with gangs := s.gangs.map fun x => if x.id = g.id then { x with job := some job } else x }

/-! ### The request log (R423, R424) -/

/-- Table 21-2, R373: a read of the control processor that is issued again on resume. -/
def Req.reissued (r : Req) : Bool :=
  match r.op with
  | .load _ _ => true
  | .recld _ => true
  | _ => false

/-- Whether a request's reply fills or completes something. -/
def Core.replyWanted (k : Core) (r : Req) : Bool := r.live && (!r.dests.isEmpty || (k.slot r.slot).awaits r.id)

/-- Whether a request is one that nothing waits for: abandoned by its port (R415). -/
def Req.lost (r : Req) : Bool := decide (16 ≤ r.slot) && r.unit.isNone

/-- R424: whether a gang's seal need not wait for a request of a member core: another's; a read that is issued again; a steering instruction;
an abandoned one; one performed, with the reply there that its issuer needs. -/
def Core.logged (k : Core) (g : GangId) (r : Req) : Bool :=
  match r.op with
  | .message _ n _ => (k.chan n).gang != some g || !r.unperformed
  | _ =>
    if r.gang != some g || r.lost || r.reissued then true
    else if r.unit.isSome then r.op == .fetch || !r.unperformed
    else match r.op, r.phase with
      | .value _ _, _ => true
      | .steer _ _ _, _ => true
      | _, .back _ => true
      | _, .done _ => !k.replyWanted r
      | _, _ => false

/-- What a performed request answered. -/
def Req.answered? (r : Req) : Option Reply :=
  match r.phase with
  | .back p => some p
  | .done p => some p
  | _ => none

/-- R423: a request as the log keeps it, if it does: reads of units go on from their walks, and of their writes those that failed and PUBLISH
stay. -/
def Core.logReq (k : Core) (r : Req) : Option Req :=
  if r.lost then none
  else if r.unit.isSome then
    if r.op == .fetch then none
    else r.answered?.bind fun p =>
      if p.error.isSome || (match r.op with | .publish _ _ _ => true | _ => false) then some { r with phase := .back p } else none
  else if r.reissued then
    (if r.live || (match r.op with | .recld _ => true | _ => false) then some { r with phase := .unsent, age := 0, resend := 0, remote := none } else none)
  else match r.op with
    | .steer _ _ _ => some r
    | .value _ _ => some { r with age := 0 }
    | _ => r.answered?.bind fun p => if k.replyWanted r then some { r with phase := .back p } else none

/-! ### Saving a member (R426, R430) -/

/-- The continuation records of a gang on a core. -/
def Core.contsOf (k : Core) (g : GangId) : List Nat := (k.conts.filter fun e => e.2.gang == some g).map fun e => e.1

/-- R329, R423: a command as the cloak keeps it: its translations are taken anew, and what failed is done again. -/
def XuCmd.saved (x : XuCmd) (k : Core) (c ix : Nat) : XuCmd :=
  { (x.unwrite (x.out ++ k.failedPuts (.command c ix))).untranslated with phase := if x.phase = .faulted then .faulted else .issued }

/-- R56: a saved channel: another gang's continuation records go with the messages of theirs that stand there (log 16). -/
def Chan.savedFor (ch : Chan) (own : List Nat) : Chan :=
  let cut (m : Msg) : Msg := if m.ofCont own then m else { m with cont := none }
  { ch with fifo := ch.fifo.map cut, held := ch.held.map cut }

/-- What the cloak keeps of a gang on core `c`; `pages` are its saved slice pages, by entry × 256 + page. -/
def Core.saveMember (k : Core) (c : Nat) (g : GangId) (info : CoreGang) (pages : List Nat) : MemberSave where
  core := c
  posts := k.chans.flatMap fun e =>
    if e.2.gang = some g then [] else ((e.2.fifo ++ e.2.held).filter fun m => m.ofCont (k.contsOf g)).map fun m => (e.1, m)
  slots := k.slots.filter fun e => e.2.gang == some g
  chans := (k.chans.filter fun e => e.2.gang == some g).map fun e => (e.1, e.2.savedFor (k.contsOf g))
  conts := k.conts.filter fun e => e.2.gang == some g
  frecs := k.frecs.filter fun e => e.2.gang == some g && e.2.subject != .report
  regions := (k.regions.filter fun e => e.2.gang == g).map fun (e : Nat × Region) => (e.1, { e.2 with moving := false, target := 0 })
  records := ((List.range 256).filter fun n => info.marks.records.getLsbD n).map fun n => (n, k.record n)
  badRecords := k.badRecords.filter fun e => info.marks.records.getLsbD e.1
  sbs := ((List.range 32).filter fun n => info.marks.counters.getLsbD n).map fun n => (n, k.sb n)
  clasps := ((List.range 8).filter fun n => info.marks.clasps.getLsbD n).map fun n => (n, k.clasp n)
  info := info
  tiles := k.tiles.filter fun e => e.2.users.contains g
  tokens := (k.mxq.filter fun t => t.gang == some g).map fun t => { t with halves := [], age := 0, paid := 0 }
  xus := (k.xus.filter fun e => e.2.gang == some g).map fun e => (e.1, e.2.saved k c e.1)
  scfgs := k.scfgs.filter fun e => e.2.gang == some g
  reqs := (k.reqs.filter fun r => r.gang == some g).filterMap k.logReq
  pages := pages

/-- R428, R430: what a saved gang held on a core is free, and its marked resources there are clear; a tile that no other gang named is +0 and
plain (R293; log 9). A record that a handler has begun on informs only (log 14). -/
def Core.detach (k : Core) (g : GangId) (m : MemberSave) : Core :=
  let ixs := m.frecs.map fun e => e.1
  let begun (n : Nat) : Bool := k.slots.any fun e => e.2.handler == some n && e.2.status != .free
  { k with
    slots := k.slots.map fun e => if e.2.gang = some g then (e.1, Slot.free) else e
    chans := k.chans.map fun e => if e.2.gang = some g then (e.1, Chan.unbound) else (e.1, e.2.without fun x => x.frec.any ixs.contains || x.ofCont (k.contsOf g))
    conts := k.conts.filter fun e => e.2.gang != some g && !(k.contsIn fun c => c.gang == some g).contains e.1
    frecs := (k.frecs.filter fun e => !ixs.contains e.1 || begun e.1).map fun (e : Nat × Frec) =>
      if ixs.contains e.1 then (e.1, { e.2 with subject := .report }) else e
    regions := k.regions.filter fun e => e.2.gang != g
    records := k.records.filter fun e => !m.info.marks.records.getLsbD e.1
    badRecords := k.badRecords.filter fun e => !m.info.marks.records.getLsbD e.1
    sbs := k.sbs.filter fun e => !m.info.marks.counters.getLsbD e.1
    clasps := k.clasps.filter fun e => !m.info.marks.clasps.getLsbD e.1
    gangs := k.gangs.filter fun e => e.1 != g
    tiles := k.tiles.map fun (e : Nat × Tile) =>
      let users := e.2.users.filter fun u => u != g
      (e.1, if e.2.users.contains g && users.isEmpty then Tile.zero else { e.2 with users := users })
    mxq := k.mxq.filter fun t => t.gang != some g
    xus := k.xus.filter fun e => e.2.gang != some g
    scfgs := k.scfgs.filter fun e => e.2.gang != some g
    reqs := k.reqs.filter fun r => r.gang != some g || r.lost }

/-! ### Sealing (R424 to R428) -/

/-- Who translates for a save: the cloak, for the issuer of SAVE or from the domain's hem die. PTBASE's en does not stop it (R92). -/
def State.saveIssuer (s : State) (g : Gang) (job : SaveJob) : Issuer :=
  let i := if job.why = 0 then s.issuerOf job.core true else s.hemIssuer 0 g.dom
  { i with ptbase := i.ptbase ||| 1 }

/-- R427: the page list of a member: as its issuer wrote it, or from the gang's page marks. -/
def State.savePages (s : State) (g : Gang) (job : SaveJob) (c rank : Nat) : List Listed :=
  if job.why = 0 then (s.pageList (s.saveIssuer g job) (job.va + memberOff rank) c g.dom).getD []
  else
    let marks := (((s.core c).gangInfo? g.id).elim 0 fun i => i.marks.pages)
    (List.range 256).map fun n => if marks.getLsbD n then .direct n else .skip

/-- R427: the saved slice pages of a list, by entry × 256 + page. -/
def savedPages (list : List Listed) : List Nat := (list.zipIdx).filterMap fun e => e.1.page?.map fun p => e.2 * 256 + p

/-- Table 21-4: the VA, in a member slot at a VA, of the bytes that entry `n` of its page list saves. -/
def savedPageVa (va n : Nat) : Nat := 0x200000 + (va + 2 ^ 16 * n)

/-- R426, Table 21-4: the parts of a member slot that only the cloak writes and reads, by their pages: offset and length. -/
def privateParts : List (Nat × Nat) := (0x1000, 0xF000) :: (List.range 18).map fun n => (2 ^ 16 * (n + 1), 2 ^ 16)

/-- R426: what the cloak writes into such a part of member slot `m`: open bytes (log 9). -/
def privateBytes (seed m : Nat) (e : Nat × Nat) : List Byte :=
  (List.range e.2).map fun n => Config.freeByte seed (memberOff m + e.1 + n)

/-- Table 21-4: the rest of a member slot at a VA, on core `c`: the cloak's own bytes, the reserved part, which reads 0, the saved pages. -/
def State.writeSlot (s : State) (i : Issuer) (va c m seed : Nat) (list : List Listed) : State :=
  let s := privateParts.foldl (fun (s : State) e => s.areaStore i (va + e.1) (privateBytes seed m e)) s
  let s := (List.range 13).foldl (fun (s : State) n => s.areaStore i (0x130000 + (va + 2 ^ 16 * n)) (List.replicate (2 ^ 16) 0)) s
  (list.zipIdx).foldl (fun (s : State) e => match e.1.page?, s.areaKey i (savedPageVa va e.2) with
    | some p, .ok key => s.copyBlock (slicePage c p) key (2 ^ 16)
    | _, _ => s) s

/-- Tables 21-4 and 21-5: the member header and, for the cloak's own list, the page list. tcore is software's; a save that no software
prepared names the saved core (log 36). -/
def State.writeMember (s : State) (g : Gang) (job : SaveJob) (c rank : Nat) (list : List Listed) : State :=
  let i := s.saveIssuer g job
  let va := job.va + memberOff rank
  let old := (s.areaLoad i va 16).getD 0
  let own := job.why ≠ 0
  let h := (if own then 0x1FF else bits old 79 71) * 2 ^ 71 + c * 2 ^ 62 + (if own then 256 else bits old 40 32) * 2 ^ 32
  let s := s.areaStore i va (leBytes 16 h)
  if own then
    s.areaStore i (va + 0x800) (list.flatMap fun e => leBytes 8 (match e with | .skip => 2 | _ => 0))
  else s

/-- Table 21-3: the header of a sealed area. -/
def State.areaHeader (s : State) (g : Gang) (job : SaveJob) (level : Nat) : Nat :=
  g.id.launch * 2 ^ 192 + g.id.inst * 2 ^ 168 + (g.members.length - 1) * 2 ^ 147 + level * 2 ^ 144 + g.dom * 2 ^ 140
    + s.stitch.toNat * 2 ^ 64 + job.why * 2 + 1

/-- Whether two areas of a domain overlap. -/
def Saved.overlaps (v : Saved) (g : Gang) (job : SaveJob) : Bool :=
  v.key == job.key || (v.gang.dom == g.dom && decide (v.va < job.va + 2 ^ 16 * areaPages g.members.length)
    && decide (job.va < v.va + 2 ^ 16 * areaPages v.members.length))

/-- R428: the slot that waits in SAVE is told that its gang is sealed. -/
def State.tellSaver (s : State) (g : GangId) (job : SaveJob) : State :=
  s.onCore job.core fun k =>
    if (k.slot job.slot).prog = .saving g then k.setSlot job.slot { k.slot job.slot with prog := .sealed } else k

/-- R425 to R428: a halted gang is saved and sealed, and freed on every member core. -/
def State.sealGang (s : State) (g : Gang) (job : SaveJob) : State :=
  let ranks := g.members.zipIdx
  let lists := ranks.map fun e => (e.1, e.2, s.savePages g job e.1 e.2)
  let members := lists.filterMap fun e =>
    ((s.core e.1).gangInfo? g.id).map fun i => (s.core e.1).saveMember e.1 g.id i (savedPages e.2.2)
  let level := (members.head?).elim 0 fun m => m.info.level
  let t := members.foldl (fun (t : State) m => (t.forget ((t.core m.core).portOf m.core g.id)).onCore m.core fun k => k.detach g.id m) s
  let i := s.saveIssuer g job
  let t := lists.foldl (fun (t : State) e =>
    (t.writeMember g job e.1 e.2.1 e.2.2).writeSlot i (job.va + memberOff e.2.1) e.1 e.2.1 s.fresh e.2.2) t
  let t := t.areaStore i job.va (leBytes (2 ^ 16) (s.areaHeader g job level))
  let t : State := { t with
    gangs := t.gangs.filter fun x => x.id != g.id
    saves := (t.saves.filter fun v => !v.overlaps g job) ++ [⟨{ g with job := none }, job.why, job.key, job.va, members, s.fresh⟩]
    fresh := s.fresh + 1 }
  t.tellSaver g.id job

/-- R422: the writes of a region's AGs that have taken their tokens set out. -/
def State.sendAgs (s : State) (c h : Nat) : State :=
  match (s.core c).regions.find? h with
  | none => s
  | some g => g.fab.ags.foldl (fun (s : State) (e : Nat × AgState) =>
      if e.2.out.isEmpty then s
      else
        let u := g.requester c h ⟨4, e.1 % 2, e.1 / 2, 0, 0⟩ (e.2.sb.elim false fun b => b.priv)
        let r := s.sendPuts u (State.payRequest c h) e.2.out
        r.1.onAg c h e.1 fun st => { st with out := r.2 }) s

/-- R330, R422, R424: what a halted command has begun is completed: the sectors put together set out; those performed are taken, and each decrement
that they owe sets out. -/
def State.finishCmd (s : State) (c ix : Nat) (x : XuCmd) : State :=
  let u := x.unit c ix
  match x.out with
  | [] =>
    let y := s.xuCollect c ix x
    if (y.1.core c).mayDecrement u.port y.2 then y.1.xuDecrement c ix y.2 else y.1
  | ps =>
    let r := s.sendPuts u some ps
    r.1.setCmd c ix { x with out := r.2 }

/-- Whether a halted command has nothing begun: its sectors are sent, and the decrements of those performed, but for one that failed. -/
def Core.cmdRests (k : Core) (c ix : Nat) (x : XuCmd) : Bool :=
  let u := x.unit c ix
  x.phase == .faulted ||
    (x.out.isEmpty && !k.mayDecrement u.port x && !(k.portReqs u.port).any fun r => r.owes && r.reply?.any fun a => a.error.isNone)

/-- R422: what the units of a halted gang have begun on a core is completed: their writes set out, as far as permits go. -/
def State.finishUnits (s : State) (c : Nat) (g : GangId) : State :=
  let k := s.core c
  let s := (k.slots.filter fun e => e.2.gang == some g).foldl (fun (s : State) e =>
    match e.2.spec with
    | some sp => if sp.committing then s.commit c e.1 sp else s
    | none => s) s
  let s := (k.regions.filter fun e => e.2.gang == g).foldl (fun (s : State) e => s.sendAgs c e.1) s
  let s := (k.xus.filter fun e => e.2.gang == some g && e.2.phase != .faulted).foldl (fun (s : State) e => s.finishCmd c e.1 e.2) s
  (k.mxq.filter fun t => t.gang == some g && t.phase != .faulted).foldl (fun (s : State) t =>
    let r := s.sendPuts (t.unit c) some t.out
    r.1.onCore c fun k => k.onTok t.id fun t => { t with out := r.2 }) s

/-- Whether the units of a gang on a core have nothing begun. -/
def Core.unitsRest (k : Core) (c : Nat) (g : GangId) : Bool :=
  k.slots.all (fun e => e.2.gang != some g || e.2.spec.isNone) &&
  k.regions.all (fun e => e.2.gang != g || e.2.fab.ags.all fun a => a.2.out.isEmpty)
    && k.xus.all (fun e => e.2.gang != some g || k.cmdRests c e.1 e.2)
    && k.mxq.all (fun t => t.gang != some g || t.phase == .faulted || t.out.isEmpty)

/-- R424: whether every member's log is complete. -/
def State.sealable (s : State) (g : Gang) : Bool :=
  g.members.all fun c => (s.core c).unitsRest c g.id && (s.core c).reqs.all ((s.core c).logged g.id)

/-- R424, LOG_SEAL: what the gang's units have begun is sent; once every member's log is complete, the gang is saved. -/
def execLogSeal (o : GangAt) (s : State) : Out :=
  match s.gangs.find? fun g => g.id == ⟨o.launch, o.inst⟩ with
  | none => .next s
  | some g => match g.job with
    | none => .next s
    | some job => if s.sealable g then .next (s.sealGang g job) else .next (g.members.foldl (fun (s : State) c => s.finishUnits c g.id) s)

/-! ### SAVE (R428) -/

/-- R428: gD takes a status and the word retires. -/
def statusTo (d : Reg) (v : Nat) (s : State) : Out := retire (s.curSlot.write d (BitVec.ofNat 64 v)) s

/-- The cloak's translations for the running slot: they walk at once (log 28), and PTBASE's en does not stop them (R92). -/
def State.cloakIssuer (s : State) : Issuer := { s.curIssuer with port := none, ptbase := s.curIssuer.ptbase ||| 1 }

/-- R428: SAVE's checks of area and page lists, and the halt; the slot stalls until the seal. -/
def startSave (o : OpsDABC) (g : Gang) (va : Nat) (s : State) : Out :=
  let i := s.cloakIssuer
  checked (s.areaCheck i va g.members.length) s fun _ =>
    checked (s.areaKey i va) s fun key =>
      if (g.members.zipIdx).any fun e => (s.pageList i (va + memberOff e.2) e.1 g.dom).isNone then statusTo o.d 4 s
      else
        let s := s.haltFor g ⟨0, va, key, s.cur.core, s.cur.slot⟩
        stall (s.setCurSlot { s.curSlot with prog := .saving g.id })

/-- R428, SAVE. -/
def execSave (o : OpsDABC) (s : State) : Out :=
  guarded o.g s <| withReg o.a o.fea s fun a => withReg o.b o.feb s fun b => withReg o.c o.fec s fun c =>
    if !s.curSlot.priv then trap { cause := .priv, info1 := wordOfInstr (.save o) } s
    else unspeculated s <| withDest o.d s <|
      match s.curSlot.prog with
      | .sealed => statusTo o.d 0 s
      | .saving id =>
        match s.gangs.find? fun g => g.id == id with
        | some g => if g.job.isSome then stall s else statusTo o.d 0 s
        | none => statusTo o.d 0 s
      | _ =>
        if c.toNat % 2 ^ 16 ≠ 0 then trap { cause := .align, info1 := c } s
        else
          let id : GangId := ⟨a.toNat, b.toNat % 2 ^ 24⟩
          match s.gangs.find? fun g => g.id == id && g.dom == s.curCore.domain.toNat with
          | none => statusTo o.d 1 s
          | some g =>
            if g.job.isSome then statusTo o.d 2 s
            else if s.curSlot.gang = some id then statusTo o.d 3 s
            else startSave o g c.toNat s

/-! ### RESTORE (R428, R429, R431) -/

/-- Where a member goes: its core, the core it was saved on, and the places there of its regions (bases by handle), tasks, continuations, records,
commands; what its numbers of requests, tokens and SCFG loads grow by; the slice pages that move with it (R431). -/
structure Landing where
  core : Nat
  old : Nat
  bases : Tab Nat
  slots : Tab Nat
  conts : Tab Nat
  frecs : Tab Nat
  cmds : Tab Nat
  reqs : Nat
  toks : Nat
  loads : Nat
  pages : List Nat
deriving DecidableEq, Repr

/-- The new slot of a saved slot's task. -/
def Landing.slotOf (d : Landing) (n : Nat) : Nat := Tab.get n d.slots n

/-- Items given free places in order, if there are enough. -/
def assign (items free : List Nat) : Option (Tab Nat) :=
  if items.length ≤ free.length then some (items.zip free) else none

/-- R166, R167, R428, R455: runs for the saved regions, in ascending handle; what a paused decision has reserved is taken. -/
def State.landRegions (s : State) (c : Nat) (k : Core) : List (Nat × Region) → List (Nat × Nat × Nat) → Option (Tab Nat)
  | [], got => some (got.map fun e => (e.1, e.2.1))
  | (h, g) :: rest, got =>
    let kept := s.reservedOn c
    let occupied := k.patchesHeld ++ kept.patches ++ got.flatMap fun e => runOf e.2.1 e.2.2
    if (k.regions.find? h).isSome || kept.handles.contains h then none
    else match lowestRun occupied g.len 9 (mxOk · g.mxNamed) with
      | none => none
      | some b => s.landRegions c k rest (got ++ [(h, b, g.len)])

/-- R430: whether two gangs have marked a record, counter or clasp in common. -/
def Marks.clash (a b : Marks) : Bool :=
  (a.records &&& b.records) != 0 || (a.counters &&& b.counters) != 0 || (a.clasps &&& b.clasps) != 0

/-- R51, R428: slots for the saved tasks: slot 15 for a privileged one only. -/
def Core.landSlots (k : Core) (m : MemberSave) : Option (Tab Nat) :=
  let free := (List.range 16).filter fun n => (k.slot n).status == .free
  let plain := (m.slots.filter fun e => !e.2.priv).map fun e => e.1
  let high := (m.slots.filter fun e => e.2.priv).map fun e => e.1
  match assign plain (free.filter fun n => n < 15) with
  | none => none
  | some t => (assign high (free.filter fun n => !t.any fun e => e.2 == n)).map fun u => t ++ u

/-- The numbers below `n` that a table does not list. -/
def unlisted {α : Type} (t : Tab α) (n : Nat) : List Nat := (List.range n).filter fun i => (t.find? i).isNone

/-- R428: whether a core can take a member with its page list, and where. -/
def State.land (s : State) (dom : Nat) (m : MemberSave) (c : Nat) (list : List Listed) : Option Landing := do
  let k := s.core c
  if k.domain.toNat ≠ dom ∨ k.withheld ∨ m.chans.any (fun e => (k.chan e.1).valid || (s.reservedOn c).chans.contains e.1)
      ∨ k.gangs.any (fun e => e.2.marks.clash m.info.marks) then none
  let bases ← s.landRegions c k m.regions []
  let slots ← k.landSlots m
  let conts ← assign (m.conts.map fun e => e.1) (unlisted k.conts Config.numConts)
  let frecs ← assign (m.frecs.map fun e => e.1) (unlisted k.frecs Config.numFrecs)
  let cmds ← assign (m.xus.map fun e => e.1) (unlisted k.xus Config.numXu)
  let moved := if c = m.core then [] else list.filterMap fun l => match l with
    | .sliced _ p => some p
    | _ => none
  return ⟨c, m.core, bases, slots, conts, frecs, cmds, k.nextReq, k.nextTok, k.scfgs.foldl (fun n e => max n (e.1 + 1)) 0, moved⟩

/-- R431: a byte of a page that moves, where it moves to; any other byte as it is. -/
def Landing.key (d : Landing) (a : Nat) : Nat :=
  if d.core != d.old && d.pages.any fun p => slicePage d.old p / 2 ^ 16 == a / 2 ^ 16 then a + slicePage d.core 0 - slicePage d.old 0 else a

/-- What a command keeps of bytes that it has read or overwritten, at their places after the move (R331, R334). -/
def XuCmd.moved (x : XuCmd) (d : Landing) : XuCmd :=
  let cell (u : Host.Cell) : Host.Cell := (d.key u.1, u.2)
  { x with undo := x.undo.map cell, once := x.once.map cell }

/-- A unit's port on the new core. -/
def Landing.port (d : Landing) : Port → Port
  | .slot _ n serial => .slot d.core (d.slotOf n) serial
  | .unit _ h kind key => .unit d.core h kind key
  | .command _ ix => .command d.core (Tab.get ix d.cmds ix)
  | .token _ id => .token d.core (id + d.toks)
  | .load _ ix => .load d.core (ix + d.loads)
  | .image _ dom page => .image d.core dom page

/-- A logged request under its new numbers. -/
def Req.landed (r : Req) (d : Landing) : Req :=
  { r with id := r.id + d.reqs, slot := if r.slot < 16 then d.slotOf r.slot else r.slot, unit := r.unit.map d.port }

/-- R423, R429: a logged request on its new core: read again, with a translation taken afresh, or its reply as logged, which is delivered at
once. -/
def State.replay (s : State) (c : Nat) (r : Req) : State :=
  let s := s.onCore c fun k => { k with reqs := k.reqs ++ [r] }
  match r.phase with
  | .unsent => s.reissue c r
  | .back _ => s.delivered c r.id
  | _ => s

/-- The requests of an instruction in progress, under their new numbers. -/
def Prog.shift (off : Nat) : Prog → Prog
  | .awaiting id => .awaiting (id + off)
  | .push step id i data => .push step (id.map fun n => n + off) i data
  | p => p

/-- An AG's binding under its task's new slot. -/
def AgState.landed (a : AgState) (d : Landing) : AgState := { a with sb := a.sb.map fun b => { b with slot := d.slotOf b.slot } }

/-- A region on its new base, with the new numbers of tokens and slots. -/
def Region.landed (g : Region) (base : Nat) (d : Landing) : Region :=
  let item (i : PinItem) : PinItem := match i with
    | .pending id => .pending (id + d.toks)
    | i => i
  { g with
    base := base
    binds := g.binds.map fun (e : Nat × Bind) => (e.1, { e.2 with slot := d.slotOf e.2.slot })
    fab := { g.fab with
      owed := g.fab.owed.map fun (e : Nat × List PinItem) => (e.1, e.2.map item)
      ags := g.fab.ags.map fun (e : Nat × AgState) => (e.1, e.2.landed d) } }

/-- R429: a fault record on its new core: its subject and EINFO3 name the new places. -/
def Frec.landed (r : Frec) (d : Landing) : Frec :=
  let info := setFld r.info3 15 9 d.core
  let info := match r.subject with
    | .region _ => info
    | _ => setFld info 0 4 (d.slotOf (rfld r.info3 0 4))
  match r.subject with
  | .slot n => { r with subject := .slot (d.slotOf n), info3 := info }
  | .command n => { r with subject := .command (Tab.get n d.cmds n), info3 := setFld info 4 5 (Tab.get n d.cmds n) }
  | .token id => { r with subject := .token (id + d.toks), info3 := info }
  | _ => { r with info3 := info }

/-- A continuation's message under its new record number. -/
def Msg.landed (m : Msg) (d : Landing) : Msg := { m with cont := m.cont.map fun n => Tab.get n d.conts n }

/-- R329: a command on its new core. -/
def XuCmd.landed (x : XuCmd) (d : Landing) : XuCmd := { x.moved d with mark := x.mark + d.reqs, slot := d.slotOf x.slot }

/-- A token on its new core. -/
def MxToken.landed (t : MxToken) (d : Landing) : MxToken :=
  { t with id := t.id + d.toks, source := match t.source with
      | .cp n epc => .cp (d.slotOf n) epc
      | x => x }

/-- R176, R429, R430: a member stands on its core again, but for its log, its records' messages and those it had posted outside the gang; the units
that it needs are powered. -/
def Core.attach (k : Core) (id : GangId) (m : MemberSave) (d : Landing) (rail : Nat → BitVec 3) : Core :=
  let top := m.xus.foldl (fun n e => max n e.2.mark) (m.reqs.foldl (fun n r => max n r.id) 0)
  let k := m.slots.foldl (fun (k : Core) (e : Nat × Slot) => k.setSlot (d.slotOf e.1) { e.2 with prog := e.2.prog.shift d.reqs }) k
  let k := m.chans.foldl (fun (k : Core) (e : Nat × Chan) => k.setChan e.1
    { e.2 with fifo := e.2.fifo.map fun x => x.landed d, held := e.2.held.map fun x => x.landed d }) k
  let k := m.regions.foldl (fun (k : Core) (e : Nat × Region) =>
    let g := e.2.landed (Tab.get 0 d.bases e.1) d
    ({ k with regions := k.regions.set e.1 g }).wakePatches (runOf g.base g.len) (rail g.cls)) k
  let k := k.powered fun u => (u == .matrix && !m.tokens.isEmpty) || (u == .cp && !m.slots.isEmpty)
  { k with
    conts := m.conts.foldl (fun (t : Tab Cont) (e : Nat × Cont) => t.set (Tab.get e.1 d.conts e.1) e.2) k.conts
    records := m.records.foldl (fun (t : Tab (BitVec 256)) e => t.set e.1 e.2) k.records
    badRecords := m.badRecords.foldl (fun (t : Tab Trap) e => t.set e.1 e.2) k.badRecords
    sbs := m.sbs.foldl (fun (t : Tab (BitVec 24)) e => t.set e.1 e.2) k.sbs
    clasps := m.clasps.foldl (fun (t : Tab Clasp) e => t.set e.1 e.2) k.clasps
    gangs := k.gangs ++ [(id, m.info)]
    tiles := m.tiles.foldl (fun (t : Tab Tile) (e : Nat × Tile) =>
      t.set e.1 { e.2 with users := id :: ((k.tile e.1).users.filter fun u => u != id) }) k.tiles
    mxq := k.mxq ++ m.tokens.map fun t => t.landed d
    nextTok := d.toks + m.tokens.foldl (fun n t => max n (t.id + 1)) 0
    xus := m.xus.foldl (fun (t : Tab XuCmd) (e : Nat × XuCmd) => t.set (Tab.get e.1 d.cmds e.1) (e.2.landed d)) k.xus
    scfgs := m.scfgs.foldl (fun (t : Tab Scfg) (e : Nat × Scfg) => t.set (d.loads + e.1) { e.2 with slot := d.slotOf e.2.slot }) k.scfgs
    nextReq := d.reqs + top + 1 }

/-- R431 step 1 to 3: a saved slice page goes from its place in the member slot at a VA to its core; its PTE names that core, and no buffer
holds the old translation. What resident commands keep of the page's bytes moves with it. -/
def State.landPage (s : State) (i : Issuer) (va : Nat) (d : Landing) (e : Listed × Nat) : State :=
  match e.1.page?, s.areaKey i (savedPageVa va e.2) with
  | some p, .ok key =>
    let s := s.copyBlock key (slicePage d.core p) (2 ^ 16)
    match e.1 with
    | .sliced pte _ =>
      let old := BitVec.ofNat 128 (s.load pte 16)
      let s := if d.core = d.old then s else s.storeBytes pte (leBytes 16 (setFld old 24 9 d.core).toNat)
      let stale (p : BitVec 128) : Bool := ptePpn p == ptePpn old && pteDom p == pteDom old
      { s with tlb := s.tlb.filter fun t => !stale t.pte
               cores := s.cores.map fun (x : Nat × Core) => (x.1, { x.2 with
                 tlb := x.2.tlb.filter fun t => !stale t.2
                 xus := x.2.xus.map fun y => (y.1, y.2.moved { d with pages := [p] }) }) }
    | _ => s
  | _, _ => s

/-- R431: the barrier words of a BARRIER page that name the saved core name the new one. -/
def State.moveWords (s : State) (key bytes old new : Nat) : State :=
  (List.range (bytes / 16)).foldl (fun (s : State) n =>
    let a := key + 16 * n
    let w := s.barWord a
    if barCore w = old then s.setBarWord a (setFld w 11 9 new) else s) s

/-- R431: the pages of a member. A page that a gang on the target core has marked keeps its contents after a save of the cloak's own. -/
def State.landPages (s : State) (i : Issuer) (why va : Nat) (d : Landing) (list : List Listed) : State :=
  let newer (p : Nat) : Bool := why != 0 && (s.core d.core).gangs.any fun e => e.2.marks.pages.getLsbD p
  (list.zipIdx).foldl (fun (s : State) e => match e.1 with
    | .barrier key bytes => if d.core = d.old then s else s.moveWords key bytes d.old d.core
    | l => if l.page?.any newer then s else s.landPage i va d e) s

/-- Whether a write still to be sent falls into a physical page. -/
def Put.inPage (p : Put) (page : Nat) : Bool := p.op.halves.any fun h => h / 2 ^ 17 == page

/-- R412, R431: whether a core has an access to a physical page that is still to be performed, or a unit that has translated one: a command, an
AG or a matrix token. -/
def Core.usesPage (k : Core) (page : Nat) : Bool :=
  k.reqs.any (fun r => !r.lost && r.unperformed && r.phase != .unsent && r.tgt.size != 0 && r.tgt.home.pos / 2 ^ 16 == page)
    || k.xus.any (fun x => x.2.out.any (fun p => p.inPage page) || x.2.pages.any (fun g => g.key / 2 ^ 16 == page)
      || x.2.bar.any fun b => b.2 / 2 ^ 16 == page)
    || k.mxq.any (fun t => t.out.any fun p => p.inPage page)
    || k.regions.any fun g => g.2.fab.ags.any fun a => a.2.out.any fun p => p.inPage page

/-- R378, R412, R431: whether a RESTORE waits: an access through a page that it moves is still to be performed, or a completion is in progress in a
word of a BARRIER page that it rewrites. -/
def State.pageBusy (s : State) (m : MemberSave) (list : List Listed) : Bool :=
  list.any fun l => match l with
    | .sliced _ p => s.cores.any fun e => e.2.usesPage (slicePage m.core p / 2 ^ 16)
    | .barrier key bytes => s.completing.any fun x => decide (key ≤ x.key ∧ x.key < key + bytes)
    | _ => false

/-- What a RESTORE comes to. -/
inductive Restored where
  | trapped (t : Trap)
  | status (n : Nat)
  | waits
  | resumed (s : State)
deriving DecidableEq, Repr

/-- R55, R58: a message that a continuation record had posted outside the gang is posted on that channel of the new core, or dropped and reported
when the channel is unbound there. -/
def State.repost (s : State) (c n : Nat) (m : Msg) (gang : GangId) : State :=
  let k := s.core c
  if (k.chan n).valid then s.setCore c (k.post n m)
  else (s.setCore c { k with conts := k.conts.filter fun e => !m.ofCont [e.1] }).report c
    { cause := .chan, detail := 2, info1 := BitVec.ofNat 64 (c * 2 ^ 6 + n) } (some gang) 0

/-- R429: the log of a member is replayed, its fault records are posted again, and what it had posted outside the gang. -/
def State.resumeMember (s : State) (id : GangId) (m : MemberSave) (d : Landing) : State :=
  let s := m.reqs.foldl (fun (s : State) r => s.replay d.core (r.landed d)) s
  let s := m.frecs.foldl (fun (s : State) (e : Nat × Frec) => s.raise d.core (Tab.get e.1 d.frecs e.1) (e.2.landed d)) s
  m.posts.foldl (fun (s : State) e => s.repost d.core e.1 (e.2.landed d) id) s

/-- R429: a saved gang stands on its cores again and runs. -/
def State.reinstate (s : State) (i : Issuer) (v : Saved) (plan : List (MemberSave × Landing × List Listed)) : State :=
  let id := v.gang.id
  let s := (plan.zipIdx).foldl (fun (s : State) e => s.landPages i v.why (v.va + memberOff e.2) e.1.2.1 e.1.2.2) s
  let s := plan.foldl (fun (s : State) e =>
    s.onCore e.2.1.core fun k => k.attach id e.1 e.2.1 fun cls => s.railOf e.2.1.core cls e.1.info.level) s
  let s := { s with
    gangs := s.gangs ++ [{ v.gang with members := plan.map fun e => e.2.1.core, placedAt := s.stitch }]
    saves := s.saves.filter fun x => x.gang.id != id }
  plan.foldl (fun (s : State) e => s.resumeMember id e.1 e.2.1) s

/-- R428: the tcore of a member slot, and whether it names a core: 0x1FF stands for the saved one. -/
def State.tcore (s : State) (i : Issuer) (va : Nat) : Nat := bits ((s.areaLoad i va 16).getD 0) 79 71
def State.namesTarget (s : State) (i : Issuer) (va : Nat) : Bool := s.tcore i va != 0x1FF

/-- R428: the target core of a member slot: tcore, or the saved core. -/
def State.targetCore (s : State) (i : Issuer) (va : Nat) (m : MemberSave) : Nat := if s.namesTarget i va then s.tcore i va else m.core

/-- R426: whether the cloak's own bytes of member slot `m` at a VA are as it wrote them. -/
def State.slotIntact (s : State) (i : Issuer) (va m seed : Nat) : Bool :=
  privateParts.all fun e => match s.areaKey i (va + e.1) with
    | .ok key => readBlock s.mem key e.2 == privateBytes seed m e
    | .error _ => false

/-- R426, R428: whether a member slot agrees with what was saved, and its page list. -/
def State.memberList (s : State) (i : Issuer) (v : Saved) (m : MemberSave) (rank : Nat) : Option (List Listed) :=
  let va := v.va + memberOff rank
  match s.areaLoad i va 16, s.pageList i va m.core v.gang.dom with
  | some h, some list =>
    if bits h 70 62 = m.core ∧ savedPages list = m.pages ∧ s.slotIntact i va rank v.seed
        ∧ (m.pages.all fun p => (s.areaKey i (savedPageVa va (p / 256))).toOption.isSome) then some list else none
  | _, _ => none

/-- R428, RESTORE of the area at a VA, by an issuer of a domain. -/
def State.restoreArea (s : State) (i : Issuer) (va : Nat) : Restored :=
  match s.areaKey i va with
  | .error t => .trapped t
  | .ok key =>
    let h := s.load key 64
    let id : GangId := ⟨bits h 255 192, bits h 191 168⟩
    if h % 2 = 0 ∨ bits h 143 140 ≠ i.dom then .status 1
    else if !s.launches.any fun l => l.id == id.launch then .status 3
    else match s.saves.find? fun v => v.key == key && v.gang.id == id && v.gang.dom == i.dom with
      | none => .status 4
      | some v =>
        let v := { v with va := va }
        match (v.members.zipIdx).mapM fun e => (s.memberList i v e.1 e.2).map fun l => (e.1, s.targetCore i (va + memberOff e.2) e.1, l) with
        | none => .status 4
        | some ms =>
          let targets := ms.map fun e => e.2.1
          if !targets.Nodup ∨ targets.any (fun c => Config.numCores ≤ c) then .status 4
          else if v.why ≠ 0 ∧ (v.members.zipIdx).any (fun e => s.namesTarget i (va + memberOff e.2)) then .status 2
          else match ms.mapM fun e => (s.land v.gang.dom e.1 e.2.1 e.2.2).map fun d => (e.1, d, e.2.2) with
            | none => .status 2
            | some plan =>
              if plan.any fun e => s.pageBusy e.1 e.2.2 then .waits
              else .resumed ((s.storeBytes key [BitVec.ofNat 8 (h % 256 - 1)]).reinstate i v plan)

/-- R428, RESTORE. -/
def execRestore (o : OpsDA) (s : State) : Out :=
  guarded o.g s <| withReg o.a o.fea s fun a =>
    if !s.curSlot.priv then trap { cause := .priv, info1 := wordOfInstr (.restore o) } s
    else unspeculated s <| withDest o.d s <|
      if a.toNat % 2 ^ 16 ≠ 0 then trap { cause := .align, info1 := a } s
      else match s.restoreArea s.cloakIssuer a.toNat with
        | .trapped t => trap t s
        | .status n => statusTo o.d n s
        | .waits => stall s
        | .resumed t => statusTo o.d 0 t

/-! ### Pre-emption (R421) -/

/-- R421: a domain's settings. -/
def State.slices (s : State) (dom : Nat) : Slicing := s.slicing.get ⟨false, 0, []⟩ dom

/-- R421, R432: the next free area of a domain's pool for a gang of a width: one that is not valid, and that no save is using. -/
def State.freeArea (s : State) (dom width : Nat) : Option (Nat × Nat) :=
  let i := s.hemIssuer 0 dom
  (s.slices dom).pool.findSome? fun va =>
    match s.areaCheck i va width, s.areaKey i va with
    | .ok _, .ok key =>
      if va % 2 ^ 16 = 0 ∧ s.load key 1 % 2 = 0 ∧ !s.gangs.any fun g => g.job.any fun j => j.key == key then some (va, key) else none
    | _, _ => none

/-- R421: a gang is halted for a save into its domain's pool. A request for one that is being saved, or that finds no free area, is
refused. -/
def State.preempt (s : State) (g : Gang) (why : Nat) : State :=
  match if g.job.isSome then none else s.freeArea g.dom g.members.length with
  | none => s
  | some e => s.haltFor g ⟨why, e.1, e.2, 0, 0⟩

/-- R421, MGMT_PREEMPT. -/
def execMgmtPreempt (o : GangAt) (s : State) : Out :=
  match s.gangs.find? fun g => g.id == ⟨o.launch, o.inst⟩ with
  | none => .next s
  | some g => .next (s.preempt g 2)

/-- Whether an instance could not be placed. -/
def Try.isFailed : Try → Bool
  | .failed _ => true
  | _ => false

/-- R421: whether the scheduler may pre-empt a gang for a launch of base priority `prio`. -/
def State.preemptible (s : State) (prio : Nat) (g : Gang) : Bool :=
  g.prio < prio && g.job.isNone && decide ((s.slices g.dom).slice < (s.stitch - g.placedAt).toNat)
    && g.members.all fun c => (s.core c).gangs.all fun e => e.1 == g.id

/-- R421, SCHEDULER_PREEMPT: a queue of a domain where it is enabled is eligible and cannot place its head. Which of several gangs goes is
open. -/
def execSchedulerPreempt (o : QueueAt) (s : State) : Out :=
  match if s.eligibleQueue o.q && s.decision.isNone then s.headLaunch o.q else none with
  | none => .next s
  | some l =>
    if !(s.slices l.dom).enabled || !(s.tryPlace l (Decision.fresh [] [])).isFailed then .next s
    else
      let prio := min (s.queue o.q).prio.toNat (lrPrio l.record)
      let all := s.gangs.filter fun g => g.dom == l.dom && s.preemptible prio g
      match all[Config.freeNat s.fresh % all.length]? with
      | none => .next s
      | some g => .next { s.preempt g 1 with fresh := s.fresh + 1 }

/-- R421, SCHEDULER_RESTORE: a gang that the scheduler saved goes back to its cores when they are free. -/
def execSchedulerRestore (o : GangAt) (s : State) : Out :=
  match s.saves.find? fun v => v.gang.id == ⟨o.launch, o.inst⟩ && v.why == 1 with
  | none => .next s
  | some v =>
    if !v.members.all fun m => (s.core m.core).gangs.isEmpty then .next s
    else match s.restoreArea (s.hemIssuer 0 v.gang.dom) v.va with
      | .resumed t => .next t
      | _ => .next s

/-! ### Emergency save (R432) -/

/-- R366, R424: a request that the seal would wait for is performed and answered, so that it is in the log and never issued again; one that its
home cannot perform is answered as timed out (R423). -/
def State.finishReq (s : State) (c id : Nat) : State :=
  match (s.core c).req? id with
  | none => s
  | some r =>
    if !r.unperformed then s
    else
      let e := if (s.refused c r).isSome then none else s.effect r
      let x := e.getD (s, Reply.fail r.memtoTrap)
      x.1.onCore c fun k => k.onReq id fun r => { r with phase := .back x.2 }

/-- R424, R432: the log of a gang is completed at once, in issue order, as the module's other acknowledgements stay withheld (log 36). -/
def State.finishLog (s : State) (g : Gang) : State :=
  g.members.foldl (fun (s : State) c =>
    ((s.core c).reqs.filter fun r => !(s.core c).logged g.id r).foldl (fun (s : State) r => s.finishReq c r.id) s) s

/-- Writes that a unit has put together, performed at once. -/
def State.writeOut (s : State) (ps : List Put) : State :=
  ps.foldl (fun (s : State) p => match p.op with
    | .put parts _ _ => parts.foldl State.putPart s
    | _ => s) s

/-- R424, R432: what the AGs and matrix tokens of a gang have put together on a core is written, and the sectors of its commands that are performed
are taken (log 36). -/
def State.finishOuts (s : State) (c : Nat) (g : GangId) : State :=
  let k := s.core c
  let s := (k.regions.filter fun e => e.2.gang == g).foldl (fun (s : State) e => e.2.fab.ags.foldl (fun (s : State) a =>
    (s.writeOut a.2.out).onAg c e.1 a.1 fun st => { st with out := [] }) s) s
  let s := (k.mxq.filter fun t => t.gang == some g).foldl (fun (s : State) t =>
    (s.writeOut t.out).onCore c fun k => k.onTok t.id fun t => { t with out := [] }) s
  (k.xus.filter fun e => e.2.gang == some g && e.2.phase != .faulted).foldl (fun (s : State) e => (s.xuCollect c e.1 e.2).1) s

/-- R432: a halted gang is saved, and that is reported. -/
def State.rescueTo (s : State) (g : Gang) (job : SaveJob) : State :=
  let s := g.members.foldl (fun (s : State) c => s.finishOuts c g.id) (s.finishLog g)
  { s.sealGang g job with reports := s.reports ++ [.saved g.id] }

/-- R432: a gang is saved to its domain's pool, or its launch is ended as by LKILL; a save that was under way goes on to its own area. -/
def State.rescue (s : State) (id : GangId) : State :=
  match s.gangs.find? fun g => g.id == id with
  | none => { s with reports := s.reports ++ [.lost id] }
  | some g => match g.job with
    | some job => s.rescueTo g job
    | none => match s.freeArea g.dom g.members.length with
      | some e =>
        let job : SaveJob := ⟨3, e.1, e.2, 0, 0⟩
        (s.haltFor g job).rescueTo g job
      | none =>
        let q := launchQueue id.launch
        let placing := s.launches.any fun l => l.id == id.launch && !l.placed
        let t := s.killLaunch id.launch
        let t := if placing then t.advanceHead q else t
        { t with reports := t.reports ++ [.lost id] }

/-- R432: every resident gang is saved or its launch ended. -/
def State.rescueAll (s : State) : State := (s.gangs.map fun g => g.id).foldl State.rescue s

/-- R432, R445, EMERGENCY_SAVE: after 20 ms of HOLD every resident gang is saved or its launch ended. -/
def execEmergencySave (s : State) : Out :=
  match s.power with
  | .hold ticks false => if ticks < 2000000 then .next s else .next { s.rescueAll with power := .hold ticks true }
  | _ => .next s

end Sys2Proof.Machine
end

