-- ==== Sys2Proof/Machine/Mesh.lean ====
section
/-! DEFINITION. The mesh: routing (R341), rounds of an output port (R343, R344, R353), arrival, the periodic drain (R347), sequence
numbers towards other nodes (R419). Ports 0 to 4 are north, south, east, west and local. -/

namespace Sys2Proof.Machine

/-! ### Routing (R341) -/

/-- The number of an output port. -/
def portNo : RPort → Nat
  | .north => 0 | .south => 1 | .east => 2 | .west => 3 | .here => 4

/-- The router beyond a link, and the input port that the link enters there. -/
def neighbour (c port : Nat) : Option (Nat × Nat) :=
  let x := coreX c
  let y := coreY c
  match port with
  | 0 => if 0 < y then some (c - 48, 1) else none
  | 1 => if y < 7 then some (c + 48, 0) else none
  | 2 => if x < 47 then some (c + 1, 3) else none
  | 3 => if 0 < x then some (c - 1, 2) else none
  | _ => none

/-- The request of a packet, while it is on the way that the packet makes. -/
def State.packetReq (s : State) (p : Packet) : Option Req :=
  ((s.core p.core).req? p.req).filter fun r => match r.phase with
    | .sent => !p.reply
    | .done _ => p.reply
    | _ => false

/-- R341: the output that a packet wants at router `c`: along X, then along Y, then off the mesh. -/
def State.outOf (s : State) (c : Nat) (p : Packet) : Nat :=
  let x := coreX c
  let y := coreY c
  if x < p.x then 2
  else if p.x < x then 3
  else if y < p.y then 1
  else if p.y < y then 0
  else if p.reply then 4
  else (s.packetReq p).elim 4 fun r => r.dest.port x

/-- R21: the seam that a link crosses, by number (log 24): 0 to 13 east to west, 14 to 21 north to south, 22 to 25 to the hem dies. -/
def seamOf (c port : Nat) : Option Nat :=
  let x := coreX c
  let y := coreY c
  let row := y / 4
  match port with
  | 0 => if y = 4 then some (14 + x / 6) else none
  | 1 => if y = 3 then some (14 + x / 6) else none
  | 2 => if x = 47 then some (24 + row) else if x % 6 = 5 then some (7 * row + x / 6) else none
  | 3 => if x = 0 then some (22 + row) else if x % 6 = 0 then some (7 * row + x / 6 - 1) else none
  | _ => none

/-! ### Other nodes (R419) -/

/-- R419: an operation that is not idempotent. -/
def Req.once (r : Req) : Bool :=
  match r.op with
  | .load _ _ => false
  | .recld _ => false
  | .brd _ _ => false
  | .store _ => false
  | .payload => false
  | .fetch => false
  | .put _ _ _ => false
  | _ => true

/-- R419: how many such operations to a node are unanswered. -/
def State.onceOut (s : State) (n : Nat) : Nat :=
  s.cores.foldl (fun m e => m + (e.2.reqs.filter fun r => r.dest == .node n && r.once && r.remote.isSome && match r.phase with
    | .back _ => false
    | _ => true).length) 0

/-- R419, R420: whether a request may leave for another node now. -/
def State.mayLeave (s : State) (c : Nat) (r : Req) : Bool :=
  match r.dest with
  | .node n => s.reachable c (.node n) && (!r.once || s.onceOut n < Config.remoteWindow)
  | _ => true

/-- R419: the number that a request takes as it leaves for another node. -/
def State.number (s : State) (c id : Nat) (r : Req) : State :=
  match r.dest with
  | .node n =>
    let key := 2 * n + if r.bulk then 1 else 0
    let v := s.remoteSeq.get 0 key
    { s.onCore c fun k => k.onReq id fun q => { q with remote := some v, resend := 0 } with remoteSeq := s.remoteSeq.set key (v + 1) }
  | _ => s

/-! ### A round (R343, R344, R353) -/

/-- R343: the order of VCs, and their weights. -/
def vcOrder : List Nat := [2, 0, 3, 1]
def vcWeights : Tab Nat := [(0, 4), (1, 1), (2, 4), (3, 2)]

/-- A list from the entry after `x` on, around. -/
def after (x : Nat) (xs : List Nat) : List Nat :=
  xs.drop ((xs.findIdx fun y => y == x) + 1) ++ xs.take ((xs.findIdx fun y => y == x) + 1)

/-- The packet whose turn it is in an input queue: ones whose request is gone are dropped. -/
def State.headAt (s : State) (c key : Nat) : Option Packet :=
  ((s.core c).router.queues.get [] key).find? fun p => (s.packetReq p).isSome

/-- R341: whether the seam that an output crosses retrains: it holds its traffic. -/
def State.seamShut (s : State) (c out : Nat) : Bool := (seamOf c out).any s.retraining.contains

/-- R341: whether an input queue is one by which a hem die's traffic enters, over a seam that retrains: it holds its traffic. -/
def State.entryShut (s : State) (c key : Nat) : Bool := (neighbour c (key / 4)).isNone && s.seamShut c (key / 4)

/-- R347: whether the periodic drain of this stitch is still to be made: the routers have suspended arbitration. -/
def State.drainDue (s : State) : Bool := decide (s.stitch.toNat % 256 = 0 ∧ s.drains ≠ s.stitch.toNat)

/-- R343: whether a queue's head is a candidate for an output: it wants it, and has room and open seams behind it and beyond. -/
def State.candidate (s : State) (c out key : Nat) : Bool :=
  match s.headAt c key with
  | none => false
  | some p =>
    s.outOf c p == out && !s.seamShut c out && !s.entryShut c key &&
      match if p.x = coreX c ∧ p.y = coreY c then none else neighbour c out with
      | some (d, port) =>
        decide ((((s.core d).router.queues.get [] (4 * port + key % 4)).filter fun x => (s.packetReq x).isSome).length ≤ Config.routerRoom)
      | none => (s.packetReq p).all fun r => p.reply || s.mayLeave p.core r

/-- R343 steps 1 to 3: the queue that wins, and the output's credits as they then are. -/
def chooseQueueAt (o : OutPort) (cands : List Nat) (promoted : Nat → Bool) : Option (Nat × Tab Nat) :=
  let inputs := List.range 5
  let last := o.lastIn.get 4 o.lastVc
  let top := (after last inputs).findSome? fun i => vcOrder.findSome? fun v =>
    if cands.contains (4 * i + v) && promoted (4 * i + v) then some (4 * i + v) else none
  match top with
  | some key => some (key, o.credits)
  | none =>
    let has (v : Nat) : Bool := cands.any fun key => key % 4 == v
    let credits := if vcOrder.any fun v => has v && 0 < o.credits.get 0 v then o.credits else vcWeights
    match (after o.lastVc vcOrder).find? fun v => has v && 0 < credits.get 0 v with
    | none => none
    | some v => ((after (o.lastIn.get 4 v) inputs).find? fun i => cands.contains (4 * i + v)).map fun i => (4 * i + v, credits)

/-- A router with every candidate but the winner a round older (R344). -/
def Router.grow (r : Router) (keys : List Nat) (alive : Packet → Bool) : Router :=
  keys.foldl (fun (r : Router) key => { r with queues := r.queues.upd [] key fun q => match q.filter alive with
    | [] => []
    | p :: ps => { p with age := min 15 (p.age + 1) } :: ps }) r

/-- R349: an arrival at an HBM arbiter is numbered. -/
def State.arrive? (s : State) (c id : Nat) (r : Req) : State :=
  match r.dest with
  | .stack _ => { s.onCore c fun k => k.onReq id fun q => { q with arrived := some s.arrivals } with arrivals := s.arrivals + 1 }
  | _ => s

/-- R341, R344, R356: a packet's last flit leaves a queue of router `c`, whose next head begins at age 0: for the next router, or at its
home or requester. -/
def State.departs (s : State) (c out key : Nat) : State :=
  match s.headAt c key with
  | none => s
  | some p =>
    let rest := match (((s.core c).router.queues.get [] key).filter fun x => (s.packetReq x).isSome).tail with
      | [] => []
      | q :: qs => { q with age := 0 } :: qs
    let s := s.onCore c fun k => { k with router := { k.router with queues := k.router.queues.set key rest } }
    match if p.x = coreX c ∧ p.y = coreY c then none else neighbour c out with
    | some (d, port) => s.onCore d fun k => { k with router := k.router.inject port (key % 4) { p with age := 0 } }
    | none =>
      match s.packetReq p with
      | none => s
      | some r =>
        let t := if p.reply then s else (s.number p.core p.req r).arrive? p.core p.req r
        t.onCore p.core fun k => k.onReq p.req fun q => { q with phase := match q.phase with
          | .done x => .back x
          | _ => .home }

/-- What names a packet: its core, its request, whether it is the reply. -/
def Packet.name (p : Packet) : Nat × Nat × Bool := (p.core, p.req, p.reply)

/-- R343, R353: one round of an output port; none is made while its seam retrains (R341) or a drain is due (R347). A packet that has won
leaves as its last flit does, unless its request is gone by then. -/
def State.round (s : State) (c out : Nat) : State :=
  let k := s.core c
  let o := k.router.outs.get OutPort.reset out
  let alive (p : Packet) : Bool := (s.packetReq p).isSome
  let cands := (List.range 20).filter (s.candidate c out)
  let put (r : Router) (o : OutPort) : State := s.setCore c { k with router := { r with outs := r.outs.set out o } }
  if s.seamShut c out || s.drainDue then s
  else if 0 < o.busy then
    let key := 4 * o.lastIn.get 4 o.lastVc + o.lastVc
    let t := put (k.router.grow (cands.filter fun x => x != key) alive) { o with busy := o.busy - 1 }
    if o.busy = 1 ∧ (s.headAt c key).map Packet.name = o.sending then t.departs c out key else t
  else
    let age (key : Nat) : Nat := (s.headAt c key).elim 0 fun p => p.age
    match chooseQueueAt o cands fun key => age key == 15 with
    | none => s
    | some (key, credits) =>
      let v := key % 4
      let flits := (s.headAt c key).elim 1 fun p => p.flits
      let o := { o with credits := credits.set v (credits.get 0 v - 1), lastVc := v, lastIn := o.lastIn.set v (key / 4), busy := flits - 1,
                        sending := (s.headAt c key).map Packet.name }
      let t := put (k.router.grow (cands.filter fun x => x != key) alive) o
      if flits ≤ 1 then t.departs c out key else t

/-- R343, ROUTER_ROUND. -/
def execRouterRound (o : RouterAt) (s : State) : Out := .next (s.round o.core (portNo o.out))

/-! ### The periodic drain (R347) -/

/-- The links of a router. -/
def linksOf (c : Nat) : List Nat := (List.range 4).filter fun p => (neighbour c p).isSome

/-- A link by which a cycle that `f` names leaves a router for what came by an input port. -/
def linkBy (f : Nat → Nat → Nat) (c port : Nat) : Nat := (linksOf c).getD (f c port % (linksOf c).length) 4

/-- A place of the cycle: a router and the input port by which the link before it enters. -/
def cycleNext (f : Nat → Nat → Nat) (x : Nat × Nat) : Nat × Nat := (neighbour x.1 (linkBy f x.1 x.2)).getD (0, 0)

/-- The places that `n` links along from a place pass. -/
def cyclePlaces (f : Nat → Nat → Nat) : Nat → Nat × Nat → List (Nat × Nat)
  | 0, _ => []
  | n + 1, x => x :: cyclePlaces f n (cycleNext f x)

/-- The places that links enter: every router with each of its link ports. -/
def linkPlaces : List (Nat × Nat) := (List.range Config.numCores).flatMap fun c => (linksOf c).map fun p => (c, p)

/-- R347: whether `f` names one fixed cycle through every link of the mesh and its seams: it passes every place and comes back. -/
def isDrainCycle (f : Nat → Nat → Nat) : Bool :=
  let run := cyclePlaces f linkPlaces.length (0, 1)
  linkPlaces.all run.contains && cycleNext f (run.getLastD (0, 1)) == (0, 1)

/-- One such cycle, by the index of the link that leaves: along the first row and up and down the columns; the eastward links of the other
rows are each followed by their westward ones. -/
def combLink (c port : Nat) : Nat :=
  let y := coreY c
  let links := linksOf c
  if 0 < y && port == 3 then links.findIdx fun p => p == 3
  else
    let ring := if y = 0 then links else links.filter fun p => p != 3
    let next := ring.getD ((ring.findIdx (fun p => p == port) + 1) % ring.length) 0
    links.findIdx fun p => p == next

/-- R347: the cycle of the module: which one it is, is open (log 24). -/
def drainLinkOf (c port : Nat) : Nat := linkBy (if isDrainCycle Config.drainLink then Config.drainLink else combLink) c port

/-- R347, R443: where the drain takes the packets of an input queue: over the next link of the cycle, or nowhere where a seam that retrains
holds them. -/
def State.drainTo (s : State) (c key : Nat) : Nat × Nat :=
  let out := drainLinkOf c (key / 4)
  match if s.seamShut c out || s.entryShut c key then none else neighbour c out with
  | none => (c, key)
  | some (d, port) => (d, 4 * port + key % 4)

/-- R347: the packets of every input queue, each moved one link along the cycle, with its VC and age; a packet whose flits were leaving is
moved whole and is arbitrated anew. -/
def State.drainQueues (s : State) : State :=
  let moves := s.cores.flatMap fun e => e.2.router.queues.map fun q => (s.drainTo e.1 q.1, q.2)
  let s := s.cores.foldl (fun (s : State) e => s.onCore e.1 fun k =>
    { k with router := ⟨[], k.router.outs.map fun (o : Nat × OutPort) => (o.1, { o.2 with busy := 0, sending := none })⟩ }) s
  moves.foldl (fun (s : State) m => s.onCore m.1.1 fun k =>
    { k with router := { k.router with queues := k.router.queues.upd [] m.1.2 fun q => q ++ m.2 } }) s

/-- R347: the drain of this stitch, if it is due. -/
def State.drained (s : State) : State := if s.drainDue then { s.drainQueues with drains := s.stitch.toNat } else s

/-- R347, PERIODIC_DRAIN: once at every stitch whose value is a multiple of 256; until it is made, no round is. -/
def execPeriodicDrain (s : State) : Out := .next s.drained

end Sys2Proof.Machine
end

