-- ==== Sys2Proof/Machine/Clock.lean ====
section
/-! DEFINITION. The stitch generator and what counts its ticks (R5, R49, R57, R414, R415, R419, R444), what happens at a stitch boundary
(R174 to R177, R349, R352, R440), the watchdog (R414). -/

namespace Sys2Proof.Machine

/-! ### Throttling (R173 to R175, R440) -/

/-- R441: a die's thermal level. -/
def State.thermalLevel (s : State) (die : Nat) : Nat := (s.thermal.get ⟨0, none⟩ die).level

/-- R440: the throttle level that applies to a gang. -/
def State.throttleOf (s : State) (g : Gang) : Nat :=
  min 7 (g.members.foldl (fun m c => max m (s.thermalLevel (dieOf c))) (max s.powerLevel g.floor))

/-- R175, R440, THROTTLE_CHANGE: the management plane may set the gang's floor; a gang whose level is no longer R440's is to change at a
named stitch, which one is open. -/
def execThrottleChange (o : ThrottleAt) (s : State) : Out :=
  let id : GangId := ⟨o.launch, o.inst⟩
  match s.gangs.find? fun g => g.id == id with
  | none => .next s
  | some g =>
    let g := { g with floor := min 7 (o.floor.getD g.floor) }
    let want := s.throttleOf g
    let now_ := (g.members.head?).elim 0 fun c => ((s.core c).gangInfo? id).elim 0 fun i => i.level
    let when_ : Word := s.stitch + 1 + BitVec.ofNat 64 (Config.freeNat s.fresh % 2 ^ 16)
    let g := if want = now_ then { g with change := none } else { g with change := some (when_, want) }
    .next { s with gangs := s.gangs.map fun x => if x.id = id then g else x, fresh := s.fresh + 1 }

/-- R175: the levels whose stitch has come are in force on every member. -/
def State.applyLevels (s : State) : State :=
  let due := s.gangs.filterMap fun g => match g.change with
    | some (t, level) => if t.toNat ≤ s.stitch.toNat then some (g, level) else none
    | none => none
  let s := due.foldl (fun (s : State) e => e.1.members.foldl (fun (s : State) c =>
    s.onCore c fun k => k.onGang e.1.id fun i => { i with level := e.2 }) s) s
  { s with gangs := s.gangs.map fun g => if due.any fun e => e.1.id == g.id then { g with change := none } else g }

/-- R173, R174, R441: the rails of core `c` from this stitch on. A die at T2 runs its CPs and matrix engines on class 7's rail. -/
def State.railsAt (s : State) (c : Nat) (k : Core) : Core :=
  let hot := s.railOf c 7 0
  let t2 := s.thermalLevel (dieOf c) == 7
  let patches := k.regions.foldl (fun (t : Tab (BitVec 3)) (e : Nat × Region) =>
    let level := (k.gangInfo? e.2.gang).elim 0 fun i => i.level
    (runOf e.2.base e.2.len).foldl (fun (t : Tab (BitVec 3)) p => t.set p (s.railOf c e.2.cls level)) t) k.patchRails
  { k with mxRail := if t2 then hot else k.mxr, cpRail := if t2 then hot else k.cpr, patchRails := patches }

/-! ### Idle units (R176, R177) -/

/-- R176: whether a unit of a core stands idle: a patch that is free and not reserved, a CP with no task, an engine with no token. -/
def State.isIdle (s : State) (c : Nat) : GateUnit → Bool
  | .patch p => !((s.core c).patchesHeld ++ (s.reservedOn c).patches).contains p
  | .cp => (s.core c).slots.all fun e => e.2.status == .free
  | .matrix => (s.core c).mxq.isEmpty
  | .slice => false

/-- R176: the boundaries that a unit idle for 64 whole stitches has seen. -/
def idleLimit : Nat := 65

/-- R176: a boundary more, or none, at which each unit was idle. -/
def State.countIdle (s : State) (c : Nat) (k : Core) : Core :=
  { k with idle := idleUnits.foldl (fun (t : Tab Nat) u =>
      if s.isIdle c u then t.set (gateKey u) (min idleLimit (t.get 0 (gateKey u) + 1)) else t.erase (gateKey u)) k.idle }

/-- Whether a key lies in a core's slice. -/
def inSlice (c key : Nat) : Bool := destOf (.mem key) == .slice c

/-- Whether a write still to be sent goes to a core's slice. -/
def Put.into (p : Put) (c : Nat) : Bool := p.op.halves.any fun h => inSlice c (h / 2)

/-- R177: whether an access to a core's slice is in flight, or a unit holds a translation into it or a write for it. What translates again before it
is sent is stopped by the gate (a queued store, a command that goes on, a scale group, a write sent again). -/
def State.sliceBusy (s : State) (c : Nat) : Bool :=
  s.cores.any fun e =>
    e.2.reqs.any (fun r => r.unperformed && r.phase != .unsent && r.tgt.size != 0 && destOf r.tgt.home == .slice c)
      || e.2.xus.any (fun x => x.2.out.any (fun p => p.into c) || x.2.pages.any (fun g => inSlice c g.key) || x.2.bar.any fun b => inSlice c b.2)
      || e.2.mxq.any (fun t => t.out.any fun p => p.into c)
      || e.2.regions.any fun g => g.2.fab.ags.any fun a => a.2.out.any fun p => p.into c

/-- R176, R177, POWER_GATE: a unit idle for 64 stitches powers off; a slice does when it may, and its lines then read 0. -/
def execPowerGate (o : GateAt) (s : State) : Out :=
  let k := s.core o.core
  if k.gated.contains o.unit then .next s
  else match o.unit with
    | .slice =>
      if k.sgate && k.regions.isEmpty && !s.sliceBusy o.core then
        let base := slicePage o.core 0
        let mine (a : Nat) : Bool := decide (base ≤ a ∧ a < base + 2 ^ 24)
        .next { s.setCore o.core { k with gated := k.gated ++ [.slice] } with
          mem := s.mem.filter fun e => !mine e.1
          poisoned := s.poisoned.filter fun w => !mine (8 * w) }
      else .next s
    | u =>
      if s.isIdle o.core u && idleLimit ≤ k.idle.get 0 (gateKey u) then .next (s.setCore o.core { k with gated := k.gated ++ [u] }) else .next s

/-! ### Permits and budgets (R349, R352) -/

/-- R352, PERMIT_REFILL: once a stitch, before anything of the stitch takes a permit (log 6). -/
def execPermitRefill (o : CoreAt) (s : State) : Out := .next (s.onCore o.core fun k => k.refill s.stitch)

/-- R348, R349, BUDGET_RELOAD: once a stitch, before an arbiter serves the core in it (log 6). -/
def execBudgetReload (o : CoreAt) (s : State) : Out := .next (s.onCore o.core fun k => k.reload s.stitch)

/-! ### Counters in reference ticks -/

/-- R414: whether a region has something outstanding: an access sent or waiting for a permit, budget or seam or at a collar, a table walk, a
matrix token on its way to the engine or in it, or the banks that its step awaits. -/
def State.awaiting (s : State) (c h : Nat) (g : Region) : Bool :=
  let k := s.core c
  let t := s.unmetered c
  !s.performed c h g || k.reqs.any (fun r => r.live && r.unit.any (Port.inRegion h) && r.reply?.isNone)
    || s.walks.any (fun w => w.ports.any fun p => p.core == c && p.inRegion h) || !g.fab.offered.isEmpty || k.mxq.any (fun t => t.ofRegion h)
    || ((g.rootDone || g.next) && (k.loading h || !g.shadowed))
    || (List.range g.len).any fun p => (List.range 2).any fun a => !(t.unitFire c h p (.ag a) g).isNo

/-- R284, R414: whether a clasp of the region holds a token. -/
def Core.clasped (k : Core) (h : Nat) : Bool :=
  k.clasps.any fun e => e.2.en && e.2.hdl.toNat == h && e.2.budget == 0 && k.claspHeld e.2 != 0

/-- R414: whether a region's watchdog counts: it runs, moves no patch, no cloak halts it and no clasp of it holds a token. -/
def State.watched (s : State) (c h : Nat) (g : Region) : Bool :=
  g.run == .running && !g.moving && !s.frozen (some g.gang) && !(s.core c).clasped h

/-- R414: a region's watchdog counter after `n` ticks: a token moved since the last one, which resets it at the first, or something is
outstanding at each. -/
def State.tickRegion (s : State) (c n h : Nat) (g : Region) : Region :=
  let old := if g.moved then 0 else g.watch
  let left := if g.moved then n - 1 else n
  { g with moved := false
           watch := if !s.watched c h g then old else if s.awaiting c h g then 0 else old + left }

/-- R284: whether a request is one of a unit of a region whose token a clasp holds, or of a matrix token from a pin of it. -/
def Core.claspedReq (k : Core) (r : Req) : Bool := match r.unit with
  | some (.unit _ h _ _) => k.clasped h
  | some (.token _ id) => k.mxq.any fun t => t.id == id && match t.source with
    | .pin h _ => k.clasped h
    | .cp _ _ => false
  | _ => false

/-- R284, R415, R419, R420: a request's timeout and retransmission counters after `n` ticks. -/
def State.tickReq (s : State) (c n : Nat) (r : Req) : Req :=
  match r.phase with
  | .back _ => r
  | .unsent => r
  | _ => match r.op with
    | .steer _ _ _ => r
    | .message _ _ _ => r
    | .report _ _ _ => r
    | .publishWord _ _ => r
    | _ =>
      if !s.pathOpen c r.dest then r
      else { r with age := if s.frozen r.gang || (s.core c).claspedReq r then r.age else r.age + n
                    resend := if r.remote.isSome then r.resend + n else r.resend }

/-- R420: whether a seam retrains on the way to a slot barrier's word that a token looks at. -/
def State.mxShut (s : State) (c : Nat) (t : MxToken) : Bool :=
  t.holds.any fun va => (s.collarKey c (t.unit c).port va).any fun key => !s.pathOpen c (destOf (.mem key))

/-- R284, R415, R420: the engine's tokens that are held at a collar slot before their reads set out. -/
def State.tickUnits (s : State) (c n : Nat) (k : Core) : Core :=
  let stands (t : MxToken) : Bool := s.frozen t.gang || s.mxShut c t || match t.source with
    | .pin h _ => k.clasped h
    | .cp _ _ => false
  { k with
    mxq := (k.mxq.zipIdx).map fun e =>
      if !e.1.zeroed && k.mayRun e.2 e.1 && !stands e.1 && s.mxHeld c e.1 then { e.1 with age := e.1.age + n } else e.1 }

/-- R57: a continuation's timeout after `n` ticks. -/
def Cont.tick (t : Cont) (n : Nat) : Cont := { t with left := t.left.map fun x => x - n }

/-- R49, R57: what counts ticks in HOLD too: timers and timeouts of a core. -/
def Core.tickAlways (k : Core) (n : Nat) : Core :=
  { k with chans := k.chans.map fun (e : Nat × Chan) => (e.1, e.2.tickTimer n)
           conts := k.conts.map fun (e : Nat × Cont) => (e.1, e.2.tick n) }

/-- R58: timers and timeouts of a saved gang. -/
def Saved.tick (v : Saved) (n : Nat) : Saved :=
  { v with members := v.members.map fun (m : MemberSave) =>
      { m with chans := m.chans.map fun (e : Nat × Chan) => (e.1, e.2.tickTimer n)
               conts := m.conts.map fun (e : Nat × Cont) => (e.1, e.2.tick n) } }

/-- The counters of core `c` after `n` ticks: those that HOLD pauses only when `counting` (R444). -/
def State.tickCore (s : State) (n : Nat) (counting : Bool) (c : Nat) (k : Core) : Core :=
  let k := k.tickAlways n
  if !counting then k
  else
    let k := s.tickUnits c n k
    { k with reqs := k.reqs.map (s.tickReq c n)
             regions := k.regions.map fun (e : Nat × Region) => (e.1, s.tickRegion c n e.1 e.2) }

/-- R5: `n` reference ticks pass; `counting` says whether the module counts what HOLD pauses (R444). -/
def State.ticked (s : State) (n : Nat) (counting : Bool) : State :=
  { s with
    tick := s.tick + BitVec.ofNat 64 n
    saves := s.saves.map fun v => v.tick n
    cores := s.cores.map fun (e : Nat × Core) => (e.1, s.tickCore n counting e.1 e.2)
    power := match s.power with
      | .hold t saved => .hold (t + n) saved
      | p => p }

/-- Whether the module is in HOLD. -/
def State.holding (s : State) : Bool := match s.power with | .hold _ _ => true | _ => false

/-- R5: one reference tick, unless the next one brings a stitch. -/
def State.tickOnce (s : State) : State := if s.tick.toNat % 8 = 7 then s else s.ticked 1 !s.holding

/-- The stitch that ends has been made whole: every refill, reload and drain of it (R347, R349, R352), and the rereads that each stitch
makes at least once (R148, R153). -/
def State.closeStitch (s : State) : State :=
  ({ s with cores := s.cores.map fun (e : Nat × Core) => (e.1, (e.2.refill s.stitch).reload s.stitch) }.drained.rereadHeads).rereadAwaits

/-- R174 to R176: what every core takes at a stitch boundary. -/
def State.boundary (s : State) : State :=
  let s := { s with cmapsNow := s.cmaps }.applyLevels
  { s with cores := (List.range Config.numCores).foldl (fun (m : Tab Core) c =>
      m.set c (s.railsAt c (s.countIdle c (m.get Core.reset c)))) s.cores }

/-- R444: a stitch in HOLD, at which no drain, refill or change is made. -/
def State.skipStitch (s : State) : State :=
  let n := s.stitch.toNat
  { s with drains := n, cores := s.cores.map fun (e : Nat × Core) => (e.1, { e.2 with refilled := n, reloaded := n }) }

/-- R5, R347, R444, STITCH: the generator's next heartbeat, eight reference ticks after the last. The drain of a stitch is made as it begins. -/
def execStitch (s : State) : Out :=
  let n := 8 - s.tick.toNat % 8
  if s.holding then .next { s.ticked n false with stitch := s.stitch + 1 }.skipStitch
  else .next { s.closeStitch.ticked n true with stitch := s.stitch + 1 }.boundary.drained

/-! ### The watchdog (R414) -/

/-- R414, WATCHDOG: the counter has reached the core's limit, and nothing has moved or set out since that would reset it. -/
def execWatchdog (o : RegionAt) (s : State) : Out :=
  let k := s.core o.core
  match k.regions.find? o.hdl with
  | none => .next s
  | some g =>
    if s.watched o.core o.hdl g && !g.moved && !s.awaiting o.core o.hdl g && k.wdog != 0 && k.wdog.toNat ≤ g.watch then
      let ix (n : Nat) : Nat := g.idx.getD n 0 % 2 ^ 16 * 2 ^ (16 * n)
      .next (s.regionFault o.core o.hdl ⟨0, 0, 0, 0, 0⟩
        { cause := .watchdog, info1 := BitVec.ofNat 64 g.watch, info2 := BitVec.ofNat 64 (ix 0 + ix 1 + ix 2 + ix 3) })
    else .next s

end Sys2Proof.Machine
end

