-- ==== Sys2Proof/Machine/Control.lean ====
section
/-! DEFINITION. Comparisons, predicates, control transfer and hardware loops (R211 to R220). -/

namespace Sys2Proof.Machine

/-- R212, CMP. -/
def execCmp (o : OpsCmp) (s : State) : Out :=
  guarded o.g s <| withReg o.a o.fea s fun a => withReg o.b o.feb s fun b => writePred o.d (condHolds o.cond a b) s

/-- R212, CMPI. -/
def execCmpi (o : OpsCmpi) (s : State) : Out :=
  guarded o.g s <| withReg o.a o.fea s fun a => writePred o.d (condHolds o.cond a (sext o.imm)) s

/-- R213: D from A and B. -/
def pred2 (o : OpsPred2) (f : Bool → Bool → Bool) (s : State) : Out :=
  guarded o.g s <| withPred o.a s fun a => withPred o.b s fun b => writePred o.d (f a b) s

/-- R213: D from A. -/
def pred1 (o : OpsPred1) (f : Bool → Bool) (s : State) : Out :=
  guarded o.g s <| withPred o.a s fun a => writePred o.d (f a) s

/-- R213, PAND. -/
def execPand (o : OpsPred2) (s : State) : Out := pred2 o (fun a b => a && b) s

/-- R213, POR. -/
def execPor (o : OpsPred2) (s : State) : Out := pred2 o (fun a b => a || b) s

/-- R213, PXOR. -/
def execPxor (o : OpsPred2) (s : State) : Out := pred2 o (fun a b => a != b) s

/-- R213, PNOT. -/
def execPnot (o : OpsPred1) (s : State) : Out := pred1 o (fun a => !a) s

/-- R213, PMOV. -/
def execPmov (o : OpsPred1) (s : State) : Out := pred1 o (fun a => a) s

/-- R214, NOP. -/
def execNop (o : OpsG) (s : State) : Out := guarded o.g s <| retire s.curSlot s

/-- R119, R214: the target of a word offset. -/
def targetOf (pc : Word) (off : BitVec 32) : Word := pc + 8 * sext off

/-- R214, BR: its guard is the branch condition. -/
def execBr (o : OpsBr) (s : State) : Out :=
  guarded o.g s <| transfer s.curSlot (targetOf s.curSlot.pc o.off) s

/-- R214, JAL. -/
def execJal (o : OpsJal) (s : State) : Out :=
  guarded o.g s <| withDest o.d s <|
    transfer (s.curSlot.write o.d (s.curSlot.pc + 8)) (targetOf s.curSlot.pc o.off) s

/-- R215, JR. -/
def execJr (o : OpsA) (s : State) : Out :=
  guarded o.g s <| withReg o.a o.fea s fun a =>
    if a.toNat % 8 ≠ 0 then trap { cause := .align, info1 := a } s
    else if a.toNat ≥ Config.vaLimit then trap { cause := .xlate, detail := 2, info1 := a } s
    else transfer s.curSlot a s

/-- R217: LOOP and LOOPI with `n` passes; `w` is the word. A count of 0 goes to the word after the body, and no end processing of an enclosing
loop that ends at LOOP itself is made (log 42). -/
def pushLoop (w : Word) (n : Word) (imm : BitVec 32) (s : State) : Out :=
  let sl := s.curSlot
  let last := targetOf sl.pc imm
  if imm.toInt < 1 then trap { cause := .illegal, info1 := w } s
  else if n = 0 then .next (s.setCurSlot { sl with pc := last + 8 })
  else if sl.loops.length ≥ Config.loopDepth then trap { cause := .loop } s
  else if sl.loops.head?.any fun e => e.last.toNat < last.toNat then trap { cause := .loop, detail := 2 } s
  else .next (s.setCurSlot { sl with pc := sl.pc + 8, loops := ⟨sl.pc + 8, last, n⟩ :: sl.loops })

/-- R217, LOOP. -/
def execLoop (o : OpsLoop) (s : State) : Out :=
  guarded o.g s <| withReg o.a o.fea s fun a => pushLoop (wordOfInstr (.loop o)) a o.imm s

/-- R217, LOOPI. -/
def execLoopi (o : OpsLoopi) (s : State) : Out := guarded o.g s <| pushLoop (wordOfInstr (.loopi o)) (o.count.setWidth 64) o.imm s

/-- R219, LBRK. -/
def execLbrk (o : OpsG) (s : State) : Out :=
  guarded o.g s <|
    match s.curSlot.loops with
    | [] => trap { cause := .loop, detail := 1 } s
    | e :: t => .next (s.setCurSlot { s.curSlot with pc := e.last + 8, loops := t })

end Sys2Proof.Machine
end

