-- ==== Sys2Proof/Machine/Manage.lean ====
section
/-! DEFINITION. Links and nodes (R419, R420), scrubbing (R417), supply and HOLD (R444, R445), power and heat (R438 to R442), resets
(R446 to R448, R453), takeover (R449), shocks (R452). -/

namespace Sys2Proof.Machine

/-! ### Links and nodes (R419, R420) -/

/-- R420, LINK_RETRAIN: traffic on the link is held, and the counters of what waits on it stand still. -/
def execLinkRetrain (o : LinkAt) (s : State) : Out :=
  .next (if s.retraining.contains o.link then s else { s with retraining := s.retraining ++ [o.link] })

/-- R419: a node is unreachable; each core with requests outstanding to it has one report. -/
def State.loseNode (s : State) (n : Nat) : State :=
  if s.unreachable.contains n then s
  else
    let owing := s.cores.filter fun e => e.2.reqs.any fun r => r.dest == .node n && match r.phase with
      | .back _ => false
      | _ => true
    owing.foldl (fun (s : State) e =>
      s.report e.1 { cause := .link, detail := 1, info1 := BitVec.ofNat 64 n, info2 := BitVec.ofNat 64 n } none 0)
      { s with unreachable := s.unreachable ++ [n] }

/-- R419, NODE_UNREACHABLE. -/
def execNodeUnreachable (o : NodeAt) (s : State) : Out := .next (s.loseNode o.node)

/-- R420, RETRAINING_COMPLETE: held traffic goes on; a failure is a lane repair of a seam, or a node that is unreachable. -/
def execRetrainingComplete (o : RetrainAt) (s : State) : Out :=
  if !s.retraining.contains o.link then .next s
  else
    let s := { s with retraining := s.retraining.filter fun n => n != o.link }
    if o.ok then .next s
    else if o.link < 26 then .next { s with repaired := s.repaired.upd 0 o.link fun n => n + 1 }
    else .next (s.loseNode o.node)

/-! ### Scrubbing (R312, R417) -/

/-- A poisoned element of a tile. -/
def Core.poisonTile (k : Core) (n elem : Nat) : Core :=
  let t := k.tile n
  if t.poisoned.contains elem then k else { k with tiles := k.tiles.set n { t with poisoned := t.poisoned ++ [elem] } }

/-- A poisoned word of a frame bank of physical patch `p`. -/
def Core.poisonFrame (k : Core) (p : Nat) (shadow : Bool) (ix : Nat) : Core :=
  let mark (b : Bank) : Bank := if b.poisoned.contains ix || b.frames.length ≤ ix then b else { b with poisoned := b.poisoned ++ [ix] }
  let hit (t : Tab Bank) (n : Nat) : Tab Bank := match t.find? n with
    | none => t
    | some b => t.set n (mark b)
  { k with regions := k.regions.map fun (e : Nat × Region) =>
      if e.2.base ≤ p ∧ p < e.2.base + e.2.len then
        (e.1, if shadow then { e.2 with shadow := hit e.2.shadow (p - e.2.base) } else { e.2 with active := hit e.2.active (p - e.2.base) })
      else e }

/-- R417: an uncorrectable word is poisoned. That of a redundant tile's check copy counts as its element's (log 37); a line of the instruction
buffer is fetched again (Table 20-8). -/
def State.poisonWord (s : State) : ScrubWord → State
  | .memory pa => if s.poisoned.contains (pa / 8) then s else { s with poisoned := s.poisoned ++ [pa / 8] }
  | .tile c n e => s.onCore c fun k => k.poisonTile n e
  | .check c n e => s.onCore c fun k => if (k.tile n).check.isSome then k.poisonTile n e else k
  | .frame c p shadow ix => s.onCore c fun k => k.poisonFrame p shadow ix
  | .store c dom page => s.onCore c fun k =>
      { k with store := k.store.map fun m => if m.dom == dom && m.page == page then { m with poisoned := true } else m }
  | .line c dom line => s.onCore c fun k => { k with ibuf := k.ibuf.filter fun l => !(l.dom == dom && l.line == line) }

/-- R19, R417: the die of a word: a stack's words are its panel's. -/
def ScrubWord.die : ScrubWord → Nat
  | .memory pa => match destOf (.mem pa) with
    | .slice c => dieOf c
    | .stack n => n / 2
    | _ => 0
  | .tile c _ _ => dieOf c
  | .check c _ _ => dieOf c
  | .frame c _ _ _ => dieOf c
  | .store c _ _ => dieOf c
  | .line c _ _ => dieOf c

/-- R417, PATROL_SCRUB: a single-bit error is corrected in place and counted for its die. -/
def execPatrolScrub (o : ScrubAt) (s : State) : Out :=
  match o.find with
  | .clean => .next s
  | .corrected => .next { s with corrected := s.corrected.upd 0 (ScrubWord.die o.word) fun n => n + 1 }
  | .uncorrectable => .next (s.poisonWord o.word)

/-! ### Supply (R444, R445) -/

/-- R444, HOLD_ENTRY: the input has fallen below 40 V. -/
def execHoldEntry (s : State) : Out :=
  match s.power with
  | .on => .next { s with power := .hold 0 false }
  | _ => .next s

/-- R445, HOLD_RECOVERY: the input has stayed at 44 V or above for 100 µs; work resumes at one stitch. -/
def execHoldRecovery (s : State) : Out :=
  match s.power with
  | .hold _ _ => .next { s with power := .on }
  | _ => .next s

/-- R445, POWER_LOSS: the input has fallen below 30 V; the module stops. -/
def execPowerLoss (s : State) : Out :=
  match s.power with
  | .hold _ _ => .next { s with power := .off }
  | _ => .next s

/-! ### Power and heat (R438 to R442) -/

/-- R439, R441: a trip: HOLD, the emergency save at once, every rail off (0 mV); the host is told, and the module waits for cold reset. -/
def State.trip (s : State) (die : Nat) : State :=
  let t := s.rescueAll
  { t with power := .off, rails := [], reports := t.reports ++ [.tripped die] }

/-- R439: the power level after a window. -/
def nextPowerLevel (pl watts : Nat) : Nat :=
  if 12000 < watts then 7 else if 10000 < watts then min 7 (pl + 1) else if watts < 9500 then pl - 1 else pl

/-- R439, POWER_WINDOW. The monitor is on H0: die 16 in a report. -/
def execPowerWindow (o : WindowAt) (s : State) : Out :=
  let s := { s with
    powerLevel := nextPowerLevel s.powerLevel o.watts
    over10 := if 10000 < o.watts then s.over10 + 1 else 0
    over12 := if 12000 < o.watts then s.over12 + 1 else 0 }
  .next (if 2 ≤ s.over12 ∨ 10 ≤ s.over10 then s.trip 16 else s)

/-- Table 23-1: a die's level after a reading in tenths of a degree. -/
def nextThermal (level : Nat) (deci : Int) : Nat :=
  if 1050 ≤ deci then 7
  else if deci ≤ 920 then 0
  else if level = 7 then (if deci ≤ 1020 then 1 else 7)
  else if 950 ≤ deci then 1
  else level

/-- R442: 200 µs in reference ticks. -/
def thermalInterval : Nat := 20000

/-- R441, R442, THERMAL_CHANGE. -/
def execThermalChange (o : ThermalAt) (s : State) : Out :=
  let t := s.thermal.get ⟨0, none⟩ o.die
  let level := nextThermal t.level o.deci
  let rested := t.since.all fun w => decide (thermalInterval ≤ (s.tick - w).toNat)
  if level ≠ t.level ∧ rested then .next { s with thermal := s.thermal.set o.die ⟨level, some s.tick⟩ } else .next s

/-- R441, THERMAL_TRIP: T3. -/
def execThermalTrip (o : ThermalAt) (s : State) : Out :=
  if 1150 ≤ o.deci then .next (s.trip o.die) else .next s

/-- R34, R438, RAIL_SET: 0.50 V to 0.90 V in 5 mV steps. The ramp changes only the speed of the units on the rail. -/
def execRailSet (o : RailAt) (s : State) : Out :=
  if 500 ≤ o.mv ∧ o.mv ≤ 900 ∧ o.mv % 5 = 0 then .next { s with rails := s.rails.set (8 * o.die + o.rail) o.mv } else .next s

/-! ### The management plane (R438, R447) -/

/-- The PTBASE of a level-1 table at a physical address, enabled (Table 4-3). -/
def tableBase (base : Nat) : Word := BitVec.ofNat 64 (base / 2 ^ 16 * 2 ^ 16 + 1)

/-- R447: a domain's level-1 table changes: PTBASE of every core of the domain and the hem dies' table register together, and no translation of
the domain is left in any buffer. -/
def State.retable (s : State) (dom base : Nat) : State :=
  let w := tableBase base
  ({ s with tables := s.tables.set dom w
            cores := s.cores.map fun (e : Nat × Core) => if e.2.domain.toNat = dom then (e.1, { e.2 with ptbase := w }) else e }).invalidate dom
    ⟨0, 0, true⟩

/-- R352, R438, R447: what the management plane does of itself; PERMITS and BUDGET come into force as a core's own write of them does. -/
def State.managed (s : State) : Manage → State
  | .permits c v => if coreOk c then s.onCore c fun k => { k.refill s.stitch with permits := v } else s
  | .budget c v => if coreOk c then s.onCore c fun k => { k.reload s.stitch with budget := v.setWidth 32, budgetHeld := 0 } else s
  | .tables dom base => if dom < 16 then s.retable dom base else s

/-! ### Resets (R446 to R448, R453) -/

/-- R453: the measurement chain over boot images. -/
def measure (images : List (List Byte)) : List Byte :=
  images.foldl (fun m i => shake256 64 (m ++ shake256 64 i)) (List.replicate 64 0)

/-- R46, R446 step 4: a privileged handler bound to c62 or c63. -/
def boundHandler (n entry prio : Nat) : Chan :=
  { Chan.reset n with valid := true, entry := BitVec.ofNat 49 (entry / 8), prio := BitVec.ofNat 3 prio }

/-- R446 step 4, R447 step 3: a core as the management processor sets it up, withheld from placement or not (R450): DOMAIN and the handlers of c62
and c63 on every core, PTBASE on those of a domain. -/
def setUpCore (o : BringUp) (c : Nat) (held : Bool) : Core :=
  let h := (o.handlers.find? c).getD o.handler
  let r := { Core.reset with withheld := held }
  let k := (r.setChan 62 (boundHandler 62 h.entry62 h.prio62)).setChan 63 (boundHandler 63 h.entry63 h.prio63)
  match o.domains.find? fun d => d.cores.contains c with
  | none => { k with domain := BitVec.ofNat 4 o.unassigned }
  | some d => { k with domain := BitVec.ofNat 4 d.dom, ptbase := tableBase d.base }

/-- R156: the descriptor of a domain's COMMAND queue. -/
def commandQueue (d : DomainPlan) : Queue := { queueOf d.command.toNat with type := 2, dom := BitVec.ofNat 4 d.dom }

/-- R447 step 2: whether the tables that a plan builds map the table area, as RAW pages with rd, wr and pv, and the QUEUE pages of the COMMAND
queue's ring and control line (log 38). -/
def State.planOk (s : State) (d : DomainPlan) : Bool :=
  let i : Issuer := ⟨0, d.dom, true, tableBase d.base, none, none⟩
  let q := commandQueue d
  let queue (va : Nat) : Bool := match s.translate i .queue true true none va with
    | .ok _ => true
    | .error _ => false
  queue (q.ring.toNat * 2 ^ 10) && queue (q.ctl.toNat * 64) &&
    match s.walk i.ptbase d.tableVa, s.translate i .any true true none d.tableVa with
    | .ok e, .ok p => pteFmt e == 0 && ptePv e && p.key == d.base / 2 ^ 16 * 2 ^ 16
    | _, _ => false

/-- R447: a domain is opened: its tables, its table register, its COMMAND queue; its host learns where its tables are mapped; the pre-emption that
the management plane enables (R421). A plan without step 2's mappings opens nothing (log 38). -/
def State.openDomain (s : State) (d : DomainPlan) : State :=
  let t := { s with mem := d.tables.foldl (fun (m : List Host.Cell) (e : Nat × Byte) => writeByte m e.1 e.2) s.mem }
  if !t.planOk d then s
  else
    let t := { t with
      tables := t.tables.set d.dom (tableBase d.base)
      slicing := t.slicing.set d.dom ⟨d.preempt, d.slice, d.pool⟩
      reports := t.reports ++ [Report.tables d.dom d.tableVa] }
    t.setQueue d.dom (commandQueue d)

/-- R35: whether a firmware image is signed under Colren's key. -/
def signedOk (x : Signed) : Bool := edVerify Config.firmwareKey.toList (shake256 64 x.image) x.sig

/-- R35, R446 step 1: the firmware image that is run: H0's, or H1's copy where that fails. An image that fails is not run: with the management
firmware's or a hem die's, none is. -/
def bootImage (o : BringUp) : Option (List Byte) :=
  if !(o.management :: o.hems).all signedOk then none
  else if signedOk o.firmware then some o.firmware.image else if signedOk o.h1Firmware then some o.h1Firmware.image else none

/-- R445: whether the byte at a key keeps its value over a cold reset: HBM's while the stacks stay powered, a slice's unless the module had
stopped; another node's (log 38). -/
def State.survives (s : State) (o : BringUp) (key : Nat) : Bool :=
  match destOf (.mem key) with
  | .stack _ => o.kept
  | .slice _ => o.kept && s.power != .off
  | _ => true

/-- R428, R445: a launch over a cold reset: one with saved instances, which RESTORE may still bring back; it is counted only if no other instance
of it was left (log 38). -/
def State.survivor (s : State) (l : Launch) : Option Launch :=
  let n := (s.saves.filter fun v => v.gang.id.launch == l.id).length
  if n = 0 then none else some { l with placed := true, live := n, uncounted := l.uncounted || !l.placed || l.live != n }

/-- R445, R446: the module at its Reset values, with what a cold reset leaves: memory that kept its power and the saves in it, the shock log (R452),
and what the most recent self-test found (R450, R451). -/
def State.cold (s : State) (o : BringUp) : State :=
  { State.reset with
    agenda := s.agenda, fresh := s.fresh
    mem := s.mem.filter fun e => s.survives o e.1
    poisoned := s.poisoned.filter fun w => s.survives o (8 * w)
    coreWords := s.coreWords.filter (s.survives o)
    saves := if o.kept then s.saves else []
    launches := if o.kept then s.launches.filterMap s.survivor else []
    shocks := s.shocks, shockSinceTest := s.shockSinceTest, test := s.test, repaired := s.repaired
    cores := s.cores.map fun (e : Nat × Core) => (e.1, { Core.reset with withheld := e.2.withheld })
    reports := s.reports ++ [Report.firmware (bootImage o).isSome], answers := s.answers }

/-- R446 steps 1 to 4: the module with this firmware measured and running, before any domain is opened. -/
def State.setUp (s : State) (o : BringUp) (image : List Byte) : State :=
  { s.cold o with
    meas := measure (image :: o.management.image :: o.cloak :: o.hems.map fun x => x.image)
    node := o.node
    resendLimit := o.resend.getD State.reset.resendLimit
    cores := (List.range Config.numCores).map fun c => (c, setUpCore o c (s.core c).withheld) }

/-- R446, COLD_RESET. Without images that verify, nothing is brought up. -/
def execColdReset (o : BringUp) (s : State) : Out :=
  match bootImage o with
  | none => .next (s.cold o)
  | some image =>
    let r := o.domains.foldl State.openDomain (s.setUp o image)
    let r := if r.shockSinceTest then r.tested o.selftest else r
    .next { r with opened := true }

/-- R448: a core after a warm reset. Requests already sent are still performed, and their replies discarded (R204); a slice that RAILSEL no longer
gates has its power again (R177). -/
def Core.warm (k : Core) : Core :=
  { Core.reset with
    domain := k.domain, ptbase := k.ptbase, withheld := k.withheld, store := k.store, ibuf := k.ibuf
    reqs := k.reqs.map Req.orphan, nextReq := k.nextReq, router := k.router, gated := k.gated.filter fun u => u != .slice, patchRails := k.patchRails
    refilled := k.refilled, reloaded := k.reloaded }

/-- R448, WARM_RESET: every gang ends unsaved and its launch is not counted; special registers take their Reset values but for STITCH, TICK,
DOMAIN and PTBASE. -/
def execWarmReset (s : State) : Out :=
  let mine (l : Launch) : Bool := s.gangs.any fun g => g.id.launch == l.id
  let saved (l : Launch) : Nat := (s.saves.filter fun v => v.gang.id.launch == l.id).length
  .next { s.forget fun _ => true with
    cores := s.cores.map fun (e : Nat × Core) => (e.1, e.2.warm)
    gangs := []
    decision := none
    cmaps := []
    cmapsNow := []
    launches := s.launches.filterMap fun l =>
      if !mine l then some l
      else if l.placed && saved l = 0 then none
      else some { l with uncounted := true, live := saved l } }

/-! ### Takeover and shocks (R449, R452) -/

/-- R449, H1_TAKEOVER: the generator goes on at H1's count of ticks div 8, and 1; the gap counts as HOLD. What the stitches passed over were to
bring is made at the first resumed one: the changes of a boundary and the drain here, refills and reloads before anything takes a permit. -/
def execH1Takeover (o : TakeoverAt) (s : State) : Out :=
  let n := o.ticks / 8 + 1
  if s.h1 ∨ n ≤ s.stitch.toNat ∨ 2 ^ 61 ≤ n then .next s
  else
    let t := { s.ticked (8 * n - s.tick.toNat) false with stitch := BitVec.ofNat 64 n, h1 := true, reports := s.reports ++ [Report.takeover] }
    let t := if s.holding then t.skipStitch
      else if s.drains / 256 < n / 256 then { t.boundary.drainQueues with drains := n } else t.boundary
    .next t

/-- R452, SHOCK_EVENT. -/
def execShockEvent (o : ShockAt) (s : State) : Out :=
  if 50 < o.accel then .next { s with shocks := s.shocks + 1, shockSinceTest := true } else .next s

end Sys2Proof.Machine
end

