-- ==== Sys2Proof/Machine/Sync.lean ====
section
/-! DEFINITION. Fences (R362, R363) and barrier instructions (R373 to R377). -/

namespace Sys2Proof.Machine

/-- R362: whether every earlier access of the slot that a scope covers is performed; remote ones count for SYS alone. -/
def Core.drainedAt (k : Core) (slot : Nat) (scope : Nat) : Bool :=
  !k.reqs.any fun r => r.slot == slot && r.unperformed
    && (scope == 5 || match r.dest with | .node _ => false | _ => true)

/-- R361, R362: what a FENCE leaves unperformed of its slot is ordered before every later access: none is issued before it is performed. -/
def Core.fenced (k : Core) (slot : Nat) : Core :=
  { k with reqs := k.reqs.map fun r => if r.slot == slot && r.unperformed then { r with ord := r.ord ||| 1 } else r }

/-- R362, FENCE: it does not wait for the accesses that its scope does not cover. -/
def execFence (o : OpsFence) (s : State) : Out :=
  guarded o.g s <| unspeculated s <|
    if s.curCore.drainedAt s.cur.slot o.scope.toNat then retireCore (s.curCore.fenced s.cur.slot) s else stall s

/-- R363, SCFENCE: the drain, then two stitches. -/
def execScfence (o : OpsG) (s : State) : Out :=
  guarded o.g s <| unspeculated s <|
    match s.curSlot.prog with
    | .scfence t => if t.toNat + 2 ≤ s.stitch.toNat then retire s.curSlot s else stall s
    | _ =>
      if s.curCore.drained s.cur.slot then stall (s.setCurSlot { s.curSlot with prog := .scfence s.stitch }) else stall s

/-- R373: the target of a barrier instruction, of `n` bytes from offset `off` of the word that gA names. -/
def State.barTarget (s : State) (a : Word) (rd wr : Bool) (off n : Nat) : Except Trap Target :=
  do
    let va := a.toNat / 16 * 16
    let p ← s.translate s.curIssuer .barrier rd wr none va
    if let some t := s.lostNode va p.key then throw t
    return ⟨.mem (p.key + va % 2 ^ 16), va + off, n, 0, n, none⟩

/-- R374: BINIT's own checks; a privileged task outside any gang is exempt from the handle's. -/
def State.binitCheck (s : State) (va : Nat) (w : BitVec 128) : Except Trap Unit :=
  let k := s.curCore
  if rfld w 32 3 ≠ 0 ∨ barScope w > 5 then .error (barTrap 2 va)
  else if coreWide s.curSlot.gang s.curSlot.priv || (k.regions.find? (barHdl w)).any fun r => s.curSlot.gang == some r.gang then .ok ()
  else .error { cause := .frame, detail := 1, info2 := BitVec.ofNat 64 (barHdl w) }

/-- R374, BINIT. -/
def execBinit (o : OpsABC) (s : State) : Out :=
  guarded o.g s <| withReg o.a o.fea s fun a => withReg o.b o.feb s fun b => withReg o.c o.fec s fun c => unspeculated s <|
    resuming (fun _ s => retire s.curSlot s) s <|
      let w : BitVec 128 := c ++ b
      checked (s.barTarget a false true 0 16) s fun t => checked (s.binitCheck t.va w) s fun _ =>
        awaitReq (s.newReq (.binit w s.cur.core) t 0 0 false) (s.noteAccess t)

/-- R375, BARV: gD takes the word's VA and the phase at which it arrived. -/
def execBarv (o : OpsDA) (s : State) : Out :=
  guarded o.g s <| withReg o.a o.fea s fun a => withDest o.d s <| unspeculated s <|
    resuming (fun p s =>
        let old := ((p.regs.head?).map fun e => e.2).getD 0
        retire (s.curSlot.write o.d (BitVec.ofNat 64 (a.toNat / 16 * 16) ||| old)) s) s <|
      checked (s.barTarget a true true 0 16) s fun t => awaitReq (s.newReq .barv t 0 0 false) (s.noteAccess t)

/-- R376, BEXP. -/
def execBexp (o : OpsAB) (s : State) : Out :=
  guarded o.g s <| withReg o.a o.fea s fun a => withReg o.b o.feb s fun b => unspeculated s <|
    resuming (fun _ s => retire s.curSlot s) s <|
      checked (s.barTarget a true true 0 16) s fun t =>
        awaitReq (s.newReq (.bexp (b.toNat % 2 ^ 36)) t 0 0 false) (s.noteAccess t)

/-- R377, R372, BRD: a read of one half, which is an acquire for a member of the word's instance: what the word then names is known when it
is performed, and no later access of the slot is issued before. -/
def execBrd (o : OpsDA) (s : State) : Out :=
  guarded o.g s <| withReg o.a o.fea s fun a => withDest o.d s <| unspeculated s <| afterAcquires s <|
    checked (s.barTarget a true false 0 16) s fun t =>
      permitting (destOf t.home) s <|
        sendReq (s.newReq (.brd o.d (a.getLsbD 3)) t 0 0 false) (s.curSlot.markEmpty o.d) (s.noteAccess t)

end Sys2Proof.Machine
end

