-- ==== Sys2Proof/Machine/Dispatch.lean ====
section
/-! DEFINITION. Which meaning each row of the opcode table has: one arm per constructor. -/

namespace Sys2Proof.Machine

/-- The meaning of an instruction or event at a state. -/
def exec (i : Instr) (s : State) : Host.Outcome State Fault Refusal :=
  match i with
  | .nop o => Sys2Proof.Machine.execNop o s
  | .add o => Sys2Proof.Machine.execAdd o s
  | .sub o => Sys2Proof.Machine.execSub o s
  | .mul o => Sys2Proof.Machine.execMul o s
  | .mulh o => Sys2Proof.Machine.execMulh o s
  | .div o => Sys2Proof.Machine.execDiv o s
  | .rem o => Sys2Proof.Machine.execRem o s
  | .and o => Sys2Proof.Machine.execAnd o s
  | .or o => Sys2Proof.Machine.execOr o s
  | .xor o => Sys2Proof.Machine.execXor o s
  | .andn o => Sys2Proof.Machine.execAndn o s
  | .shl o => Sys2Proof.Machine.execShl o s
  | .shr o => Sys2Proof.Machine.execShr o s
  | .sar o => Sys2Proof.Machine.execSar o s
  | .rotl o => Sys2Proof.Machine.execRotl o s
  | .min o => Sys2Proof.Machine.execMin o s
  | .max o => Sys2Proof.Machine.execMax o s
  | .clz o => Sys2Proof.Machine.execClz o s
  | .ctz o => Sys2Proof.Machine.execCtz o s
  | .popc o => Sys2Proof.Machine.execPopc o s
  | .bext o => Sys2Proof.Machine.execBext o s
  | .bins o => Sys2Proof.Machine.execBins o s
  | .ext o => Sys2Proof.Machine.execExt o s
  | .sel o => Sys2Proof.Machine.execSel o s
  | .mad o => Sys2Proof.Machine.execMad o s
  | .addi o => Sys2Proof.Machine.execAddi o s
  | .andi o => Sys2Proof.Machine.execAndi o s
  | .ori o => Sys2Proof.Machine.execOri o s
  | .xori o => Sys2Proof.Machine.execXori o s
  | .shli o => Sys2Proof.Machine.execShli o s
  | .shri o => Sys2Proof.Machine.execShri o s
  | .sari o => Sys2Proof.Machine.execSari o s
  | .muli o => Sys2Proof.Machine.execMuli o s
  | .movi o => Sys2Proof.Machine.execMovi o s
  | .movhi o => Sys2Proof.Machine.execMovhi o s
  | .cmp o => Sys2Proof.Machine.execCmp o s
  | .cmpi o => Sys2Proof.Machine.execCmpi o s
  | .pand o => Sys2Proof.Machine.execPand o s
  | .por o => Sys2Proof.Machine.execPor o s
  | .pxor o => Sys2Proof.Machine.execPxor o s
  | .pnot o => Sys2Proof.Machine.execPnot o s
  | .pmov o => Sys2Proof.Machine.execPmov o s
  | .br o => Sys2Proof.Machine.execBr o s
  | .jal o => Sys2Proof.Machine.execJal o s
  | .jr o => Sys2Proof.Machine.execJr o s
  | .loop o => Sys2Proof.Machine.execLoop o s
  | .loopi o => Sys2Proof.Machine.execLoopi o s
  | .lbrk o => Sys2Proof.Machine.execLbrk o s
  | .endTask o => Sys2Proof.Machine.execEndTask o s
  | .send o => Sys2Proof.Machine.execSend o s
  | .wait o => Sys2Proof.Machine.execWait o s
  | .popFail o => Sys2Proof.Machine.execPopFail o s
  | .popBlock o => Sys2Proof.Machine.execPopBlock o s
  | .push o => Sys2Proof.Machine.execPush o s
  | .spec o => Sys2Proof.Machine.execSpec o s
  | .specResolve o => Sys2Proof.Machine.execSpecResolve o s
  | .mfs o => Sys2Proof.Machine.execMfs o s
  | .mts o => Sys2Proof.Machine.execMts o s
  | .mtsChbind o => Sys2Proof.Machine.execMtsChbind o s
  | .mtsCvstat o => Sys2Proof.Machine.execMtsCvstat o s
  | .mtsRailsel o => Sys2Proof.Machine.execMtsRailsel o s
  | .mtsBudget o => Sys2Proof.Machine.execMtsBudget o s
  | .mtsPermits o => Sys2Proof.Machine.execMtsPermits o s
  | .mtsClasp o => Sys2Proof.Machine.execMtsClasp o s
  | .mtsEpc o => Sys2Proof.Machine.execMtsEpc o s
  | .ld o => Sys2Proof.Machine.execLd o s
  | .st o => Sys2Proof.Machine.execSt o s
  | .ldp o => Sys2Proof.Machine.execLdp o s
  | .stp o => Sys2Proof.Machine.execStp o s
  | .recld o => Sys2Proof.Machine.execRecld o s
  | .recst o => Sys2Proof.Machine.execRecst o s
  | .recset o => Sys2Proof.Machine.execRecset o s
  | .recget o => Sys2Proof.Machine.execRecget o s
  | .aadd o => Sys2Proof.Machine.execAadd o s
  | .amin o => Sys2Proof.Machine.execAmin o s
  | .amax o => Sys2Proof.Machine.execAmax o s
  | .aand o => Sys2Proof.Machine.execAand o s
  | .aor o => Sys2Proof.Machine.execAor o s
  | .axor o => Sys2Proof.Machine.execAxor o s
  | .axchg o => Sys2Proof.Machine.execAxchg o s
  | .acas o => Sys2Proof.Machine.execAcas o s
  | .ainc o => Sys2Proof.Machine.execAinc o s
  | .afadd o => Sys2Proof.Machine.execAfadd o s
  | .amaxw o => Sys2Proof.Machine.execAmaxw o s
  | .fence o => Sys2Proof.Machine.execFence o s
  | .scfence o => Sys2Proof.Machine.execScfence o s
  | .binit o => Sys2Proof.Machine.execBinit o s
  | .barv o => Sys2Proof.Machine.execBarv o s
  | .bexp o => Sys2Proof.Machine.execBexp o s
  | .brd o => Sys2Proof.Machine.execBrd o s
  | .cpy o => Sys2Proof.Machine.execCpy o s
  | .cpyg o => Sys2Proof.Machine.execCpyg o s
  | .cpys o => Sys2Proof.Machine.execCpys o s
  | .cpyr o => Sys2Proof.Machine.execCpyr o s
  | .cpym o => Sys2Proof.Machine.execCpym o s
  | .fill o => Sys2Proof.Machine.execFill o s
  | .publish o => Sys2Proof.Machine.execPublish o s
  | .publishSwap o => Sys2Proof.Machine.execPublishSwap o s
  | .scfg o => Sys2Proof.Machine.execScfg o s
  | .scfgLoadDone o => Sys2Proof.Machine.execScfgLoadDone o s
  | .sgo o => Sys2Proof.Machine.execSgo o s
  | .snext o => Sys2Proof.Machine.execSnext o s
  | .sstop o => Sys2Proof.Machine.execSstop o s
  | .sbind o => Sys2Proof.Machine.execSbind o s
  | .sbar o => Sys2Proof.Machine.execSbar o s
  | .mtok o => Sys2Proof.Machine.execMtok o s
  | .trap o => Sys2Proof.Machine.execTrap o s
  | .bkpt o => Sys2Proof.Machine.execBkpt o s
  | .eretResume o => Sys2Proof.Machine.execEretResume o s
  | .eretSkip o => Sys2Proof.Machine.execEretSkip o s
  | .tlbinv o => Sys2Proof.Machine.execTlbinv o s
  | .clasp o => Sys2Proof.Machine.execClasp o s
  | .save o => Sys2Proof.Machine.execSave o s
  | .restore o => Sys2Proof.Machine.execRestore o s
  | .replyFill o => Sys2Proof.Machine.execReplyFill o s
  | .ifetchLine o => Sys2Proof.Machine.execIfetchLine o s
  | .qdesc o => Sys2Proof.Machine.execQdesc o s
  | .ldesc o => Sys2Proof.Machine.execLdesc o s
  | .qreset o => Sys2Proof.Machine.execQreset o s
  | .lkill o => Sys2Proof.Machine.execLkill o s
  | .xinv o => Sys2Proof.Machine.execXinv o s
  | .selftest o => Sys2Proof.Machine.execSelftest o s
  | .attest o => Sys2Proof.Machine.execAttest o s
  | .hostAccess o => Sys2Proof.Machine.execHostAccess o s
  | .tailWrite o => Sys2Proof.Machine.execTailWrite o s
  | .queueClose o => Sys2Proof.Machine.execQueueClose o s
  | .queueDispense o => Sys2Proof.Machine.execQueueDispense o s
  | .queueReread o => Sys2Proof.Machine.execQueueReread o s
  | .awaitReread o => Sys2Proof.Machine.execAwaitReread o s
  | .schedulerDecision => Sys2Proof.Machine.execSchedulerDecision s
  | .compactionMoveDone o => Sys2Proof.Machine.execCompactionMoveDone o s
  | .imageFetchDone o => Sys2Proof.Machine.execImageFetchDone o s
  | .preloadDone o => Sys2Proof.Machine.execPreloadDone o s
  | .dispatch o => Sys2Proof.Machine.execDispatch o s
  | .continuationPost o => Sys2Proof.Machine.execContinuationPost o s
  | .waitTimeout o => Sys2Proof.Machine.execWaitTimeout o s
  | .timerSource o => Sys2Proof.Machine.execTimerSource o s
  | .gangEnd o => Sys2Proof.Machine.execGangEnd o s
  | .firing o => Sys2Proof.Machine.execFiring o s
  | .pass o => Sys2Proof.Machine.execPass o s
  | .const o => Sys2Proof.Machine.execConst o s
  | .iadd o => Sys2Proof.Machine.execIadd o s
  | .isub o => Sys2Proof.Machine.execIsub o s
  | .iaddc o => Sys2Proof.Machine.execIaddc o s
  | .isubb o => Sys2Proof.Machine.execIsubb o s
  | .imul o => Sys2Proof.Machine.execImul o s
  | .imulh o => Sys2Proof.Machine.execImulh o s
  | .imacc o => Sys2Proof.Machine.execImacc o s
  | .imad o => Sys2Proof.Machine.execImad o s
  | .iand o => Sys2Proof.Machine.execIand o s
  | .ior o => Sys2Proof.Machine.execIor o s
  | .ixor o => Sys2Proof.Machine.execIxor o s
  | .ishl o => Sys2Proof.Machine.execIshl o s
  | .ishr o => Sys2Proof.Machine.execIshr o s
  | .isar o => Sys2Proof.Machine.execIsar o s
  | .imin o => Sys2Proof.Machine.execImin o s
  | .imax o => Sys2Proof.Machine.execImax o s
  | .iminu o => Sys2Proof.Machine.execIminu o s
  | .imaxu o => Sys2Proof.Machine.execImaxu o s
  | .icmp o => Sys2Proof.Machine.execIcmp o s
  | .isel o => Sys2Proof.Machine.execIsel o s
  | .dot4 o => Sys2Proof.Machine.execDot4 o s
  | .iabs o => Sys2Proof.Machine.execIabs o s
  | .ipopc o => Sys2Proof.Machine.execIpopc o s
  | .iclz o => Sys2Proof.Machine.execIclz o s
  | .fadd o => Sys2Proof.Machine.execFadd o s
  | .fsub o => Sys2Proof.Machine.execFsub o s
  | .fmul o => Sys2Proof.Machine.execFmul o s
  | .ffma o => Sys2Proof.Machine.execFfma o s
  | .fmin o => Sys2Proof.Machine.execFmin o s
  | .fmax o => Sys2Proof.Machine.execFmax o s
  | .fcmp o => Sys2Proof.Machine.execFcmp o s
  | .fsel o => Sys2Proof.Machine.execFsel o s
  | .fmod o => Sys2Proof.Machine.execFmod o s
  | .hadd2 o => Sys2Proof.Machine.execHadd2 o s
  | .hmul2 o => Sys2Proof.Machine.execHmul2 o s
  | .hfma2 o => Sys2Proof.Machine.execHfma2 o s
  | .hmax2 o => Sys2Proof.Machine.execHmax2 o s
  | .hdot2 o => Sys2Proof.Machine.execHdot2 o s
  | .cvtif o => Sys2Proof.Machine.execCvtif o s
  | .cvtfi o => Sys2Proof.Machine.execCvtfi o s
  | .cvtfh o => Sys2Proof.Machine.execCvtfh o s
  | .cvthf o => Sys2Proof.Machine.execCvthf o s
  | .rcp o => Sys2Proof.Machine.execRcp o s
  | .rsq o => Sys2Proof.Machine.execRsq o s
  | .sqrt o => Sys2Proof.Machine.execSqrt o s
  | .exp2 o => Sys2Proof.Machine.execExp2 o s
  | .log2 o => Sys2Proof.Machine.execLog2 o s
  | .shufl o => Sys2Proof.Machine.execShufl o s
  | .shufr o => Sys2Proof.Machine.execShufr o s
  | .bcast o => Sys2Proof.Machine.execBcast o s
  | .xadd o => Sys2Proof.Machine.execXadd o s
  | .xmax o => Sys2Proof.Machine.execXmax o s
  | .xfadd o => Sys2Proof.Machine.execXfadd o s
  | .hld o => Sys2Proof.Machine.execHld o s
  | .hacc o => Sys2Proof.Machine.execHacc o s
  | .hfacc o => Sys2Proof.Machine.execHfacc o s
  | .hout o => Sys2Proof.Machine.execHout o s
  | .steer o => Sys2Proof.Machine.execSteer o s
  | .merge o => Sys2Proof.Machine.execMerge o s
  | .carry o => Sys2Proof.Machine.execCarry o s
  | .gate o => Sys2Proof.Machine.execGate o s
  | .sink o => Sys2Proof.Machine.execSink o s
  | .count o => Sys2Proof.Machine.execCount o s
  | .lut4 o => Sys2Proof.Machine.execLut4 o s
  | .repeatOp o => Sys2Proof.Machine.execRepeatOp o s
  | .seq o => Sys2Proof.Machine.execSeq o s
  | .pipe o => Sys2Proof.Machine.execPipe o s
  | .stream o => Sys2Proof.Machine.execStream o s
  | .mseq o => Sys2Proof.Machine.execMseq o s
  | .agWalkStart o => Sys2Proof.Machine.execAgWalkStart o s
  | .agReadToken o => Sys2Proof.Machine.execAgReadToken o s
  | .agWrite o => Sys2Proof.Machine.execAgWrite o s
  | .agWriteDone o => Sys2Proof.Machine.execAgWriteDone o s
  | .muFifo o => Sys2Proof.Machine.execMuFifo o s
  | .muTable o => Sys2Proof.Machine.execMuTable o s
  | .waccPush o => Sys2Proof.Machine.execWaccPush o s
  | .waccQuery o => Sys2Proof.Machine.execWaccQuery o s
  | .waccMarker o => Sys2Proof.Machine.execWaccMarker o s
  | .accrRequest o => Sys2Proof.Machine.execAccrRequest o s
  | .lxConvert o => Sys2Proof.Machine.execLxConvert o s
  | .lxPlane o => Sys2Proof.Machine.execLxPlane o s
  | .claspDelivery o => Sys2Proof.Machine.execClaspDelivery o s
  | .configStep o => Sys2Proof.Machine.execConfigStep o s
  | .rollingSwap o => Sys2Proof.Machine.execRollingSwap o s
  | .regionDone o => Sys2Proof.Machine.execRegionDone o s
  | .matrixAccept o => Sys2Proof.Machine.execMatrixAccept o s
  | .mxPinToken o => Sys2Proof.Machine.execMxPinToken o s
  | .mma o => Sys2Proof.Machine.execMma o s
  | .mmaz o => Sys2Proof.Machine.execMmaz o s
  | .mzero o => Sys2Proof.Machine.execMzero o s
  | .mdrain o => Sys2Proof.Machine.execMdrain o s
  | .mmar o => Sys2Proof.Machine.execMmar o s
  | .mmarz o => Sys2Proof.Machine.execMmarz o s
  | .matrixTokenComplete o => Sys2Proof.Machine.execMatrixTokenComplete o s
  | .xuSectorWrite o => Sys2Proof.Machine.execXuSectorWrite o s
  | .xuCommandComplete o => Sys2Proof.Machine.execXuCommandComplete o s
  | .collarReadRelease o => Sys2Proof.Machine.execCollarReadRelease o s
  | .translationWalkDone o => Sys2Proof.Machine.execTranslationWalkDone o s
  | .routerRound o => Sys2Proof.Machine.execRouterRound o s
  | .periodicDrain => Sys2Proof.Machine.execPeriodicDrain s
  | .stitch => Sys2Proof.Machine.execStitch s
  | .permitRefill o => Sys2Proof.Machine.execPermitRefill o s
  | .budgetReload o => Sys2Proof.Machine.execBudgetReload o s
  | .throttleChange o => Sys2Proof.Machine.execThrottleChange o s
  | .powerGate o => Sys2Proof.Machine.execPowerGate o s
  | .watchdog o => Sys2Proof.Machine.execWatchdog o s
  | .memto o => Sys2Proof.Machine.execMemto o s
  | .domainNack o => Sys2Proof.Machine.execDomainNack o s
  | .retransmit o => Sys2Proof.Machine.execRetransmit o s
  | .nodeUnreachable o => Sys2Proof.Machine.execNodeUnreachable o s
  | .linkRetrain o => Sys2Proof.Machine.execLinkRetrain o s
  | .patrolScrub o => Sys2Proof.Machine.execPatrolScrub o s
  | .schedulerPreempt o => Sys2Proof.Machine.execSchedulerPreempt o s
  | .mgmtPreempt o => Sys2Proof.Machine.execMgmtPreempt o s
  | .logSeal o => Sys2Proof.Machine.execLogSeal o s
  | .holdEntry => Sys2Proof.Machine.execHoldEntry s
  | .holdRecovery => Sys2Proof.Machine.execHoldRecovery s
  | .emergencySave => Sys2Proof.Machine.execEmergencySave s
  | .powerLoss => Sys2Proof.Machine.execPowerLoss s
  | .powerWindow o => Sys2Proof.Machine.execPowerWindow o s
  | .thermalChange o => Sys2Proof.Machine.execThermalChange o s
  | .thermalTrip o => Sys2Proof.Machine.execThermalTrip o s
  | .railSet o => Sys2Proof.Machine.execRailSet o s
  | .coldReset o => Sys2Proof.Machine.execColdReset o s
  | .warmReset => Sys2Proof.Machine.execWarmReset s
  | .h1Takeover o => Sys2Proof.Machine.execH1Takeover o s
  | .shockEvent o => Sys2Proof.Machine.execShockEvent o s
  | .performedAtHome o => Sys2Proof.Machine.execPerformedAtHome o s
  | .retrainingComplete o => Sys2Proof.Machine.execRetrainingComplete o s
  | .schedulerRestore o => Sys2Proof.Machine.execSchedulerRestore o s

end Sys2Proof.Machine
end

