-- ==== Sys2Proof/Machine/Issue.lean ====
section
/-! DEFINITION. Issue (R197 to R199) and which agent acts: a core tries its slots in round-robin order and issues the first
instruction that completes; an event acts when the module is not in HOLD. -/

namespace Sys2Proof.Machine

/-- FREE VALUE (log 1): the agent that moves next where the specification orders nothing (R14), by State.fresh. -/
opaque nextAgent : Nat → Agent

/-- The state in which slot `n` of core `c` issues next. -/
def State.issuing (s : State) (c n : Nat) : State := { s with cur := ⟨c, n⟩, stalled := false }

/-- R195: the line at the running slot's pc is the most recently used. -/
def State.fetched (s : State) : State := s.setCurCore (s.curCore.touchLine s.curSlot.pc)

/-- R229, R230: the slot's speculation is decided and not yet resolved. -/
def Slot.deciding (sl : Slot) : Bool := sl.spec.any fun sp => sp.outcome.isSome

/-- R429: whether a read of slot `n` in its gang's log is still to be issued again. -/
def Core.replaying (k : Core) (n : Nat) : Bool := k.reqs.any fun r => r.slot == n && r.live && r.phase == .unsent

/-- R199: the slot's next word is fetched, its encoding is checked under Table 5-21, and it executes. A slot that is not ready or is halted, or
whose word is not in the instruction buffer, stalls (R195, R197); so does one whose speculation is decided, until it is resolved (R230), and one
whose log is not yet replayed (R429). -/
def issueSlot (c n : Nat) (s : State) : Out :=
  let t := s.issuing c n
  if t.curSlot.status ≠ .occupied || t.frozen t.curSlot.gang || t.curSlot.deciding || t.curCore.replaying n then stall t
  else match t.curCore.fetchWord t.curSlot.pc with
    | none => stall t
    | some w =>
      match decode w with
      | .error _ => trap { cause := .illegal, info1 := w } t.fetched
      | .ok i => exec i t.fetched

/-- R198: the slots in order; the first whose instruction does not stall is the one that issued. -/
def issueFrom (c : Nat) : List Nat → State → Out
  | [], s => .next { s with stalled := true }
  | n :: ns, s =>
    match issueSlot c n s with
    | .next t => if t.stalled then issueFrom c ns t else .next (t.onCore c fun k => { k with lastSlot := n })
    | o => o

/-- R198: round-robin, beginning after the slot that issued last. -/
def slotOrder (last : Nat) : List Nat := (List.range 16).map fun i => (last + 1 + i) % 16

/-- A core's control processor issues one instruction, if any slot is ready. -/
def issueCore (c : Nat) (s : State) : Out := issueFrom c (slotOrder (s.core c).lastSlot) s

/-- R444: what still happens in HOLD, where every acknowledgement is withheld: the stitch generator, the supply, the sensors, the
emergency save, the management plane's takeover and resets. -/
def heldEvent : Instr → Bool
  | .stitch | .holdRecovery | .emergencySave | .powerLoss | .powerWindow _ | .thermalChange _ | .thermalTrip _ | .railSet _
  | .coldReset _ | .warmReset | .h1Takeover _ | .shockEvent _ => true
  | _ => false

/-- Whether an agent's event may act now. The control processor's words are no events. -/
def eventOk (i : Instr) (p : Power) : Bool :=
  i.wf && (encode i).isNone &&
    match p with
    | .on => true
    | .hold _ _ => heldEvent i
    | .off => match i with
      | .coldReset _ => true
      | .shockEvent _ => true
      | _ => false

/-- An agent moves. An agent that may not act leaves the state as it is; the reference clock runs in HOLD too (R444). A module that has stopped
takes a cold reset, and its shock sensors go on logging (R452). -/
def act (a : Agent) (s : State) : Out :=
  match s.power, a with
  | .off, .event (.coldReset o) => exec (.coldReset o) { s with stalled := false }
  | .off, .event (.shockEvent o) => exec (.shockEvent o) { s with stalled := false }
  | .off, _ => .fault .poweredOff
  | .on, .issue c => if coreOk c then issueCore c s else .next s
  | .hold _ _, .issue _ => .next s
  | _, .tick => .next s.tickOnce
  | .on, .manage m => .next (s.managed m)
  | .hold _ _, .manage _ => .next s
  | p, .event i => if eventOk i p then exec i { s with stalled := false } else .next s

/-- The next agent of the agenda moves; with none named, an agent that the specification leaves open. -/
def stepAgent (s : State) : Out :=
  match s.agenda with
  | a :: rest => act a { s with agenda := rest }
  | [] => act (nextAgent s.fresh) { s with fresh := s.fresh + 1 }

/-- Log 5: slot 0 of core 0 is occupied by a task at VA 0, the word stands in the instruction buffer's line there, and the core
issues next. -/
def State.placeWord (s : State) (nbits w : Nat) : State :=
  let k := s.core 0
  let line : ILine := ⟨k.domain.toNat, 0, leBytes 64 (w % 2 ^ nbits)⟩
  let k := { k.putLine line with lastSlot := 15 }
  { s.setCore 0 (k.setSlot 0 { k.slot 0 with status := .occupied, pc := 0 }) with agenda := [.issue 0] }

end Sys2Proof.Machine
end

