-- ==== Sys2Proof/Machine/Step.lean ====
section
/-! DEFINITION. One step of the module, and where step finds its next instruction. -/

namespace Sys2Proof.Machine

/-- One step: one agent of the module moves. -/
def step (s : State) : Host.Outcome State Fault Refusal := stepAgent s

/-- The state with an instruction placed where step fetches its next one (log 5). -/
def State.withFetchWord (s : State) (nbits w : Nat) : State := s.placeWord nbits w

end Sys2Proof.Machine
end

