-- ==== Sys2Proof/Safety.lean ====
section
/-! DEFINITION. What counts as a safe run, in the terms that claims use: what a step leads to, what a run reaches, a state whose
memory is in its canonical form, and what an instruction's own effect is. -/

namespace Sys2Proof.Machine

/-- `t` is the state after one step from `s`. -/
def Steps (s t : State) : Prop := step s = .next t

/-- `t` is reached from `s` by zero or more steps. -/
inductive Reaches : State → State → Prop where
  | refl (s : State) : Reaches s s
  | tail (s t u : State) : Reaches s t → Steps t u → Reaches s u

/-- Memory is in its one canonical form. -/
def MemoryOk (s : State) : Prop := Memory.wf s.mem = true

/-- What keeps `P` true of the state, whatever it answers. -/
def Keeps (P : State → Prop) (o : Out) : Prop := ∀ t, o = .next t → P t

/-- A step answers a next state: no fault, no refusal. -/
def Completes (o : Out) : Prop := ∃ t, o = .next t

/-- Every state that a run reaches has a next state, until the module has lost its power (R445). -/
def SafeFrom (s : State) : Prop := ∀ t, Reaches s t → t.power ≠ .off → Completes (step t)

/-- What an access to the running slot's program sees is as before: every byte of memory. -/
def SameMemory (s t : State) : Prop := ∀ a, readByte t.mem a = readByte s.mem a

/-- The general registers of the running slot but those of `ds` are as before: value, empty bit and poison (R200 to R203). -/
def SameRegsBut (ds : List Reg) (s t : State) : Prop := ∀ r, r ∉ ds → t.curSlot.cell r = s.curSlot.cell r

/-- The predicates of the running slot but those of `ps` are as before (R213). -/
def SamePredsBut (ps : List PReg) (s t : State) : Prop := ∀ p, p ∉ ps → t.curSlot.pcell p = s.curSlot.pcell p

end Sys2Proof.Machine
end

