-- ==== Sys2Proof/Certificates/Slice0/Obligations.lean ====
section
/-! DEFINITION. The statements for the provers, and the words they are said in: which states and operands an instruction acts on,
and what it leaves. Each names the rule of the specification that it formalises, or says that it is the model's choice. -/

namespace Sys2Proof.Claims

open Sys2Proof.Machine

/-! ### States and operands on which a word of the running slot acts -/

/-- R115, R213: the guard's predicate is not pending, and the guard lets the word act. -/
def Passes (g : Guard) (s : State) : Prop := s.curSlot.pcell g.p = ⟨!g.neg, false⟩

/-- R200, R203: gr is full, not poisoned, and holds `v`. -/
def Holds (s : State) (r : Reg) (v : Word) : Prop := s.curSlot.cell r = ⟨v, false, none⟩

/-- R202: gd waits for no fill. -/
def Free (s : State) (d : Reg) : Prop := (s.curSlot.cell d).empty = false

/-- R213: predicate `p` is not pending and reads `v`. -/
def PHolds (s : State) (p : PReg) (v : Bool) : Prop := s.curSlot.pcell p = ⟨v, false⟩

/-- R213: pd waits for no reply. -/
def PFree (s : State) (d : PReg) : Prop := (s.curSlot.pcell d).pending = false

/-! ### What a word leaves -/

/-- Nothing of the module is changed but the running slot: no other slot, core, queue, request, special register or byte of memory. -/
def OnlySlot (s t : State) : Prop := t = s.setCurSlot t.curSlot ∧ SameMemory s t

/-- The task's own fields are as before: status, speculation, serial, channel, privilege, handler record, gang. -/
def SameTask (s t : State) : Prop :=
  t.curSlot.status = s.curSlot.status ∧ t.curSlot.spec = s.curSlot.spec ∧ t.curSlot.serial = s.curSlot.serial ∧
  t.curSlot.chan = s.curSlot.chan ∧ t.curSlot.priv = s.curSlot.priv ∧ t.curSlot.handler = s.curSlot.handler ∧
  t.curSlot.gang = s.curSlot.gang ∧ t.curSlot.fromQueue = s.curSlot.fromQueue

/-- R218: the word has completed: pc and loop stack are those of end processing, and no part of it is still to come. -/
def Onward (s t : State) : Prop :=
  (t.curSlot.pc, t.curSlot.loops) = endProcess s.curSlot.pc s.curSlot.loops ∧ t.curSlot.prog = .idle

/-- The word completed, having written `v` to gd (to g0: discarded, R200) and nothing else. -/
def WroteReg (o : Out) (s : State) (d : Reg) (v : Word) : Prop :=
  ∃ t, o = .next t ∧ t.curSlot.cell d = (if d = 0 then RegCell.zero else ⟨v, false, none⟩) ∧ SameRegsBut [d] s t ∧
    SamePredsBut [] s t ∧ Onward s t ∧ SameTask s t ∧ OnlySlot s t

/-- The word completed, having written `v` to pd (to p0: discarded, R212) and nothing else. -/
def WrotePred (o : Out) (s : State) (d : PReg) (v : Bool) : Prop :=
  ∃ t, o = .next t ∧ t.curSlot.pcell d = (if d = 0 then ⟨true, false⟩ else ⟨v, false⟩) ∧ SameRegsBut [] s t ∧
    SamePredsBut [d] s t ∧ Onward s t ∧ SameTask s t ∧ OnlySlot s t

/-- Control went to `pc` with loop stack `loops`; registers but those of `ds` and everything else as before. -/
def WentTo (t s : State) (pc : Word) (loops : List LoopEntry) (ds : List Reg) : Prop :=
  t.curSlot.pc = pc ∧ t.curSlot.loops = loops ∧ SameRegsBut ds s t ∧ SamePredsBut [] s t ∧ SameTask s t ∧ OnlySlot s t

/-- The word traps with `c` and this detail, EINFO1 and EINFO2: the module takes the exception (R402). -/
def Traps (o : Out) (s : State) (c : Cause) (detail : Nat) (info1 : Word) (info2 : Word := 0) : Prop :=
  o = .next (s.takeTrap ⟨c, detail, info1, info2⟩)

/-- The slot stalls: nothing changes, and the word issues again (R197). -/
def Stalls (o : Out) (s : State) : Prop := o = .next { s with stalled := true }

end Sys2Proof.Claims

open Sys2Proof Sys2Proof.Machine Sys2Proof.Claims


/-! ### Encodings (R115 to R124, R140) -/

/-- R115 to R124: decoding the word of a well-formed instruction gives the instruction back, with every operand at every value. -/
def Obligations.EncodeDecode : Prop :=
  ∀ (i : Instr) (w : Word), i.wf = true → encode i = some w → decode w = .ok i

/-- R140: a word that decodes is well formed and is that instruction's one word: no bit of it is free. -/
def Sys2Proof.Claims.DecodeEncode : Prop :=
  ∀ (w : Word) (i : Instr), decode w = .ok i → i.wf = true ∧ encode i = some w

/-- Table 5-21's first row: what is no instruction. Op 0x00 and unassigned majors, guard 0b1000, a nonzero unused field, an fn or a code
that no table lists. -/
def Sys2Proof.Claims.RefusedWords : Prop :=
  ∀ w : Word,
    ((∀ i v, encode i = some v → fld v 56 8 ≠ fld w 56 8) → decode w = .error .unassignedMajor) ∧
    (fld w 56 8 = 0 → decode w = .error .unassignedMajor) ∧
    (fld w 52 4 = 8 → ∀ i, decode w ≠ .ok i) ∧
    (fld w 56 8 = 0x01 → fld w 0 52 ≠ 0 → ∀ i, decode w ≠ .ok i) ∧
    (fld w 56 8 = 0x10 → (fld w 28 6 ≠ 0 ∨ fld w 0 26 ≠ 0) → ∀ i, decode w ≠ .ok i) ∧
    (fld w 56 8 = 0x30 → fld w 32 7 ≠ 0 → ∀ i, decode w ≠ .ok i) ∧
    ((fld w 56 8 = 0x40 ∧ 9 < (fld w 16 4).toNat ∨ fld w 56 8 = 0x5B ∧ 5 < (fld w 32 4).toNat) → ∀ i, decode w ≠ .ok i) ∧
    ((fld w 56 8 = 0x60 ∨ fld w 56 8 = 0x70 ∨ fld w 56 8 = 0x80) →
      5 < (fld w (if fld w 56 8 = 0x80 then 16 else 25) 3).toNat → ∀ i, decode w ≠ .ok i) ∧
    (fld w 56 8 = 0x34 → 63 < (fld w 0 32).toNat → ∀ i, decode w ≠ .ok i) ∧
    ((fld w 56 8 = 0x62 ∨ fld w 56 8 = 0x63) → fld w 46 1 = 1 → ∀ i, decode w ≠ .ok i) ∧
    (fld w 56 8 = 0x70 → (fld w 28 2).toNat < 2 → ∀ i, decode w ≠ .ok i) ∧
    (fld w 56 8 = 0x79 → fld w 28 2 = 3 → ∀ i, decode w ≠ .ok i) ∧
    (fld w 56 8 = 0x90 → fld w 14 5 ∈ [0x0F, 0x16, 0x17, 0x1E] → ∀ i, decode w ≠ .ok i)

/-- Table 5-22, R116 to R123: words worked from the encoding tables, one of each form. -/
def Obligations.WordsOfTable : Prop :=
  decode 0x3801400000000005 = .ok (.movi ⟨⟨false, 0⟩, 5, 5⟩) ∧
  decode 0x1001041400000000 = .ok (.add ⟨⟨false, 0⟩, 4, 4, 5, false, false⟩) ∧
  decode 0x30014500FFFFFFFF = .ok (.addi ⟨⟨false, 0⟩, 5, 5, false, 0xFFFFFFFF⟩) ∧
  decode 0x3A00450500000000 = .ok (.cmpi ⟨⟨false, 0⟩, 1, 5, false, 5, 0⟩) ∧
  decode 0x50100000FFFFFFFD = .ok (.br ⟨⟨false, 1⟩, 0xFFFFFFFD⟩) ∧
  decode 0x5600000000000000 = .ok (.endTask ⟨⟨false, 0⟩⟩)

namespace Sys2Proof.Claims

open Sys2Proof.Machine

/-- The agenda names core `c` next, with `rest` after it, and the module is powered (R443). -/
def IssuesNext (s : State) (c : Nat) (rest : List Agent) : Prop :=
  s.agenda = .issue c :: rest ∧ s.power = .on ∧ coreOk c = true

/-- R195, R197, R230, R429: slot `n` of core `c` is neither free, suspended nor halted, no speculation of it waits to be resolved, no read in its
gang's log is still to be issued again, and word `w` at its pc stands in the instruction buffer. -/
def Fetches (s : State) (c n : Nat) (w : Word) : Prop :=
  ((s.core c).slot n).status = .occupied ∧ s.frozen ((s.core c).slot n).gang = false ∧ ((s.core c).slot n).deciding = false ∧
  (s.core c).replaying n = false ∧ (s.core c).fetchWord ((s.core c).slot n).pc = some w

end Sys2Proof.Claims

/-! ### One step (R124, R197 to R199) -/

/-- R198, R199: when a core moves, the first slot after the one that issued last issues the instruction that its word decodes to: step is
exec of it, at the slot, and the slot is the one that issued last. While it stalls the slots after it are tried. -/
def Obligations.StepRunsDecoded : Prop :=
  ∀ (s : State) (c n : Nat) (ns : List Nat) (rest : List Agent) (w : Word) (i : Instr),
    IssuesNext s c rest → slotOrder (s.core c).lastSlot = n :: ns → Fetches s c n w → decode w = .ok i →
    let u := (({ s with agenda := rest } : State).issuing c n).fetched
    u.cur = ⟨c, n⟩ ∧ u.stalled = false ∧ u.mem = s.mem ∧ u.curSlot = (s.core c).slot n ∧
    (∀ t, exec i u = .next t → t.stalled = false → step s = .next (t.onCore c fun k => { k with lastSlot := n })) ∧
    (∀ t, exec i u = .next t → t.stalled = true → step s = issueFrom c ns t)

/-- R198: the slots are tried in a ring that begins after the one that issued last; one that is free, suspended, halted, whose word is
not in the buffer, whose speculation is about to be resolved, or whose log is not yet replayed (R429), is passed over; one whose word decodes runs it as in StepRunsDecoded; with none left the core has stalled. -/
def Obligations.SlotsInTurn : Prop :=
  ∀ (s : State) (c n : Nat) (ns : List Nat),
    (∀ last < 16, (slotOrder last).length = 16 ∧ ∀ k < 16, (slotOrder last)[k]? = some ((last + 1 + k) % 16)) ∧
    issueFrom c [] s = .next { s with stalled := true } ∧
    (((s.core c).slot n).status ≠ .occupied ∨ s.frozen ((s.core c).slot n).gang = true ∨
        ((s.core c).slot n).deciding = true ∨ (s.core c).replaying n = true ∨ (s.core c).fetchWord ((s.core c).slot n).pc = none →
      issueFrom c (n :: ns) s = issueFrom c ns { s.issuing c n with stalled := true }) ∧
    (∀ w i, Fetches s c n w → decode w = .ok i →
      (∀ t, exec i (s.issuing c n).fetched = .next t → t.stalled = false →
        issueFrom c (n :: ns) s = .next (t.onCore c fun k => { k with lastSlot := n })) ∧
      (∀ t, exec i (s.issuing c n).fetched = .next t → t.stalled = true → issueFrom c (n :: ns) s = issueFrom c ns t))

/-- R140, R402: a word that is no instruction traps ILLEGAL at issue, with the word in EINFO1; with a fault record free and c63 bound the
slot is suspended at it and the record is posted to c63. -/
def Obligations.UnassignedWordTraps : Prop :=
  ∀ (s : State) (c n ix : Nat) (ns : List Nat) (rest : List Agent) (w : Word) (e : DecodeError),
    IssuesNext s c rest → slotOrder (s.core c).lastSlot = n :: ns → Fetches s c n w → decode w = .error e →
    ((s.core c).slot n).spec = none → ((s.core c).slot n).handler = none → (s.core c).freeFrec = some ix →
    ((s.core c).chan 63).valid = true →
    ∃ t r, step s = .next t ∧ SameMemory s t ∧ (t.core c).slot n = { (s.core c).slot n with status := .suspended } ∧
      (t.core c).frecs.find? ix = some r ∧ r.cause = .illegal ∧ r.epc = ((s.core c).slot n).pc ∧ r.info1 = w ∧
      r.subject = .slot n ∧ (t.core c).chan 63 = ((s.core c).chan 63).post (r.msg ix)

/-- An event of another agent runs as its row's meaning; one that is not well formed, or that HOLD keeps back (R444), changes nothing.
Without power nothing moves until cold reset (R445), but for the shock sensors, which go on logging (R452).
Which events HOLD keeps back is deduced (log 10). -/
def Obligations.StepRunsEvent : Prop :=
  ∀ (s : State) (i : Instr) (rest : List Agent), s.agenda = .event i :: rest →
    (s.power = .on → i.wf = true → encode i = none → step s = exec i { s with agenda := rest, stalled := false }) ∧
    (s.power = .on → (i.wf = false ∨ (encode i).isSome = true) → step s = .next { s with agenda := rest }) ∧
    (∀ a b, s.power = .hold a b → i.wf = true → encode i = none →
      step s = if heldEvent i then exec i { s with agenda := rest, stalled := false } else .next { s with agenda := rest }) ∧
    (s.power = .off → ((∃ o, i = .coldReset o) ∨ ∃ o, i = .shockEvent o) → step s = exec i { s with agenda := rest, stalled := false }) ∧
    (s.power = .off → (∀ o, i ≠ .coldReset o) → (∀ o, i ≠ .shockEvent o) → step s = .fault .poweredOff)

/-- Derived from R2, R445: while the module has power every step answers a next state: no program, no data and no event ends a run. -/
def Obligations.PoweredStepsComplete : Prop :=
  ∀ s : State, s.power ≠ .off → Completes (step s)

/-- The model's own invariant (log 3): from every state whose memory is in its canonical form (addresses strictly rising, no byte listed
that reads as an unlisted one), a step leads to one whose memory is. -/
def Obligations.StepKeepsMemoryOk : Prop :=
  ∀ s t : State, MemoryOk s → Steps s t → MemoryOk t

/-- The module after reset has its memory in canonical form. -/
def Sys2Proof.Claims.ResetMemoryOk : Prop := MemoryOk State.reset

/-- R446, R102, R325: the state before the first step has on every core PTBASE, PERMITS, BUDGET with its held field, CVSTAT and DOMAIN at 0, WDOG and
MEMTO, every field of RAILSEL (Table 7-4: sgate, mxr and cpr 0, cmap 0xFAC688 on every die) and CLASP0 to CLASP7 (Table 10-16: every field 0) at the
reset values of their tables, its buffer records and counters at 0, its slots free, its channels unbound, no gang, region, command or token; STITCH
and TICK are 0; memory lists nothing (log 3). -/
def Sys2Proof.Claims.ResetValues : Prop :=
  State.reset.mem = [] ∧ State.reset.stitch = 0 ∧ State.reset.tick = 0 ∧ State.reset.gangs = [] ∧ State.reset.launches = [] ∧
  (∀ d, State.reset.cmaps.get cmapReset d = 0xFAC688 ∧ State.reset.cmapsNow.get cmapReset d = 0xFAC688) ∧
  ∀ c, let k := State.reset.core c
    (∀ n, (k.slot n).status = .free) ∧ (∀ n, k.record n = 0) ∧ (∀ n, k.sb n = 0) ∧ k.frecs = [] ∧ k.conts = [] ∧
    (∀ n < 64, (k.chan n).valid = false) ∧ k.ptbase = 0 ∧ k.permits = 0 ∧ k.budget = 0 ∧ k.cvPriv = 0 ∧
    k.domain = 0 ∧ k.wdog = 0x2710 ∧ k.memto = 0xF4240 ∧
    k.budgetHeld = 0 ∧ k.sgate = false ∧ k.mxr = 0 ∧ k.cpr = 0 ∧
    (∀ n < 8, k.clasp n = ⟨false, false, 0, 0, 0⟩ ∧ k.claspWord n = 0) ∧ k.regions = [] ∧ k.mxq = [] ∧ k.xus = []
/-! ### Integer instructions (R205 to R210) -/

/-- R205, Table 9-1: the two-operand instructions without a sign slot, with the other fields of the machine as before. ROTL is the
union of two shifts. Shift counts are gB[5:0]. -/
def Obligations.AluResults : Prop :=
  ∀ (s : State) (g : Guard) (d a b : Reg) (fea feb : Bool) (x y : Word),
    Passes g s → Holds s a x → Holds s b y → Free s d →
    WroteReg (exec (.add ⟨g, d, a, b, fea, feb⟩) s) s d (x + y) ∧
    WroteReg (exec (.sub ⟨g, d, a, b, fea, feb⟩) s) s d (x - y) ∧
    WroteReg (exec (.mul ⟨g, d, a, b, fea, feb⟩) s) s d (BitVec.ofNat 64 (x.toNat * y.toNat)) ∧
    WroteReg (exec (.and ⟨g, d, a, b, fea, feb⟩) s) s d (x &&& y) ∧
    WroteReg (exec (.or ⟨g, d, a, b, fea, feb⟩) s) s d (x ||| y) ∧
    WroteReg (exec (.xor ⟨g, d, a, b, fea, feb⟩) s) s d (x ^^^ y) ∧
    WroteReg (exec (.andn ⟨g, d, a, b, fea, feb⟩) s) s d (x &&& ~~~y) ∧
    WroteReg (exec (.shl ⟨g, d, a, b, fea, feb⟩) s) s d (x <<< (y.extractLsb' 0 6).toNat) ∧
    WroteReg (exec (.shr ⟨g, d, a, b, fea, feb⟩) s) s d (x >>> (y.extractLsb' 0 6).toNat) ∧
    WroteReg (exec (.sar ⟨g, d, a, b, fea, feb⟩) s) s d (BitVec.ofInt 64 (x.toInt / 2 ^ (y.extractLsb' 0 6).toNat)) ∧
    WroteReg (exec (.rotl ⟨g, d, a, b, fea, feb⟩) s) s d
      (x <<< (y.extractLsb' 0 6).toNat ||| x >>> (64 - (y.extractLsb' 0 6).toNat))

namespace Sys2Proof.Claims

open Sys2Proof.Machine

/-- The value of a word under the sign slot: s() or u() (R205). -/
def val (uns : Bool) (x : Word) : Int := if uns then (x.toNat : Int) else x.toInt

/-- R206's pseudocode: the quotient and the remainder of two values, rounded towards zero. -/
def divRem (uns : Bool) (x y : Word) : Word × Word :=
  if y = 0 then (0xFFFFFFFFFFFFFFFF, x)
  else if uns = false ∧ x = 0x8000000000000000 ∧ y.toInt = -1 then (0x8000000000000000, 0)
  else
    let q := (val uns x).tdiv (val uns y)
    (BitVec.ofInt 64 q, BitVec.ofInt 64 (val uns x - q * val uns y))

end Sys2Proof.Claims

/-- R205, R206: the two-operand instructions with a sign slot: MULH gives bits [127:64] of the 128-bit product, DIV and REM follow
R206, MIN and MAX compare under the sign slot. -/
def Obligations.SignedAluResults : Prop :=
  ∀ (s : State) (g : Guard) (d a b : Reg) (fea feb uns : Bool) (x y : Word),
    Passes g s → Holds s a x → Holds s b y → Free s d →
    WroteReg (exec (.mulh ⟨g, d, a, b, fea, feb, uns⟩) s) s d ((BitVec.ofInt 128 (val uns x * val uns y)).extractLsb' 64 64) ∧
    WroteReg (exec (.div ⟨g, d, a, b, fea, feb, uns⟩) s) s d (divRem uns x y).1 ∧
    WroteReg (exec (.rem ⟨g, d, a, b, fea, feb, uns⟩) s) s d (divRem uns x y).2 ∧
    WroteReg (exec (.min ⟨g, d, a, b, fea, feb, uns⟩) s) s d (if val uns y < val uns x then y else x) ∧
    WroteReg (exec (.max ⟨g, d, a, b, fea, feb, uns⟩) s) s d (if val uns x < val uns y then y else x)

/-- Derived from R206: on every pair of words, also where the divisor is 0 or the quotient overflows, quotient × divisor + remainder
is the dividend modulo 2^64. -/
def Obligations.DivRemIdentity : Prop :=
  ∀ (uns : Bool) (x y : Word), quotient uns x y * y + remainder uns x y = x

/-- R205: CLZ, CTZ and POPC by what they count: every bit above the leading one (below the trailing one) is 0, and POPC is the
number of bits set. -/
def Sys2Proof.Claims.BitCounts : Prop :=
  ∀ (s : State) (g : Guard) (d a : Reg) (fea : Bool) (x : Word),
    Passes g s → Holds s a x → Free s d →
    (∃ n ≤ 64, WroteReg (exec (.clz ⟨g, d, a, fea⟩) s) s d (BitVec.ofNat 64 n) ∧
      (∀ i < 64, 64 ≤ i + n → x.getLsbD i = false) ∧ (n < 64 → x.getLsbD (63 - n) = true)) ∧
    (∃ n ≤ 64, WroteReg (exec (.ctz ⟨g, d, a, fea⟩) s) s d (BitVec.ofNat 64 n) ∧
      (∀ i < n, x.getLsbD i = false) ∧ (n < 64 → x.getLsbD n = true)) ∧
    WroteReg (exec (.popc ⟨g, d, a, fea⟩) s) s d (BitVec.ofNat 64 ((List.range 64).countP fun i => x.getLsbD i))

/-- R207: BEXT, EXT and BINS, bit by bit, under a descriptor of position p = desc[5:0] and width w = min(desc[14:8], 64 - p). -/
def Sys2Proof.Claims.FieldResults : Prop :=
  ∀ (s : State) (g : Guard) (d a b c : Reg) (fea feb fec : Bool) (x y z : Word) (p w : Nat),
    Passes g s → Holds s a x → Holds s b y → Holds s c z → Free s d →
    (p = (y.extractLsb' 0 6).toNat → w = min (y.extractLsb' 8 7).toNat (64 - p) →
      (∃ v : Word, WroteReg (exec (.bext ⟨g, d, a, b, fea, feb⟩) s) s d v ∧
        ∀ i < 64, v.getLsbD i = (decide (i < w) && x.getLsbD (p + i))) ∧
      (∃ v : Word, WroteReg (exec (.ext ⟨g, d, a, b, fea, feb⟩) s) s d v ∧
        ∀ i < 64, v.getLsbD i = (decide (0 < w) && x.getLsbD (p + min i (w - 1))))) ∧
    (p = (z.extractLsb' 0 6).toNat → w = min (z.extractLsb' 8 7).toNat (64 - p) →
      ∃ v : Word, WroteReg (exec (.bins ⟨g, d, a, b, c, fea, feb, fec⟩) s) s d v ∧
        ∀ i < 64, v.getLsbD i = if p ≤ i ∧ i < p + w then y.getLsbD (i - p) else x.getLsbD i)

/-- R205, R208: MAD, and SEL, which reads only the operand that the predicate selects: the other may be empty or poisoned. -/
def Sys2Proof.Claims.MadSelResults : Prop :=
  ∀ (s : State) (g : Guard) (d a b c : Reg) (fea feb fec : Bool) (x y z : Word) (p : PReg) (neg v : Bool),
    Passes g s → Free s d →
    (Holds s a x → Holds s b y → Holds s c z →
      WroteReg (exec (.mad ⟨g, d, a, b, c, fea, feb, fec⟩) s) s d (x * y + z)) ∧
    (PHolds s p v → (v = true ↔ neg = false) → Holds s a x →
      WroteReg (exec (.sel ⟨g, d, a, b, fea, feb, p, neg⟩) s) s d x) ∧
    (PHolds s p v → ¬(v = true ↔ neg = false) → Holds s b y →
      WroteReg (exec (.sel ⟨g, d, a, b, fea, feb, p, neg⟩) s) s d y)

/-- R209, R210, R117, R118: the immediate instructions. The shift counts are those that R117 admits.
That MOVHI waits for an empty gD is deduced (log 21). -/
def Sys2Proof.Claims.ImmediateResults : Prop :=
  ∀ (s : State) (g : Guard) (d a : Reg) (fea : Bool) (x : Word) (imm : BitVec 32) (imm46 : BitVec 46) (imm18 : BitVec 18),
    Passes g s → Free s d →
    (Holds s a x →
      WroteReg (exec (.addi ⟨g, d, a, fea, imm⟩) s) s d (x + BitVec.ofInt 64 imm.toInt) ∧
      WroteReg (exec (.andi ⟨g, d, a, fea, imm⟩) s) s d (x &&& BitVec.ofInt 64 imm.toInt) ∧
      WroteReg (exec (.ori ⟨g, d, a, fea, imm⟩) s) s d (x ||| BitVec.ofInt 64 imm.toInt) ∧
      WroteReg (exec (.xori ⟨g, d, a, fea, imm⟩) s) s d (x ^^^ BitVec.ofInt 64 imm.toInt) ∧
      WroteReg (exec (.muli ⟨g, d, a, fea, imm⟩) s) s d (BitVec.ofInt 64 (x.toInt * imm.toInt)) ∧
      (imm.toNat ≤ 63 →
        WroteReg (exec (.shli ⟨g, d, a, fea, imm⟩) s) s d (x <<< imm.toNat) ∧
        WroteReg (exec (.shri ⟨g, d, a, fea, imm⟩) s) s d (x >>> imm.toNat) ∧
        WroteReg (exec (.sari ⟨g, d, a, fea, imm⟩) s) s d (BitVec.ofInt 64 (x.toInt / 2 ^ imm.toNat)))) ∧
    WroteReg (exec (.movi ⟨g, d, imm46⟩) s) s d (BitVec.ofInt 64 imm46.toInt) ∧
    WroteReg (exec (.movhi ⟨g, d, imm18⟩) s) s d (imm18 ++ ((s.curSlot.cell d).v.extractLsb' 0 46))

/-- R211, R212, Table 5-11: the ten conditions, as comparisons of s() or u() values, written to pD by CMP and CMPI. -/
def Sys2Proof.Claims.CompareResults : Prop :=
  ∀ (s : State) (g : Guard) (d : PReg) (a b : Reg) (fea feb : Bool) (x y : Word) (imm : BitVec 32),
    Passes g s → PFree s d → Holds s a x → Holds s b y →
    ∀ (code : BitVec 4) (f : Word → Word → Prop),
      (code, f) ∈ ([(0, fun u v => u = v), (1, fun u v => u ≠ v), (2, fun u v => u.toInt < v.toInt),
        (3, fun u v => v.toInt ≤ u.toInt), (4, fun u v => u.toInt ≤ v.toInt), (5, fun u v => v.toInt < u.toInt),
        (6, fun u v => u.toNat < v.toNat), (7, fun u v => v.toNat ≤ u.toNat), (8, fun u v => u.toNat ≤ v.toNat),
        (9, fun u v => v.toNat < u.toNat)] : List (BitVec 4 × (Word → Word → Prop))) →
      (∃ r : Bool, (r = true ↔ f x y) ∧ WrotePred (exec (.cmp ⟨g, d, a, b, fea, feb, code⟩) s) s d r) ∧
      (∃ r : Bool, (r = true ↔ f x (BitVec.ofInt 64 imm.toInt)) ∧ WrotePred (exec (.cmpi ⟨g, d, a, fea, code, imm⟩) s) s d r)

/-- R213: the predicate instructions. -/
def Sys2Proof.Claims.PredicateResults : Prop :=
  ∀ (s : State) (g : Guard) (d a b : PReg) (x y : Bool),
    Passes g s → PFree s d → PHolds s a x → PHolds s b y →
    WrotePred (exec (.pand ⟨g, d, a, b⟩) s) s d (x && y) ∧ WrotePred (exec (.por ⟨g, d, a, b⟩) s) s d (x || y) ∧
    WrotePred (exec (.pxor ⟨g, d, a, b⟩) s) s d (x ^^ y) ∧ WrotePred (exec (.pnot ⟨g, d, a⟩) s) s d (!x) ∧
    WrotePred (exec (.pmov ⟨g, d, a⟩) s) s d x

/-! ### Control transfer and hardware loops (R214 to R220) -/

/-- R214, R215: NOP, BR, JAL and JR. A taken transfer pops every loop entry that ends at its word (R218). JR to a misaligned address
traps ALIGN, beyond 2^52 XLATE, and transfers nothing. JAL to g0 leaves no link. -/
def Sys2Proof.Claims.TransferResults : Prop :=
  ∀ (s : State) (g : Guard) (d a : Reg) (fea : Bool) (off : BitVec 32) (x : Word),
    Passes g s →
    (∃ t, exec (.nop ⟨g⟩) s = .next t ∧ SameRegsBut [] s t ∧ SamePredsBut [] s t ∧ Onward s t ∧ SameTask s t ∧ OnlySlot s t) ∧
    (∃ t, exec (.br ⟨g, off⟩) s = .next t ∧ WentTo t s (s.curSlot.pc + BitVec.ofInt 64 (8 * off.toInt))
      (s.curSlot.loops.filter fun e => e.last ≠ s.curSlot.pc) []) ∧
    (Free s d → ∃ t, exec (.jal ⟨g, d, off⟩) s = .next t ∧
      t.curSlot.cell d = (if d = 0 then RegCell.zero else ⟨s.curSlot.pc + 8, false, none⟩) ∧
      WentTo t s (s.curSlot.pc + BitVec.ofInt 64 (8 * off.toInt)) (s.curSlot.loops.filter fun e => e.last ≠ s.curSlot.pc) [d]) ∧
    (Holds s a x → x.toNat % 8 = 0 → x.toNat < 2 ^ 52 → ∃ t, exec (.jr ⟨g, a, fea⟩) s = .next t ∧
      WentTo t s x (s.curSlot.loops.filter fun e => e.last ≠ s.curSlot.pc) []) ∧
    (Holds s a x → x.toNat % 8 ≠ 0 → Traps (exec (.jr ⟨g, a, fea⟩) s) s .align 0 x) ∧
    (Holds s a x → x.toNat % 8 = 0 → 2 ^ 52 ≤ x.toNat → Traps (exec (.jr ⟨g, a, fea⟩) s) s .xlate 2 x)

namespace Sys2Proof.Claims

open Sys2Proof.Machine

/-- R217's effect of LOOP and LOOPI of `n` passes, whose word is `w`. -/
def Looped (o : Out) (s : State) (w n : Word) (imm : BitVec 32) : Prop :=
  let last := s.curSlot.pc + BitVec.ofInt 64 (8 * imm.toInt)
  if imm.toInt < 1 then Traps o s .illegal 0 w
  else if n = 0 then ∃ t, o = .next t ∧ WentTo t s (last + 8) s.curSlot.loops []
  else if 4 ≤ s.curSlot.loops.length then Traps o s .loop 0 0
  else if ∃ top, s.curSlot.loops.head? = some top ∧ top.last.toNat < last.toNat then Traps o s .loop 2 0
  else ∃ t, o = .next t ∧ WentTo t s (s.curSlot.pc + 8) (⟨s.curSlot.pc + 8, last, n⟩ :: s.curSlot.loops) []

end Sys2Proof.Claims

/-- R217, R219: LOOP, LOOPI and LBRK with their traps; the loop stack's head is its top. -/
def Sys2Proof.Claims.LoopResults : Prop :=
  ∀ (s : State) (g : Guard) (a : Reg) (fea : Bool) (imm : BitVec 32) (count : BitVec 13) (x : Word),
    Passes g s →
    (Holds s a x → Looped (exec (.loop ⟨g, a, fea, imm⟩) s) s (wordOfInstr (.loop ⟨g, a, fea, imm⟩)) x imm) ∧
    Looped (exec (.loopi ⟨g, count, imm⟩) s) s (wordOfInstr (.loopi ⟨g, count, imm⟩)) (BitVec.ofNat 64 count.toNat) imm ∧
    (∀ top rest, s.curSlot.loops = top :: rest → ∃ t, exec (.lbrk ⟨g⟩) s = .next t ∧ WentTo t s (top.last + 8) rest []) ∧
    (s.curSlot.loops = [] → Traps (exec (.lbrk ⟨g⟩) s) s .loop 1 0)

/-- R218: end processing at the word at `a`. Entries that end there with one pass left are popped, innermost first; the first that
has more passes to run sends control to its start; otherwise control goes on at `a` + 8, and entries that end elsewhere stay. -/
def Sys2Proof.Claims.EndProcessing : Prop :=
  ∀ (a : Word) (spent rest : List LoopEntry) (e : LoopEntry),
    (∀ x ∈ spent, x.last = a ∧ x.count = 1) →
    endProcess a spent = (a + 8, []) ∧
    (e.last = a → e.count ≠ 1 → endProcess a (spent ++ e :: rest) = (e.start, { e with count := e.count - 1 } :: rest)) ∧
    (e.last ≠ a → endProcess a (spent ++ e :: rest) = (a + 8, e :: rest))

/-- R115, R199, R201, R203, R213, R231: where a word of ADD's shape, of CMP's and of SEL's does not act. A pending guard stalls; a false guard
completes with no effect, whatever the operands; an empty operand stalls under FE = 0 and traps EMPTY under FE = 1; a poisoned one
traps with the reply's cause; an empty destination, and a pending predicate, wait. -/
def Obligations.OperandChecks : Prop :=
  ∀ (s : State) (g : Guard) (d a b : Reg) (p q : PReg) (fea feb : Bool) (code : BitVec 4),
    ((s.curSlot.pcell g.p).pending = true → Stalls (exec (.add ⟨g, d, a, b, fea, feb⟩) s) s) ∧
    (s.curSlot.pcell g.p = ⟨g.neg, false⟩ → ∃ t, exec (.add ⟨g, d, a, b, fea, feb⟩) s = .next t ∧ SameRegsBut [] s t ∧
      SamePredsBut [] s t ∧ Onward s t ∧ SameTask s t ∧ OnlySlot s t) ∧
    (Passes g s → (s.curSlot.cell a).empty = true → fea = false → Stalls (exec (.add ⟨g, d, a, b, fea, feb⟩) s) s) ∧
    (Passes g s → (s.curSlot.cell a).empty = true → fea = true →
      Traps (exec (.add ⟨g, d, a, b, fea, feb⟩) s) s .empty 0 (BitVec.ofNat 64 a.toNat)) ∧
    (∀ t, Passes g s → (s.curSlot.cell a).empty = false → (s.curSlot.cell a).poison = some t →
      exec (.add ⟨g, d, a, b, fea, feb⟩) s = .next (s.takeTrap t)) ∧
    (∀ x y, Passes g s → Holds s a x → Holds s b y → (s.curSlot.cell d).empty = true →
      Stalls (exec (.add ⟨g, d, a, b, fea, feb⟩) s) s) ∧
    (∀ x y, Passes g s → Holds s a x → Holds s b y → (s.curSlot.pcell p).pending = true →
      Stalls (exec (.cmp ⟨g, p, a, b, fea, feb, code⟩) s) s) ∧
    (Passes g s → (s.curSlot.pcell q).pending = true → Stalls (exec (.sel ⟨g, d, a, b, fea, feb, q, false⟩) s) s ∧
      Stalls (exec (.pmov ⟨g, p, q⟩) s) s)

namespace Sys2Proof.Claims

open Sys2Proof.Machine

/-! ### Words that send a request -/

/-- The special registers of a core, its buffer records, counters, clasps, fault and continuation records and channels. -/
def coreRegs (k : Core) :=
  ((k.domain, k.ptbase, k.wdog, k.memto, k.sgate, k.mxr, k.cpr), (k.permits, k.budget, k.serial, k.cvPriv, k.clasps),
    (k.records, k.badRecords, k.sbs), k.frecs, k.conts, k.chans)

/-- Every core's special registers, records, counters, channels and conversion status are as before. -/
def SameSpecials (s t : State) : Prop :=
  ∀ c, coreRegs (t.core c) = coreRegs (s.core c) ∧ ∀ g, (t.core c).cvstat g = (s.core c).cvstat g

/-- No acquire of the slot is still to be performed (R358), and it does not speculate (R228). -/
def MayIssue (s : State) : Prop := s.curCore.acquiring s.cur.slot = false ∧ s.curSlot.spec = none

/-- R322, R324: record `br` reads `r`: no RECLD to it is outstanding and it is not marked poisoned. -/
def RecordIs (s : State) (br : RecIx) (r : BitVec 256) : Prop :=
  recldPending s.curCore br = false ∧ s.curCore.badRecords.find? br.toNat = none ∧ s.curCore.record br.toNat = r

/-- The word completed, having sent request `r` as the core's next (one for the core itself is at its home at once, R317) and marked
the registers of `ds` empty (R200), g0 excepted; nothing in memory is changed yet. -/
def Issued (o : Out) (s : State) (r : Req) (ds : List Reg) : Prop :=
  ∃ t, o = .next t ∧
    t.curCore.reqs = s.curCore.reqs ++
      [{ r with id := s.curCore.nextReq, phase := if r.dest.isLocal s.cur.core then .home else .sent }] ∧
    (∀ d ∈ ds, d ≠ 0 → t.curSlot.cell d = { s.curSlot.cell d with empty := true }) ∧ SameRegsBut ds s t ∧ SamePredsBut [] s t ∧
    Onward s t ∧ SameTask s t ∧ SameSpecials s t ∧ SameMemory s t

/-- The word completed with a reply `p` that is back at once: the registers of `ds` are empty until it fills them. -/
def Answered (o : Out) (s : State) (r : Req) (p : Reply) (ds : List Reg) : Prop :=
  ∃ t, o = .next t ∧ t.curCore.reqs = s.curCore.reqs ++ [{ r with id := s.curCore.nextReq, phase := .back p }] ∧
    (∀ d ∈ ds, d ≠ 0 → t.curSlot.cell d = { s.curSlot.cell d with empty := true }) ∧ SameRegsBut ds s t ∧ SamePredsBut [] s t ∧
    Onward s t ∧ SameTask s t ∧ SameSpecials s t ∧ SameMemory s t

/-- The trap `e` is taken (R402). -/
def TrapsAs (o : Out) (s : State) (e : Trap) : Prop := o = .next (s.takeTrap e)

/-- The access of an M-form word through record `r` at gA = `x` (R319). -/
def access (s : State) (r : BitVec 256) (br : RecIx) (x : Word) (imm : Int) (size : Nat) (u : Use) (rd wr : Bool) :
    Except Trap (Option Target) := s.recAccess s.curIssuer r br.toNat (x.toInt + imm) size u rd wr

end Sys2Proof.Claims

namespace Sys2Proof.Claims

open Sys2Proof.Machine

/-- R356: request `id` of core `c` is `r`, it is at its home, and nothing holds it there: no refusal (R418), no earlier access of its port
(R357, R358), no collar (R383), no lost node (R419), no arbiter (R349, R350). A read that a slot barrier holds looks at its word through the
buffers, which then hold its translation (R99): `u`. -/
def AtHome (s : State) (c id : Nat) (r : Req) : Prop :=
  (s.core c).req? id = some r ∧ r.id = id ∧
  let u := s.lookHold c ((s.core c).reqPort c r) r.tgt.hold
  u.servable c r = true ∧ (u.grant c r).2 = true

/-- The request has been performed, and its reply `p` is on its way or back. -/
def Replied (t : State) (c id : Nat) (p : Reply) : Prop :=
  ∃ r, (t.core c).req? id = some r ∧ (r.phase = .done p ∨ r.phase = .back p)

/-- The memory bytes that a target performs: from the home's key + lo, `len` of them. -/
def Inside (t : Target) (key a : Nat) : Prop := key + t.lo ≤ a ∧ a < key + t.lo + t.len

end Sys2Proof.Claims

namespace Sys2Proof.Claims

open Sys2Proof.Machine

/-- The general registers and predicates that a word of the control processor writes at issue, or marks empty for its reply (R200); `none`:
a word that ends its task, waits, pops a queue or restores a gang, or another agent's event. -/
def destsOf : Instr → Option (List Reg × List PReg)
  | .add o | .sub o | .mul o | .and o | .or o | .xor o | .andn o | .shl o | .shr o | .sar o | .rotl o | .bext o | .ext o => some ([o.d], [])
  | .mulh o | .div o | .rem o | .min o | .max o => some ([o.d], [])
  | .clz o | .ctz o | .popc o | .sgo o | .snext o | .sstop o | .barv o | .brd o => some ([o.d], [])
  | .bins o | .mad o => some ([o.d], [])
  | .clasp o => some ([o.d], [])
  | .sel o => some ([o.d], [])
  | .addi o | .andi o | .ori o | .xori o | .shli o | .shri o | .sari o | .muli o => some ([o.d], [])
  | .movi o => some ([o.d], [])
  | .movhi o => some ([o.d], [])
  | .cmp o => some ([], [o.d])
  | .cmpi o => some ([], [o.d])
  | .pand o | .por o | .pxor o => some ([], [o.d])
  | .pnot o | .pmov o => some ([], [o.d])
  | .jal o => some ([o.d], [])
  | .mfs o => some ([o.d], [])
  | .ld o => some ([o.d], [])
  | .ldp o => some ([o.d, o.d + 1], [])
  | .recget o => some ([o.d], [])
  | .aadd o | .amin o | .amax o | .aand o | .aor o | .axor o | .axchg o | .acas o | .ainc o | .afadd o | .amaxw o => some ([o.d], [])
  | .nop _ | .br _ | .jr _ | .loop _ | .loopi _ | .lbrk _ | .send _ | .push _ | .spec _ | .st _ | .stp _ | .recld _ | .recst _
  | .recset _ | .fence _ | .scfence _ | .binit _ | .bexp _ | .mts _ | .mtsChbind _ | .mtsCvstat _ | .mtsRailsel _ | .mtsBudget _
  | .mtsPermits _ | .mtsClasp _ | .mtsEpc _ | .cpy _ | .cpyg _ | .cpys _ | .cpyr _ | .cpym _ | .fill _ | .publish _ | .scfg _
  | .sbind _ | .sbar _ | .mtok _ | .trap _ | .bkpt _ | .tlbinv _ => some ([], [])
  | _ => none

end Sys2Proof.Claims

/-- Derived from R13, R200, R205 to R225, R402: in every state, also where the word stalls, traps or is guarded off, the registers and
predicates of a task that it leaves in its slot are as before but for the word's destinations. -/
def Obligations.RegisterFrame : Prop :=
  ∀ (i : Instr) (ds : List Reg) (ps : List PReg) (s t : State), destsOf i = some (ds, ps) → exec i s = .next t →
    t.cur = s.cur ∧ (t.curSlot.status ≠ .free → SameRegsBut ds s t ∧ SamePredsBut ps s t)

/-- Derived from R204, R356, R428: no word of the control processor but RESTORE changes a byte of memory when it issues; what a store, an atomic, a
copy or a barrier does to memory is done at its home, by its own event. -/
def Obligations.IssueStoresNothing : Prop :=
  ∀ (i : Instr) (s t : State), (encode i).isSome = true → (∀ o, i ≠ .restore o) → exec i s = .next t → SameMemory s t
/-! ### Tasks (R46 to R58, R221 to R232) -/

/-- R221, R204, R220, R407: END frees the slot: its registers, predicates and loop stack are gone, and replies still owed to it are
discarded on arrival; a handler's record is resolved and freed. While the slot speculates END stalls (R231). -/
def Sys2Proof.Claims.EndResults : Prop :=
  ∀ (s : State) (g : Guard), Passes g s →
    (s.curSlot.spec.isSome = true → Stalls (exec (.endTask ⟨g⟩) s) s) ∧
    (s.curSlot.spec = none → s.curSlot.handler = none → ∃ t, exec (.endTask ⟨g⟩) s = .next t ∧
      t.curSlot = Slot.free ∧ (∀ n, n ≠ s.cur.slot → t.curCore.slot n = s.curCore.slot n) ∧
      t.curCore.reqs = s.curCore.reqs.map (fun r => if r.slot = s.cur.slot ∨ r.unit.any (Port.ofSlot s.cur.slot) = true then { r with live := false } else r) ∧
      SameSpecials s t ∧ SameMemory s t) ∧
    (∀ ix, s.curSlot.spec = none → s.curSlot.handler = some ix → ∃ t, exec (.endTask ⟨g⟩) s = .next t ∧
      t.curSlot = Slot.free ∧ t.curCore.frecs.find? ix = none ∧ SameMemory s t)

namespace Sys2Proof.Claims

open Sys2Proof.Machine

/-- The slot awaits its own request `id`, which is back with reply `p` (R222, R373). -/
def AwaitedBack (s : State) (id : Nat) (p : Reply) : Prop :=
  s.curSlot.prog = .awaiting id ∧ ∃ r, s.curCore.reqs.find? (fun x => x.id == id) = some r ∧ r.phase = .back p

/-- The word stalls on the request `r` that it has just sent as the core's next. -/
def Sent (o : Out) (s : State) (r : Req) (prog : Nat → Prog) : Prop :=
  ∃ t, o = .next t ∧ t.stalled = true ∧
    t.curCore.reqs = s.curCore.reqs ++
      [{ r with id := s.curCore.nextReq, phase := if r.dest.isLocal s.cur.core then .home else .sent }] ∧
    t.curSlot = { s.curSlot with prog := prog s.curCore.nextReq } ∧ SameSpecials s t ∧ SameMemory s t

/-- The state once a word's own request `id` has been taken from the core's list. -/
def taken (s : State) (id : Nat) : State :=
  s.setCurCore { s.curCore with reqs := s.curCore.reqs.filter fun y => y.id != id }

/-- The state once the reply to the awaited request `id` has been taken, the word beginning anew. -/
def answered (s : State) (id : Nat) : State := (taken s id).setCurSlot { s.curSlot with prog := .idle }

/-- The slot's own request `id` of step `n` of a PUSH that reserved index `i`, `data` read so far, is back with reply `p` (R225). -/
def PushBack (s : State) (n id : Nat) (i : Word) (data : List Word) (p : Reply) : Prop :=
  s.curSlot.prog = .push n (some id) i data ∧ ∃ r, s.curCore.reqs.find? (fun z => z.id == id) = some r ∧ r.phase = .back p

/-- The state in which a PUSH begins step `n` (R225). -/
def pushing (s : State) (n : Nat) (i : Word) (data : List Word) : State :=
  s.setCurSlot { s.curSlot with prog := .push n none i data }

/-- R225, R345, R358: PUSH sends `r`, its request of step `n`, if the slot may issue it now; otherwise it waits to. -/
def Pushed (o : Out) (u : State) (r : Req) (n : Nat) (i : Word) (data : List Word) : Prop :=
  (u.curCore.acquiring u.cur.slot = false ∧ u.curCore.permitted u.cur.core r.dest = true →
    Sent o u r fun id => .push n (some id) i data) ∧
  (u.curCore.acquiring u.cur.slot = true ∨ u.curCore.permitted u.cur.core r.dest = false →
    ∃ t, o = .next t ∧ t.stalled = true ∧ t.curCore.reqs = u.curCore.reqs ∧ t.curSlot = u.curSlot ∧ SameMemory u t)

/-- The word completed: its registers, predicates and memory as before, and its own request gone. -/
def Finished (o : Out) (s : State) (id : Nat) : Prop :=
  ∃ t, o = .next t ∧ (∀ r ∈ t.curCore.reqs, r.id ≠ id) ∧ SameRegsBut [] s t ∧ SamePredsBut [] s t ∧ Onward s t ∧ SameTask s t ∧
    SameSpecials s t ∧ SameMemory s t

end Sys2Proof.Claims

/-- R222, R48: SEND. A core number above 383 traps CHAN with EINFO0 = 3, another domain's core DOMAIN; otherwise the message travels
and the slot stalls until the channel has accepted it, when SEND completes; at the target it joins the channel's FIFO, behind the
messages there, waits while the FIFO is full, and an unbound channel answers CHAN, which SEND takes. -/
def Sys2Proof.Claims.SendResults : Prop :=
  ∀ (s : State) (g : Guard) (a b : Reg) (fea feb : Bool) (x : Word) (vs : List Word),
    Passes g s → Holds s a x → vs.length = 7 → (∀ j < 7, Holds s (b + BitVec.ofNat 6 j) (vs.getD j 0)) → s.curSlot.spec = none →
    ((∀ id, s.curSlot.prog ≠ .awaiting id) →
      (384 ≤ (x.extractLsb' 6 9).toNat → ∃ dst, Traps (exec (.send ⟨g, a, b, fea, feb⟩) s) s .chan 3 dst) ∧
      ((x.extractLsb' 6 9).toNat < 384 → (s.core (x.extractLsb' 6 9).toNat).domain ≠ s.curCore.domain →
        ∃ dst other, Traps (exec (.send ⟨g, a, b, fea, feb⟩) s) s .domain 0 dst other) ∧
      ((x.extractLsb' 6 9).toNat < 384 → (s.core (x.extractLsb' 6 9).toNat).domain = s.curCore.domain →
        s.curCore.acquiring s.cur.slot = false →
        s.curCore.permitted s.cur.core (.channel (x.extractLsb' 6 9).toNat) = true →
        Sent (exec (.send ⟨g, a, b, fea, feb⟩) s) s
          (s.newReq (.send (x.extractLsb' 6 9).toNat (x.extractLsb' 0 6).toNat vs
            (BitVec.ofNat 64 (s.cur.core * 16 + s.cur.slot))) noTarget 0 0 false) .awaiting)) ∧
    (∀ id p, AwaitedBack s id p → (p.error = none → Finished (exec (.send ⟨g, a, b, fea, feb⟩) s) s id) ∧
      (∀ e, p.error = some e → TrapsAs (exec (.send ⟨g, a, b, fea, feb⟩) s) (answered s id) e)) ∧
    (∀ c id r core n aux, AtHome s c id r → r.op = .send core n vs aux →
      (((s.core core).chan n).valid = false → ∃ t, exec (.performedAtHome ⟨c, id⟩) s = .next t ∧
        Replied t c id (Reply.fail ⟨.chan, 0, BitVec.ofNat 64 (core * 64 + n), 0⟩)) ∧
      (((s.core core).chan n).valid = true → ((s.core core).chan n).held = [] → ((s.core core).chan n).fifo.length < 16 →
        ∃ t, exec (.performedAtHome ⟨c, id⟩) s = .next t ∧ Replied t c id Reply.empty ∧
          ((t.core core).chan n).fifo = ((s.core core).chan n).fifo ++ [⟨vs, aux, [], [], none, none, false⟩]) ∧
      (((s.core core).chan n).valid = true → (((s.core core).chan n).held ≠ [] ∨ 16 ≤ ((s.core core).chan n).fifo.length) →
        ∃ t, exec (.performedAtHome ⟨c, id⟩) s = .next t ∧ (t.core core).chan n = (s.core core).chan n ∧ SameMemory s t ∧
          (t.core c).req? id = some r))

namespace Sys2Proof.Claims

open Sys2Proof.Machine

/-- R55, R56: the task has ended with continuation record `ix` created as `t`, and the record is then looked at as CONTINUATION_POST does,
so that a condition found to hold posts it at once. -/
def EndedBy (o : Out) (s : State) (ix : Nat) (t : Cont) : Prop :=
  ∃ u v, o = .next v ∧ exec (.continuationPost ⟨s.cur.core, ix⟩) u = .next v ∧ u.curSlot = Slot.free ∧
    u.curCore.conts.find? ix = some t ∧ (∀ n, n ≠ s.cur.slot → u.curCore.slot n = s.curCore.slot n) ∧ SameMemory s u ∧
    v.curSlot = Slot.free ∧ SameMemory s v

/-- g48 to g63 as they stand (R55). -/
def keptCells (s : State) : List RegCell := (List.range 16).map fun j => s.curSlot.cell (BitVec.ofNat 6 (48 + j))

end Sys2Proof.Claims

/-- R223, R224, R55: WAIT and POP in block mode end the task: the slot is free, and a free continuation record keeps g48 to g63 as they
stand, the conditions with their registers' values (or the queue), the timeout, the channel; a condition found to hold posts it at once. With
no record free they trap CHAN (EINFO0 = 1), and no record is created; with a kept register empty they stall.
A handler's record is left as by END, which is deduced (log 15). -/
def Sys2Proof.Claims.WaitResults : Prop :=
  ∀ (s : State) (o : OpsWait) (p : OpsPopB) (v0 v1 v2 v3 tmo q : Word),
    s.curSlot.spec = none → s.curSlot.handler = none →
    (Passes o.g s → Holds s o.c0.reg v0 → Holds s o.c1.reg v1 → Holds s o.c2.reg v2 → Holds s o.c3.reg v3 → Holds s o.tmo tmo →
      (s.curSlot.keptFull = false → Stalls (exec (.wait o) s) s) ∧
      (s.curSlot.keptFull = true →
        s.condChecks [⟨o.c0.kind, v0, none⟩, ⟨o.c1.kind, v1, none⟩, ⟨o.c2.kind, v2, none⟩, ⟨o.c3.kind, v3, none⟩] = .ok () →
        ∀ ix, firstFree (fun i => (s.curCore.conts.find? i).isSome) 256 = some ix →
        EndedBy (exec (.wait o) s) s ix ⟨o.chan,
          .wait o.all [⟨o.c0.kind, v0, none⟩, ⟨o.c1.kind, v1, none⟩, ⟨o.c2.kind, v2, none⟩, ⟨o.c3.kind, v3, none⟩],
          if o.tmo = 0 then none else some tmo.toNat, keptCells s, s.curSlot.gang, s.curCore.domain.toNat, s.curSlot.priv, false⟩) ∧
      (s.curSlot.keptFull = true →
        s.condChecks [⟨o.c0.kind, v0, none⟩, ⟨o.c1.kind, v1, none⟩, ⟨o.c2.kind, v2, none⟩, ⟨o.c3.kind, v3, none⟩] = .ok () →
        firstFree (fun i => (s.curCore.conts.find? i).isSome) 256 = none →
        ∃ t, exec (.wait o) s = .next (State.takeTrap t ⟨.chan, 1, BitVec.ofNat 64 (s.cur.core * 64 + o.chan.toNat), 0⟩) ∧
          t.cur = s.cur ∧ t.curSlot = s.curSlot ∧ t.curCore.conts = s.curCore.conts ∧ SameMemory s t)) ∧
    (Passes p.g s → Holds s p.a q → s.curSlot.keptFull = false → Stalls (exec (.popBlock p) s) s) ∧
    (Passes p.g s → Holds s p.a q → s.curSlot.keptFull = true → s.workQueue (q.toNat % 2 ^ 16) s.curCore.domain.toNat = .ok () →
      (∀ ix, firstFree (fun i => (s.curCore.conts.find? i).isSome) 256 = some ix →
        ∃ seq, EndedBy (exec (.popBlock p) s) s ix ⟨p.chan, .pop (q.toNat % 2 ^ 16) seq, none, keptCells s, s.curSlot.gang,
          s.curCore.domain.toNat, s.curSlot.priv, false⟩) ∧
      (firstFree (fun i => (s.curCore.conts.find? i).isSome) 256 = none →
        ∃ t, exec (.popBlock p) s = .next (State.takeTrap t ⟨.chan, 1, BitVec.ofNat 64 (s.cur.core * 64 + p.chan.toNat), 0⟩) ∧
          t.curSlot = s.curSlot ∧ t.curCore = s.curCore))

/-- R224, R148, R149, R151: POP in fail mode. At issue gD and g1 to g8 are empty and pS is pending; at the queue's hem die a
dispensable entry is taken (head advances by one, the reply holds the payload, its poisoned words as such, the index, status 2 and true), or the reply holds
status 0, or 1 of a closed and drained queue, and false, and head stays. -/
def Sys2Proof.Claims.PopResults : Prop :=
  ∀ (s : State) (o : OpsPopF) (x : Word),
    (Passes o.g s → Holds s o.a x → MayIssue s → Free s o.d → (∀ j < 8, Free s (BitVec.ofNat 6 (j + 1))) → PFree s o.p →
      s.workQueue (x.toNat % 2 ^ 16) s.curCore.domain.toNat = .ok () →
      ∃ t, exec (.popFail o) s = .next t ∧
        t.curCore.reqs = s.curCore.reqs ++ [{ s.newReq (.pop o.d o.p (x.toNat % 2 ^ 16))
            ⟨.ctl (x.toNat % 2 ^ 16) 0, (s.queue (x.toNat % 2 ^ 16)).ctl.toNat * 64, 8, 0, 8, none⟩ 1 5 false with
          id := s.curCore.nextReq, phase := .sent }] ∧
        (∀ r : Reg, r ≠ 0 → (r = o.d ∨ r.toNat ≤ 8) → (t.curSlot.cell r).empty = true) ∧
        (∀ r : Reg, r ≠ o.d → 8 < r.toNat → t.curSlot.cell r = s.curSlot.cell r) ∧
        (o.p ≠ 0 → t.curSlot.pcell o.p = ⟨(s.curSlot.pcell o.p).v, true⟩) ∧ SamePredsBut [o.p] s t ∧
        Onward s t ∧ SameSpecials s t ∧ SameMemory s t) ∧
    (∀ c id r q, AtHome s c id r → r.op = .pop o.d o.p q →
      (s.dispensable q = true → ∃ t, exec (.performedAtHome ⟨c, id⟩) s = .next t ∧ SameMemory s t ∧
        (t.queue q).head = (s.queue q).head + 1 ∧ (t.queue q).tail = (s.queue q).tail ∧
        Replied t c id { Reply.empty with
          regs := List.zip ([1, 2, 3, 4, 5, 6, 7, 8] : List Reg) (s.payload q ++ [(s.queue q).head]) ++ [(o.d, 2)]
          bad := (s.payloadBad q).filter fun e => e.1 != o.d
          pred := some (o.p, true) }) ∧
      (s.dispensable q = false → ∃ t, exec (.performedAtHome ⟨c, id⟩) s = .next t ∧ SameMemory s t ∧ t.queues = s.queues ∧
        Replied t c id { Reply.empty with
          regs := [(o.d, if (s.queue q).closed = true ∧ (s.queue q).head = (s.queue q).tail then 1 else 0)]
          refill := [1, 2, 3, 4, 5, 6, 7, 8]
          pred := some (o.p, false) }))

/-- R225, R146: PUSH, step by step: the seven words of the payload are read one by one as loads; a reservation is asked of the queue's hem
die; with index `i` reserved, the payload is stored 56 bytes into the entry; then the sequence word i + 1, as a release at SYSTEM scope;
then the tail; then the word completes. A step whose request fails traps, and begins anew when resumed. At the hem die a closed queue
answers QUEUE (EINFO0 = 2), a queue with room gives resv and advances it. -/
def Sys2Proof.Claims.PushResults : Prop :=
  ∀ (s : State) (g : Guard) (a b : Reg) (fea feb : Bool) (x y : Word),
    Passes g s → Holds s a x → Holds s b y → s.curSlot.spec = none →
    let push := exec (.push ⟨g, a, b, fea, feb⟩) s
    let q := x.toNat % 2 ^ 16
    (s.curSlot.prog = .idle → s.workQueue q s.curCore.domain.toNat = .ok () → y.toNat % 8 ≠ 0 → Traps push s .align 0 y) ∧
    (∀ ts t, s.curSlot.prog = .idle → s.workQueue q s.curCore.domain.toNat = .ok () → y.toNat % 8 = 0 →
      s.wordTargets s.curIssuer 7 y.toNat = .ok ts → s.curCore.acquiring s.cur.slot = false →
      let u := pushing s 0 0 []
      u.target u.curIssuer .load true false none 0 (y.toNat : Nat) 8 0 8 none = .ok t →
      Pushed push u (u.newReq .payload t 0 0 false) 0 0 []) ∧
    (∀ id i v data t, PushBack s 0 id i data (Reply.of [(0, v)]) → data.length < 6 →
      let u := pushing (taken s id) 0 i (data ++ [v])
      u.target u.curIssuer .load true false none 0 (y.toNat + 8 * (data.length + 1) : Nat) 8 0 8 none = .ok t →
      Pushed push u (u.newReq .payload t 0 0 false) 0 i (data ++ [v])) ∧
    (∀ id i v data, PushBack s 0 id i data (Reply.of [(0, v)]) → 6 ≤ data.length →
      let u := pushing (taken s id) 1 i (data ++ [v])
      Pushed push u (u.newReq (.reserve q) ⟨.ctl q 24, (s.queue q).ctl.toNat * 64 + 24, 8, 0, 8, none⟩ 0 5 false) 1 i (data ++ [v])) ∧
    (∀ id i j data t, PushBack s 1 id j data (Reply.of [(0, i)]) →
      let u := pushing (taken s id) 2 i data
      u.entryTarget q i 8 56 = .ok t →
      Pushed push u (u.newReq (.store (data.flatMap fun w => leBytes 8 w.toNat)) t 0 5 false) 2 i data) ∧
    (∀ id i data t, PushBack s 2 id i data Reply.empty →
      let u := pushing (taken s id) 3 i data
      u.entryTarget q i 0 8 = .ok t → Pushed push u (u.newReq (.store (leBytes 8 (i + 1).toNat)) t 2 5 false) 3 i data) ∧
    (∀ id i data, PushBack s 3 id i data Reply.empty →
      let u := pushing (taken s id) 4 i data
      Pushed push u (u.newReq (.pushTail q (i + 1)) ⟨.ctl q 8, (s.queue q).ctl.toNat * 64 + 8, 8, 0, 8, none⟩ 0 5 false) 4 i data) ∧
    (∀ id i data, PushBack s 4 id i data Reply.empty → Finished push s id) ∧
    (∀ n id i data p e, PushBack s n id i data p → p.error = some e → TrapsAs push (pushing (taken s id) n i data) e) ∧
    (∀ c id r q, AtHome s c id r → r.op = .reserve q →
      ((s.queue q).closed = true → ∃ t, exec (.performedAtHome ⟨c, id⟩) s = .next t ∧ t.queues = s.queues ∧
        Replied t c id (Reply.fail ⟨.queue, 2, BitVec.ofNat 64 q, 0⟩)) ∧
      ((s.queue q).closed = false → ((s.queue q).resv - (s.queue q).head).toNat < 2 ^ (s.queue q).logn.toNat →
        ∃ t, exec (.performedAtHome ⟨c, id⟩) s = .next t ∧ (t.queue q).resv = (s.queue q).resv + 1 ∧
          Replied t c id (Reply.of [(0, (s.queue q).resv)]))) ∧
    (∀ c id r q v, AtHome s c id r → r.op = .pushTail q v → (s.queue q).closed = false →
      0 < (v - (s.queue q).tail).toNat → (v - (s.queue q).tail).toNat < 2 ^ 63 →
      ∃ t, exec (.performedAtHome ⟨c, id⟩) s = .next t ∧ (t.queue q).tail = v ∧ Replied t c id Reply.empty)

/-- R226 to R232: SPEC with a full register compares at once, with an empty one it takes a checkpoint and goes on; SPEC_RESOLVE, once
the register's fill has decided the condition, issues the queued stores in order, as they translate at that moment and as far as permits go, and with
none left drops the checkpoint; or restores the checkpoint, discards the stores and goes to the target; a poisoned register or fill is a failed
condition. Where a queued store waits for its walk (R100), SPEC_RESOLVE waits; where one no longer translates, the slot is at its checkpoint again,
which is the model's choice (log 26). That a failed SPEC is a taken transfer, which pops the loop entries that end at its word, is the model's
reading of R218 (log 46). -/
def Obligations.SpecResults : Prop :=
  ∀ (s : State) (o : OpsSpec) (x : Word),
    let target := s.curSlot.pc + BitVec.ofInt 64 (8 * o.imm.toInt)
    (Passes o.g s → Holds s o.a x →
      (condHolds o.cond x 0 = true → ∃ t, exec (.spec o) s = .next t ∧ SameRegsBut [] s t ∧ SamePredsBut [] s t ∧
        Onward s t ∧ SameTask s t ∧ OnlySlot s t) ∧
      (condHolds o.cond x 0 = false → ∃ t, exec (.spec o) s = .next t ∧
        WentTo t s target (s.curSlot.loops.filter fun e => e.last ≠ s.curSlot.pc) [])) ∧
    (Passes o.g s → (s.curSlot.cell o.a).empty = false → (s.curSlot.cell o.a).poison ≠ none → ∃ t, exec (.spec o) s = .next t ∧
      WentTo t s target (s.curSlot.loops.filter fun e => e.last ≠ s.curSlot.pc) []) ∧
    (Passes o.g s → (s.curSlot.cell o.a).empty = true → s.curSlot.spec = none → ∃ t, exec (.spec o) s = .next t ∧
      t.curSlot.spec = some ⟨o.a, o.cond, target, s.curSlot.pc, s.curSlot.regs, s.curSlot.preds, s.curSlot.loops, [], none,
        s.curCore.nextReq, [], false⟩ ∧ SameRegsBut [] s t ∧ SamePredsBut [] s t ∧ Onward s t ∧ OnlySlot s t) ∧
    (Passes o.g s → (s.curSlot.cell o.a).empty = true → s.curSlot.spec.isSome = true → Stalls (exec (.spec o) s) s) ∧
    (∀ c n sp, ((s.core c).slot n).spec = some sp →
      (∀ r p w, sp.outcome = none → ((sp.regs.get RegCell.zero sp.reg.toNat).empty = true) → sp.reg ≠ 0 → p.error = none →
        p.refill = [] → p.bad = [] → p.regs = [(sp.reg, x)] →
        (sp.filled ((s.core c).slot n) r p w).outcome = some (condHolds sp.cond x 0)) ∧
      (∀ r p w e, sp.outcome = none → ((sp.regs.get RegCell.zero sp.reg.toNat).empty = true) → sp.reg ≠ 0 → p.error = some e →
        r.op = .load sp.reg false → (sp.filled ((s.core c).slot n) r p w).outcome = some false) ∧
      (sp.outcome = none → exec (.specResolve ⟨c, n⟩) s = .next s) ∧
      (∀ rs, sp.outcome = some true →
        (if sp.committing then .ok sp.stores else s.retranslated (s.slotIssuer c n) (sp.stores.zip sp.into)) = .ok rs →
        ∃ t k, exec (.specResolve ⟨c, n⟩) s = .next t ∧ k ≤ rs.length ∧ SameMemory s t ∧
        (t.core c).slot n = { (s.core c).slot n with
          spec := if k = rs.length then none else some { sp with stores := rs.drop k, into := [], committing := true } } ∧
        (∀ r, rs[k]? = some r → (t.core c).permitted c r.dest = false) ∧
        (t.core c).reqs = (s.core c).reqs ++ ((rs.take k).zipIdx (s.core c).nextReq).map (fun e =>
          { e.1 with id := e.2, inOrder := true, phase := if e.1.dest.isLocal c then .home else .sent })) ∧
      (∀ e, sp.outcome = some true → sp.committing = false →
        s.retranslated (s.slotIssuer c n) (sp.stores.zip sp.into) = .error e → ∃ t, exec (.specResolve ⟨c, n⟩) s = .next t ∧ SameMemory s t ∧
        (e.isMiss = true → t.cores = s.cores) ∧
        (e.isMiss = false → (t.core c).slot n = ((s.core c).slot n).restore sp ∧ (t.core c).reqs.length = (s.core c).reqs.length)) ∧
      (sp.outcome = some false → ∃ t, exec (.specResolve ⟨c, n⟩) s = .next t ∧ ((t.core c).slot n).pc = sp.target ∧
        ((t.core c).slot n).regs = sp.regs ∧ ((t.core c).slot n).preds = sp.preds ∧ ((t.core c).slot n).spec = none ∧
        ((t.core c).slot n).loops = sp.loops.filter (fun e => e.last ≠ sp.pc) ∧
        (∀ r ∈ (t.core c).reqs, r.slot = n → sp.mark ≤ r.id → r.live = false) ∧ SameMemory s t))

/-- R50 to R54, R56, R402: DISPATCH. A report that was held for want of a record takes one that is free, and its message stands on c63. With c63 eligible it is served; otherwise the channel served is eligible and of the highest level among
the eligible. The task of its head message stands in the lowest free slot that may take it: at the channel's entry, with the next
serial, the message in its registers (a poisoned word poisoned, the kept registers as they stood), privileged as the channel is, and no speculation, loop or handler state left over. -/
def Sys2Proof.Claims.DispatchResults : Prop :=
  ∀ (s : State) (c n sl : Nat) (m : Msg) (rest : List Msg),
    let k := (s.postHeld c).core c
    let ok := fun n => !(s.postHeld c).frozen (k.chan n).gang
    (∀ r more ix, (s.core c).heldReports = r :: more → (s.core c).freeFrec = some ix → ((s.core c).chan 63).valid = true → r.cause ≠ .trap →
      k.heldReports = more ∧ k.frecs.find? ix = some r ∧ k.chan 63 = ((s.core c).chan 63).post (r.msg ix) ∧
      ∀ m, m ≠ 63 → k.chan m = (s.core c).chan m) ∧
    ((s.core c).heldReports = [] ∨ (s.core c).freeFrec = none → s.postHeld c = s) ∧
    (k.choose ok = some n → (k.chan n).fifo = m :: rest → k.freeSlot (k.chan n).priv = some sl →
    (n = 63 ∨ k.eligible ok 63 = false ∧ ∀ i < 64, k.eligible ok i = true → (k.chan i).level ≤ (k.chan n).level) ∧
    k.eligible ok n = true ∧ sl < 16 ∧ (k.slot sl).status = .free ∧ (sl = 15 → (k.chan n).priv = true) ∧
    ∃ t, exec (.dispatch ⟨c⟩) s = .next t ∧ SameMemory s t ∧ (t.core c).serial = k.serial + 1 ∧
      ((t.core c).slot sl).status = .occupied ∧ ((t.core c).slot sl).pc = (k.chan n).entry.setWidth 64 <<< 3 ∧
      ((t.core c).slot sl).priv = (k.chan n).priv ∧ ((t.core c).slot sl).serial = k.serial + 1 ∧
      ((t.core c).slot sl).loops = [] ∧ ((t.core c).slot sl).spec = none ∧ ((t.core c).slot sl).handler = m.frec ∧
      (∀ j < 7, (∀ e ∈ m.bad, e.1 ≠ BitVec.ofNat 6 (j + 1)) →
        ((t.core c).slot sl).cell (BitVec.ofNat 6 (j + 1)) = ⟨m.g.getD j 0, false, none⟩ ∨ m.g.length ≤ j) ∧
      ((∀ e ∈ m.bad, e.1 ≠ 8) → ((t.core c).slot sl).cell 8 = ⟨m.aux, false, none⟩) ∧
      (∀ e ∈ m.bad, e.1 ≠ 0 → e.1.toNat < 48 →
        (((t.core c).slot sl).cell e.1).empty = false ∧ (((t.core c).slot sl).cell e.1).poison ≠ none) ∧
      (∀ j < 16, ∀ x, m.kept[j]? = some x → ((t.core c).slot sl).cell (BitVec.ofNat 6 (48 + j)) = { x with empty := false }) ∧
      (∀ i, i ≠ sl → (t.core c).slot i = k.slot i))

/-- R55 to R57, R49: CONTINUATION_POST, WAIT_TIMEOUT and TIMER_SOURCE. A condition that holds posts its record's message on the bound
channel, once; one that does not leaves it (in mode all, keeping which slots held); a timeout that is due with no condition holding
posts g7 = 1; a POP record takes the head entry with the index in g8, or tells that its queue is closed and drained; a timer channel with elapsed periods and room posts one message with the time and their count. -/
def Sys2Proof.Claims.ContinuationResults : Prop :=
  ∀ (s : State) (c ix : Nat) (t : Cont) (all : Bool) (cs : List Cond),
    (((s.core c).conts.find? ix = some t ∧ t.posted = false ∧ t.kind = .wait all cs ∧ ((s.core c).chan t.chan.toNat).valid = true) →
      (contHolds all (s.look c t all cs) = true → ∃ u, exec (.continuationPost ⟨c, ix⟩) s = .next u ∧ SameMemory s u ∧
        (∃ t', (u.core c).conts.find? ix = some t' ∧ t'.posted = true) ∧
        (u.core c).chan t.chan.toNat = ((s.core c).chan t.chan.toNat).post
          ⟨(s.look c t all cs).map (fun x => (if x.kind = 0 then none else x.held).getD 0), heldMask (s.look c t all cs), [],
            t.kept, none, some ix, false⟩) ∧
      (contHolds all (s.look c t all cs) = false → ∃ u, exec (.continuationPost ⟨c, ix⟩) s = .next u ∧ SameMemory s u ∧
        (∃ t', (u.core c).conts.find? ix = some t' ∧ t'.posted = false) ∧ (u.core c).chans = (s.core c).chans) ∧
      (t.left = some 0 → contHolds all (s.look c t all cs) = false → ∃ u, exec (.waitTimeout ⟨c, ix⟩) s = .next u ∧
        SameMemory s u ∧ (∃ t', (u.core c).conts.find? ix = some t' ∧ t'.posted = true) ∧
        (u.core c).chan t.chan.toNat = ((s.core c).chan t.chan.toNat).post
          ⟨[0, 0, 0, 0, 0, 0, 1], 0, [], t.kept, none, some ix, false⟩)) ∧
    (∀ q seq, ((s.core c).conts.find? ix = some t ∧ t.posted = false ∧ t.kind = .pop q seq ∧ ((s.core c).chan t.chan.toNat).valid = true) →
      (s.dispensable q = true → ∃ u, exec (.continuationPost ⟨c, ix⟩) s = .next u ∧ SameMemory s u ∧
        (u.queue q).head = (s.queue q).head + 1 ∧ (u.core c).chan t.chan.toNat = ((s.core c).chan t.chan.toNat).post
          ⟨s.payload q, (s.queue q).head, s.payloadBad q, t.kept, none, some ix, false⟩) ∧
      (s.dispensable q = false → (s.queue q).closed = true → (s.queue q).head = (s.queue q).tail →
        ∃ u, exec (.continuationPost ⟨c, ix⟩) s = .next u ∧ SameMemory s u ∧ u.queues = s.queues ∧
          (u.core c).chan t.chan.toNat = ((s.core c).chan t.chan.toNat).post
            ⟨[0, 0, 0, 0, 0, 0, 1], BitVec.allOnes 64, [], t.kept, none, some ix, false⟩) ∧
      (s.dispensable q = false → ((s.queue q).closed = false ∨ (s.queue q).head ≠ (s.queue q).tail) →
        exec (.continuationPost ⟨c, ix⟩) s = .next s)) ∧
    (∀ n < 64, ((s.core c).chan n).valid = true → ((s.core c).chan n).src = 4 → ((s.core c).chan n).elapsed ≠ 0 →
      ((s.core c).chan n).held = [] → ((s.core c).chan n).fifo.length < 16 →
      ∃ u, exec (.timerSource ⟨c, n⟩) s = .next u ∧ SameMemory s u ∧ ((u.core c).chan n).elapsed = 0 ∧
        ((u.core c).chan n).fifo = ((s.core c).chan n).fifo ++
          [⟨[s.tick, BitVec.ofNat 64 ((s.core c).chan n).elapsed, 0], 0, [], [], none, none, false⟩])

/-! ### Loads, stores, record instructions, atomics (R319 to R323, R364, R365) -/

/-- R319, R103, R94: the address of an access. Offset `o` through a linear record (kind 0, bounds 0, a plain view) that lies inside the
extent names the VA base + offset; with the page translated and the VA aligned, all `size` bytes are performed at that VA. -/
def Sys2Proof.Claims.AccessAddress : Prop :=
  ∀ (s : State) (i : Issuer) (r : BitVec 256) (ix : Nat) (o size : Nat) (u : Use) (p : Page),
    recKind r = 0 → recBad r = false → (u = .load ∨ u = .store) → 0 < size → o + size ≤ recExtent r →
    (recBase r + o) % size = 0 →
    s.translate i u (u == .load) (u == .store) none (recBase r + o) (recView r) = .ok p → p.node = 0 →
    (u = .store → s.queueRules (s.homeOf p (recBase r + o)) p.dom (recBase r + o) size false = none) →
    s.recAccess i r ix o size u (u == .load) (u == .store) =
      .ok (some ⟨s.homeOf p (recBase r + o), recBase r + o, size, 0, size, none⟩)

/-- R103, R364: an access of `size` bytes that does not lie inside the extent. Bounds mode 0, and an atomic whatever the mode: BOUNDS with the offset
and the record's number, and nothing is performed. Mode 1: only the bytes inside are performed, at the same VA, and a part outside the extent reaches
no page. Mode 2: a write reaches no page; a read is performed whole at the nearest offset inside that is a multiple of its size, and traps BOUNDS
where there is none. What is performed is checked in full (State.target). The same holds in the slot of a RING record that the offset falls in. -/
def Sys2Proof.Claims.BoundsModes : Prop :=
  ∀ (s : State) (i : Issuer) (r : BitVec 256) (ix : Nat) (o : Int) (size : Nat) (u : Use) (rd wr : Bool) (sp : Spot),
    recBad r = false → spotOf r ix o rd wr = .ok sp → 0 < size → (sp.off < 0 ∨ (sp.limit : Int) < sp.off + size) →
    let atomic := ∃ f, u = .atomic f
    let at_ := fun (off : Int) lo len =>
      (s.target i u rd wr (recLined r) (recView r) ((recBase r + sp.base : Nat) + off) size lo len sp.hold).map some
    (recKind r ≠ 2 → sp = ⟨0, o, recExtent r, none⟩) ∧
    (recBounds r = 0 ∨ atomic → s.recAccess i r ix o size u rd wr = .error ⟨.bounds, 0, BitVec.ofInt 64 sp.off, BitVec.ofNat 64 ix⟩) ∧
    (recBounds r = 1 → ¬ atomic →
      ((sp.off + size ≤ 0 ∨ (sp.limit : Int) ≤ sp.off ∨ sp.limit = 0) → s.recAccess i r ix o size u rd wr = .ok none) ∧
      (0 < sp.off + size → sp.off < sp.limit → 0 < sp.limit → ∃ lo len : Nat, (lo : Int) = max 0 (-sp.off) ∧
        (len : Int) = min (sp.off + size) sp.limit - max 0 sp.off ∧ s.recAccess i r ix o size u rd wr = at_ sp.off lo len)) ∧
    (recBounds r = 2 → ¬ atomic →
      (wr = true → s.recAccess i r ix o size u rd wr = .ok none) ∧
      (wr = false → sp.limit < size → s.recAccess i r ix o size u rd wr = .error ⟨.bounds, 0, BitVec.ofInt 64 sp.off, BitVec.ofNat 64 ix⟩) ∧
      (wr = false → size ≤ sp.limit → ∃ off : Nat, size ∣ off ∧ off + size ≤ sp.limit ∧
        (∀ off' : Nat, size ∣ off' → off' + size ≤ sp.limit → (sp.off - off).natAbs ≤ (sp.off - off').natAbs) ∧
        s.recAccess i r ix o size u rd wr = at_ off 0 size))

/-- R320, R200, R345, R358: LD and LDP. A load whose access is admitted marks its destination empty and sends its request; a load that
bounds leave nothing of is answered with 0 (R103); one that is not admitted traps and marks nothing; behind an acquire, or with no
permit, it stalls.
A record's view is checked for reserved codes only, which is deduced (log 25). -/
def Sys2Proof.Claims.LoadsIssue : Prop :=
  ∀ (s : State) (o : OpsMem) (x : Word) (r : BitVec 256),
    Passes o.g s → Holds s o.a x → Free s o.d → RecordIs s o.br r →
    (∀ t, MayIssue s → access s r o.br x o.imm.toInt (2 ^ o.sz.toNat) .load true false = .ok (some t) →
      s.curCore.permitted s.cur.core (destOf t.home) = true →
      Issued (exec (.ld o) s) s (s.newReq (.load o.d false) t o.ord o.scope o.bulk) [o.d]) ∧
    (∀ t, MayIssue s → access s r o.br x o.imm.toInt 16 .wide true false = .ok (some t) → Free s (o.d + 1) →
      s.curCore.permitted s.cur.core (destOf t.home) = true →
      Issued (exec (.ldp o) s) s (s.newReq (.load o.d true) t o.ord o.scope o.bulk) [o.d, o.d + 1]) ∧
    (MayIssue s → access s r o.br x o.imm.toInt (2 ^ o.sz.toNat) .load true false = .ok none →
      Answered (exec (.ld o) s) s (s.newReq (.load o.d false) noTarget o.ord o.scope o.bulk) (Reply.of [(o.d, 0)]) [o.d]) ∧
    (∀ e, MayIssue s → access s r o.br x o.imm.toInt (2 ^ o.sz.toNat) .load true false = .error e →
      TrapsAs (exec (.ld o) s) s e) ∧
    (s.curCore.acquiring s.cur.slot = true → Stalls (exec (.ld o) s) s) ∧
    (∀ t, MayIssue s → access s r o.br x o.imm.toInt (2 ^ o.sz.toNat) .load true false = .ok (some t) →
      s.curCore.permitted s.cur.core (destOf t.home) = false → ∃ u, exec (.ld o) s = .next u ∧ u.stalled = true ∧
        u.curCore.reqs = s.curCore.reqs ∧ u.curSlot = s.curSlot)

/-- R320, R228: ST and STP send their bytes, lowest address first; a slot that speculates queues a relaxed store and sends nothing. -/
def Sys2Proof.Claims.StoresIssue : Prop :=
  ∀ (s : State) (o : OpsMem) (x y z : Word) (r : BitVec 256),
    Passes o.g s → Holds s o.a x → Holds s o.d y → RecordIs s o.br r → s.curCore.acquiring s.cur.slot = false →
    (∀ t, s.curSlot.spec = none → access s r o.br x o.imm.toInt (2 ^ o.sz.toNat) .store false true = .ok (some t) →
      s.curCore.permitted s.cur.core (destOf t.home) = true →
      Issued (exec (.st o) s) s (s.newReq (.store (leBytes (2 ^ o.sz.toNat) y.toNat)) t o.ord o.scope o.bulk) []) ∧
    (∀ t, s.curSlot.spec = none → Holds s (o.d + 1) z → access s r o.br x o.imm.toInt 16 .store false true = .ok (some t) →
      s.curCore.permitted s.cur.core (destOf t.home) = true →
      Issued (exec (.stp o) s) s (s.newReq (.store (leBytes 8 y.toNat ++ leBytes 8 z.toNat)) t o.ord o.scope o.bulk) []) ∧
    (∀ e, access s r o.br x o.imm.toInt (2 ^ o.sz.toNat) .store false true = .error e → TrapsAs (exec (.st o) s) s e) ∧
    (∀ t sp, s.curSlot.spec = some sp → o.ord = 0 → sp.stores.length < 32 →
      access s r o.br x o.imm.toInt (2 ^ o.sz.toNat) .store false true = .ok (some t) →
      ∃ u, exec (.st o) s = .next u ∧ u.curCore.reqs = s.curCore.reqs ∧ SameMemory s u ∧ SameRegsBut [] s u ∧
        u.curSlot.spec = some { sp with
          stores := sp.stores ++ [s.newReq (.store (leBytes (2 ^ o.sz.toNat) y.toNat)) t o.ord o.scope o.bulk]
          into := sp.into ++ [if recKind r = 1 then some (recLid r) else none] })

/-- R322, R323, R8: RECLD and RECST send 32 bytes' requests, a reserved field of the record being stored and read as 0; RECSET replaces one word of the record at once (a record that becomes or stays
a collar ring keeps its stage pointer, R386); RECGET's register fills with the word taken at issue. -/
def Sys2Proof.Claims.RecordWords : Prop :=
  ∀ (s : State) (m : OpsRecMem) (o : OpsRecWord) (x v : Word) (r : BitVec 256),
    (Passes m.g s → Holds s m.a x → MayIssue s →
      (∀ t, recldPending s.curCore m.br = false →
        s.target s.curIssuer .wide true false none 0 (x.toInt + m.imm.toInt) 32 0 32 none = .ok t →
        s.curCore.permitted s.cur.core (destOf t.home) = true →
        Issued (exec (.recld m) s) s (s.newReq (.recld m.br) t m.ord m.scope m.bulk) []) ∧
      (∀ t, RecordIs s m.br r →
        s.target s.curIssuer .store false true none 0 (x.toInt + m.imm.toInt) 32 0 32 none = .ok t →
        s.curCore.permitted s.cur.core (destOf t.home) = true →
        Issued (exec (.recst m) s) s (s.newReq (.store (leBytes 32 (recRead r).toNat)) t m.ord m.scope m.bulk) [])) ∧
    (Passes o.g s → RecordIs s o.br r →
      (Holds s o.d v → ∃ t new, exec (.recset o) s = .next t ∧
        (∀ j < 4, new.extractLsb' (64 * j) 64 = if j = o.w.toNat then v else r.extractLsb' (64 * j) 64) ∧
        t.curCore.record o.br.toNat = (if recKind new = 2 then ringSetP new (if recKind r = 2 then ringP r else 0) else new) ∧
        (∀ n, n ≠ o.br.toNat → t.curCore.record n = s.curCore.record n) ∧
        SameRegsBut [] s t ∧ SamePredsBut [] s t ∧ Onward s t ∧ SameTask s t ∧ SameMemory s t) ∧
      (Free s o.d → Answered (exec (.recget o) s) s (s.newReq (.value o.d ((recRead r).extractLsb' (64 * o.w.toNat) 64)) noTarget 0 0 false)
        (Reply.of [(o.d, (recRead r).extractLsb' (64 * o.w.toNat) 64)]) [o.d]))

/-- R364, R365: each atomic sends its own operation with gV and gCmp, and marks gD empty. -/
def Sys2Proof.Claims.AtomicsIssue : Prop :=
  ∀ (s : State) (o : OpsAtom) (x v c : Word) (r : BitVec 256) (t : Target) (i : Instr) (op : AtomOp),
    Passes o.g s → Holds s o.a x → Free s o.d → Holds s o.v v → Holds s o.cmp c → RecordIs s o.br r → MayIssue s →
    (i, op) ∈ [(Instr.aadd o, AtomOp.add), (.amin o, .min o.uns), (.amax o, .max o.uns), (.aand o, .and), (.aor o, .or),
      (.axor o, .xor), (.axchg o, .xchg), (.acas o, .cas), (.ainc o, .inc), (.afadd o, .fadd), (.amaxw o, .maxw)] →
    access s r o.br x o.imm.toInt (2 ^ o.sz.toNat) (.atomic (op == .fadd)) true true = .ok (some t) →
    s.curCore.permitted s.cur.core (destOf t.home) = true →
    Issued (exec i s) s (s.newReq (.atomic o.d op v c) t o.ord o.scope false) [o.d]

/-- R365, Table 16-2: what each atomic stores, at 32 or 64 bits, from the old value and gV (and gCmp for ACAS). AFADD is the FP32 sum
of R256. -/
def Sys2Proof.Claims.AtomicValues : Prop :=
  ∀ (w old v cmp : Nat), (w = 32 ∨ w = 64) → old < 2 ^ w → v < 2 ^ w → cmp < 2 ^ w →
    atomNew .add w old v cmp = (old + v) % 2 ^ w ∧
    atomNew (.min true) w old v cmp = min old v ∧ atomNew (.max true) w old v cmp = max old v ∧
    (∀ p q : BitVec w, p.toNat = old → q.toNat = v →
      atomNew (.min false) w old v cmp = (if q.toInt < p.toInt then v else old) ∧
      atomNew (.max false) w old v cmp = (if p.toInt < q.toInt then v else old) ∧
      atomNew .maxw w old v cmp = (if 0 < (q - p).toInt then v else old)) ∧
    atomNew .and w old v cmp = old &&& v ∧ atomNew .or w old v cmp = old ||| v ∧ atomNew .xor w old v cmp = old ^^^ v ∧
    atomNew .xchg w old v cmp = v ∧ atomNew .cas w old v cmp = (if old = cmp then v else old) ∧
    atomNew .inc w old v cmp = (old + 1) % 2 ^ w ∧
    (w = 32 → atomNew .fadd w old v cmp = (fadd32 0 (BitVec.ofNat 32 old) (BitVec.ofNat 32 v)).toNat)

/-- R356, R319, R7, R417: a load, a store and an atomic when they are performed at a memory home, and nothing else in memory is changed. A store
writes its bytes lo to lo + len - 1; a load brings the bytes as one little-endian number, bytes that bounds cut off reading 0; an
atomic brings the old value and writes the new one; a read of a poisoned word brings ECC; a unit's read brings its bytes, and a write of half
bytes writes those half bytes. -/
def Obligations.PerformedAtHome : Prop :=
  ∀ (s : State) (c id key : Nat) (r : Req), AtHome s c id r → r.tgt.home = .mem key →
    (∀ data, r.op = .store data → data.length = r.tgt.size → r.tgt.lo + r.tgt.len ≤ r.tgt.size →
      ∃ t, exec (.performedAtHome ⟨c, id⟩) s = .next t ∧ Replied t c id Reply.empty ∧
        (∀ a, Inside r.tgt key a → readByte t.mem a = data.getD (a - key) 0) ∧
        (∀ a, ¬ Inside r.tgt key a → readByte t.mem a = readByte s.mem a)) ∧
    (∀ d, r.op = .load d false → s.poisonedAt (key + r.tgt.lo) r.tgt.len = false →
      ∃ t, exec (.performedAtHome ⟨c, id⟩) s = .next t ∧ SameMemory s t ∧
        Replied t c id
          (Reply.of [(d, BitVec.ofNat 64 (leNat (List.replicate r.tgt.lo 0 ++ readBytes s.mem (key + r.tgt.lo) r.tgt.len)))])) ∧
    (∀ d, r.op = .load d false → s.poisonedAt (key + r.tgt.lo) r.tgt.len = true →
      ∃ t, exec (.performedAtHome ⟨c, id⟩) s = .next t ∧ SameMemory s t ∧
        Replied t c id (Reply.fail ⟨.ecc, 0, BitVec.ofNat 64 r.tgt.va, BitVec.ofNat 64 (key % 2 ^ 48)⟩)) ∧
    (∀ d op v w, r.op = .atomic d op v w → s.poisonedAt key r.tgt.size = false →
      ∃ t, exec (.performedAtHome ⟨c, id⟩) s = .next t ∧
        Replied t c id (Reply.of [(d, BitVec.ofNat 64 (s.load key r.tgt.size))]) ∧
        readBytes t.mem key r.tgt.size =
          leBytes r.tgt.size (atomNew op (8 * r.tgt.size) (s.load key r.tgt.size) v.toNat w.toNat) ∧
        (∀ a, (a < key ∨ key + r.tgt.size ≤ a) → readByte t.mem a = readByte s.mem a)) ∧
    (r.op = .fetch → ∃ t marred, exec (.performedAtHome ⟨c, id⟩) s = .next t ∧ SameMemory s t ∧
      Replied t c id { Reply.empty with bytes := readBytes s.mem key r.tgt.len, marred := marred }) ∧
    (∀ part begun data, r.op = .put [part] begun data → (∀ e ∈ part, e.1 < 2 ^ 65) →
      ∃ t, exec (.performedAtHome ⟨c, id⟩) s = .next t ∧ Replied t c id Reply.empty ∧
        ((part.map fun e => e.1).Nodup → ∀ e ∈ part, t.half e.1 = e.2 % 16) ∧
        (∀ a, (∀ e ∈ part, e.1 / 2 ≠ a) → readByte t.mem a = readByte s.mem a))

/-- R200, R203, R204, R322: REPLY_FILL. A reply that is back fills its task's register and clears its poison, or fills it poisoned with the
reply's trap; it is delivered once; a reply that no task owns any more changes no register; RECLD's reply writes its record. -/
def Obligations.ReplyFills : Prop :=
  ∀ (s : State) (c id : Nat) (r : Req) (p : Reply),
    (s.core c).req? id = some r → r.phase = .back p → s.frozen r.gang = false → (s.core c).ours r = true →
    (∀ d v, r.live = true → r.unit = none → ((s.core c).slot r.slot).awaits id = false → ((s.core c).slot r.slot).spec = none →
      r.op = .load d false → p = Reply.of [(d, v)] →
      ∃ t, exec (.replyFill ⟨c, id⟩) s = .next t ∧ (t.core c).req? id = none ∧
        ((t.core c).slot r.slot).cell d = (if d = 0 then RegCell.zero else ⟨v, false, none⟩) ∧
        (∀ q, q ≠ d → ((t.core c).slot r.slot).cell q = ((s.core c).slot r.slot).cell q) ∧
        (∀ n, n ≠ r.slot → (t.core c).slot n = (s.core c).slot n) ∧ SameMemory s t) ∧
    (∀ d e, r.live = true → r.unit = none → ((s.core c).slot r.slot).awaits id = false → ((s.core c).slot r.slot).spec = none →
      r.op = .load d false → d ≠ 0 → p = Reply.fail e →
      ∃ t, exec (.replyFill ⟨c, id⟩) s = .next t ∧ (t.core c).req? id = none ∧
        (((t.core c).slot r.slot).cell d).empty = false ∧ (((t.core c).slot r.slot).cell d).poison = some e ∧
        (∀ q, q ≠ d → ((t.core c).slot r.slot).cell q = ((s.core c).slot r.slot).cell q) ∧ SameMemory s t) ∧
    (r.live = false → (∀ lid key, r.op ≠ .publishWord lid key) → ∃ t, exec (.replyFill ⟨c, id⟩) s = .next t ∧ (t.core c).req? id = none ∧
      (∀ n, (t.core c).slot n = (s.core c).slot n) ∧ SameMemory s t) ∧
    (∀ br v, r.op = .recld br → p = { Reply.empty with record := some (br, v) } → recKind v ≠ 2 →
      (r.live = true → r.unit = none ∧ ((s.core c).slot r.slot).awaits id = false) →
      ∃ t, exec (.replyFill ⟨c, id⟩) s = .next t ∧ (t.core c).record br.toNat = v ∧
        (t.core c).badRecords.find? br.toNat = none ∧ SameMemory s t)

/-- R94, R88, R97: the order in which a data access to a page (an entry of type 2, its slice powered) is checked: the address range,
the walk, the domain, the rights and privilege, the format; and where the page's first byte lies when all pass. -/
def Obligations.TranslationChecks : Prop :=
  ∀ (s : State) (i : Issuer) (u : Use) (rd wr : Bool) (va : Nat) (p : BitVec 128),
    let rights := (rd = true → pteRd p = true) ∧ (wr = true → pteWr p = true) ∧
      (ptePv p = true ∨ pteFmt p = 0x1F ∧ (u = .load ∨ u = .wide ∨ u = .store ∨ ∃ f, u = .atomic f) → i.priv = true)
    u ≠ .fetch →
    (2 ^ 52 ≤ va → s.translate i u rd wr none va = .error ⟨.xlate, 2, BitVec.ofNat 64 va, 0⟩) ∧
    (va < 2 ^ 52 → ∀ e, s.entryOf i va = .error e → s.translate i u rd wr none va = .error e) ∧
    (va < 2 ^ 52 → s.entryOf i va = .ok p → pteType p = 2 →
      (ppnSlice (ptePpn p) = true → s.nodeOf (pteNode p) = 0 → (s.core (bits (ptePpn p * 2 ^ 16) 32 24)).sgate = false) →
      (pteDom p ≠ i.dom → s.translate i u rd wr none va =
        .error ⟨.domain, 0, BitVec.ofNat 64 va, BitVec.ofNat 64 (pteDom p)⟩) ∧
      (pteDom p = i.dom → ¬ rights → ∃ info2, s.translate i u rd wr none va = .error ⟨.prot, 0, BitVec.ofNat 64 va, info2⟩) ∧
      (pteDom p = i.dom → rights → admits u (pteFmt p) = false →
        s.translate i u rd wr none va = .error ⟨.format, 0, BitVec.ofNat 64 va, BitVec.ofNat 64 (pteFmt p)⟩) ∧
      (pteDom p = i.dom → rights → admits u (pteFmt p) = true → ∃ q, s.translate i u rd wr none va = .ok q ∧
        q.fmt = pteFmt p ∧ q.dom = pteDom p ∧ q.node = s.nodeOf (pteNode p) ∧
        q.key = s.nodeOf (pteNode p) * 2 ^ 48 + ptePpn p * 2 ^ 16 +
          (if pteSize p = true then va % 2 ^ 21 / 2 ^ 16 * 2 ^ 16 else 0)))

namespace Sys2Proof.Claims

open Sys2Proof.Machine

/-- The word completed; registers, predicates, special registers and memory as before. -/
def Passed (o : Out) (s : State) : Prop :=
  ∃ t, o = .next t ∧ SameRegsBut [] s t ∧ SamePredsBut [] s t ∧ Onward s t ∧ SameTask s t ∧ SameSpecials s t ∧ SameMemory s t

/-- The word stalls; its slot, the special registers and memory as before. -/
def Waits (o : Out) (s : State) : Prop :=
  ∃ t, o = .next t ∧ t.stalled = true ∧ t.curSlot = s.curSlot ∧ SameSpecials s t ∧ SameMemory s t

/-- R362: an access of the running slot that a fence of `scope` waits for. Scope 5 (SYS) alone covers another node's. -/
def Owed (s : State) (scope : Nat) : Prop :=
  ∃ r ∈ s.curCore.reqs, r.slot = s.cur.slot ∧ (r.phase = .unsent ∨ r.phase = .sent ∨ r.phase = .home) ∧
    (scope = 5 ∨ ∀ n, r.dest ≠ .node n)

end Sys2Proof.Claims

/-- R362, R363: FENCE completes exactly when no access that its scope covers is owed; what it leaves owed is performed before any later
access of the slot is issued. SCFENCE drains as FENCE.SYS does, observes the
stitch, and completes two stitches later. -/
def Sys2Proof.Claims.FenceResults : Prop :=
  ∀ (s : State) (g : Guard) (scope : BitVec 3) (v : Word), Passes g s → s.curSlot.spec = none →
    (¬ Owed s scope.toNat → Passed (exec (.fence ⟨g, scope⟩) s) s) ∧
    (¬ Owed s scope.toNat → ∃ t, exec (.fence ⟨g, scope⟩) s = .next t ∧ (Owed s 5 → t.curCore.acquiring s.cur.slot = true)) ∧
    (Owed s scope.toNat → Stalls (exec (.fence ⟨g, scope⟩) s) s) ∧
    (s.curSlot.prog = .idle → Owed s 5 → Stalls (exec (.scfence ⟨g⟩) s) s) ∧
    (s.curSlot.prog = .idle → ¬ Owed s 5 → ∃ t, exec (.scfence ⟨g⟩) s = .next t ∧ t.stalled = true ∧
      t.curSlot = { s.curSlot with prog := .scfence s.stitch } ∧ SameSpecials s t ∧ SameMemory s t) ∧
    (s.curSlot.prog = .scfence v → s.stitch.toNat < v.toNat + 2 → Stalls (exec (.scfence ⟨g⟩) s) s) ∧
    (s.curSlot.prog = .scfence v → v.toNat + 2 ≤ s.stitch.toNat → Passed (exec (.scfence ⟨g⟩) s) s)

/-- R373 to R377: the barrier instructions at issue. BINIT, BARV and BEXP send their request to the word at gA[63:4] × 16 and complete
when it has been performed, BARV with gD = the word's VA and the phase at which it arrived; BRD reads one half into gD, which is
empty until then, and no later access of the slot is issued before it is performed (R372). An error that comes back is trapped.
The rights asked of the page are deduced (log 11). -/
def Sys2Proof.Claims.BarrierIssue : Prop :=
  ∀ (s : State) (g : Guard) (d a b c : Reg) (fea feb fec : Bool) (x y z : Word) (t : Target),
    let free := ∀ id, s.curSlot.prog ≠ .awaiting id
    Passes g s → Holds s a x → Holds s b y → Holds s c z → MayIssue s → s.curCore.permitted s.cur.core (destOf t.home) = true →
    (free → s.barTarget x false true 0 16 = .ok t → s.binitCheck t.va (z ++ y) = .ok () →
      Sent (exec (.binit ⟨g, a, b, c, fea, feb, fec⟩) s) s (s.newReq (.binit (z ++ y) s.cur.core) t 0 0 false) .awaiting) ∧
    (free → Free s d → s.barTarget x true true 0 16 = .ok t →
      Sent (exec (.barv ⟨g, d, a, fea⟩) s) s (s.newReq .barv t 0 0 false) .awaiting) ∧
    (free → s.barTarget x true true 0 16 = .ok t →
      Sent (exec (.bexp ⟨g, a, b, fea, feb⟩) s) s (s.newReq (.bexp (y.extractLsb' 0 36).toNat) t 0 0 false) .awaiting) ∧
    (∀ id, AwaitedBack s id Reply.empty →
      Finished (exec (.binit ⟨g, a, b, c, fea, feb, fec⟩) s) s id ∧ Finished (exec (.bexp ⟨g, a, b, fea, feb⟩) s) s id) ∧
    (∀ id old, AwaitedBack s id (Reply.of [(0, old)]) → Free s d →
      ∃ u, exec (.barv ⟨g, d, a, fea⟩) s = .next u ∧ (∀ r ∈ u.curCore.reqs, r.id ≠ id) ∧
        u.curSlot.cell d = (if d = 0 then RegCell.zero else ⟨(x &&& ~~~15) ||| old, false, none⟩) ∧
        SameRegsBut [d] s u ∧ SamePredsBut [] s u ∧ Onward s u ∧ SameTask s u ∧ SameSpecials s u ∧ SameMemory s u) ∧
    (∀ id e, AwaitedBack s id (Reply.fail e) → Free s d →
      ∃ u : State, exec (.barv ⟨g, d, a, fea⟩) s = .next (u.takeTrap e) ∧ u.curSlot = { s.curSlot with prog := .idle }) ∧
    (Free s d → s.barTarget x true false 0 16 = .ok t →
      Issued (exec (.brd ⟨g, d, a, fea⟩) s) s (s.newReq (.brd d (x.getLsbD 3)) t 0 0 false) [d] ∧
      ∃ u, exec (.brd ⟨g, d, a, fea⟩) s = .next u ∧ u.curCore.acquiring s.cur.slot = true)

/-- R371, R374 to R377: the barrier operations at the word's home. An arrival at arrv = 0 is refused with BARRIER (EINFO0 = 0); one that
leaves arrv or sect nonzero only counts arrv down; the last one raises phase by one modulo 16 and reloads arrv, or, in a word that publishes, leaves
both counts 0 while the completion is in progress (PhaseCompletion). BEXP adds to sect, or is refused with BARRIER (EINFO0 = 3) where sect would not hold it. A word that is poisoned
is answered ECC (deduced, log 22). BINIT writes the word with arrv = reload and its own core. BRD brings one half. Memory outside
the word is as before, and bits [99:0] of it but sect. -/
def Sys2Proof.Claims.BarrierAtHome : Prop :=
  ∀ (s : State) (c id key : Nat) (r : Req), AtHome s c id r → r.tgt.home = .mem key →
    let w := s.barWord key
    let outside (t : State) := ∀ a, (a < key ∨ key + 16 ≤ a) → readByte t.mem a = readByte s.mem a
    (r.op = .barv ∨ (∃ n, r.op = .bexp n) → s.poisonedAt key 16 = true → ∃ t e, exec (.performedAtHome ⟨c, id⟩) s = .next t ∧ SameMemory s t ∧
      Replied t c id (Reply.fail e) ∧ e.cause = .ecc ∧ e.info1 = BitVec.ofNat 64 r.tgt.va) ∧
    (r.op = .barv → s.poisonedAt key 16 = false → barArrv w = 0 → ∃ t, exec (.performedAtHome ⟨c, id⟩) s = .next t ∧ SameMemory s t ∧
      Replied t c id (Reply.fail ⟨.barrier, 0, BitVec.ofNat 64 r.tgt.va, 0⟩)) ∧
    (r.op = .barv → s.poisonedAt key 16 = false → barArrv w ≠ 0 → (barArrv w ≠ 1 ∨ barSect w ≠ 0) → ∃ t, exec (.performedAtHome ⟨c, id⟩) s = .next t ∧
      Replied t c id (Reply.of [(0, BitVec.ofNat 64 (barPhase w))]) ∧ outside t ∧
      barArrv (t.barWord key) = barArrv w - 1 ∧ barPhase (t.barWord key) = barPhase w ∧
      ∀ i < 100, (t.barWord key).getLsbD i = w.getLsbD i) ∧
    (r.op = .barv → s.poisonedAt key 16 = false → barArrv w = 1 → barSect w = 0 →
      ∃ t, exec (.performedAtHome ⟨c, id⟩) s = .next t ∧
      Replied t c id (Reply.of [(0, BitVec.ofNat 64 (barPhase w))]) ∧ outside t ∧ t.linings = s.linings ∧
      (∀ i < 100, (t.barWord key).getLsbD i = w.getLsbD i) ∧
      (barPub w = false → barArrv (t.barWord key) = barReload w ∧ barPhase (t.barWord key) = (barPhase w + 1) % 16) ∧
      (barPub w = true → barArrv (t.barWord key) = 0 ∧ barPhase (t.barWord key) = barPhase w ∧ t.completes key = true)) ∧
    (∀ n, r.op = .bexp n → s.poisonedAt key 16 = false → 2 ^ 36 ≤ barSect w + n → ∃ t, exec (.performedAtHome ⟨c, id⟩) s = .next t ∧
      SameMemory s t ∧ Replied t c id (Reply.fail ⟨.barrier, 3, BitVec.ofNat 64 r.tgt.va, 0⟩)) ∧
    (∀ n, r.op = .bexp n → s.poisonedAt key 16 = false → barSect w + n < 2 ^ 36 → ∃ t, exec (.performedAtHome ⟨c, id⟩) s = .next t ∧
      Replied t c id Reply.empty ∧ outside t ∧ barSect (t.barWord key) = barSect w + n ∧
      (∀ i < 128, (i < 40 ∨ 76 ≤ i) → (t.barWord key).getLsbD i = w.getLsbD i)) ∧
    (∀ v core, r.op = .binit v core → core < 512 → ∃ t, exec (.performedAtHome ⟨c, id⟩) s = .next t ∧
      Replied t c id Reply.empty ∧ outside t ∧ barArrv (t.barWord key) = barReload v ∧
      barCore (t.barWord key) = core ∧
      (∀ i < 128, (i < 100 ∨ 124 ≤ i) → (i < 11 ∨ 20 ≤ i) → (t.barWord key).getLsbD i = v.getLsbD i)) ∧
    (∀ d high, r.op = .brd d high → s.poisonedAt (if high = true then key + 8 else key) 8 = false → ∃ t, exec (.performedAtHome ⟨c, id⟩) s = .next t ∧
      SameMemory s t ∧ Replied t c id (Reply.of [(d, w.extractLsb' (if high = true then 64 else 0) 64)]))

/-- R371, R318, R336, R385: a phase that completes. In a word that does not publish, with rot the stage pointer of its collar record advances by one
modulo N; then phase is one more modulo 16 and arrv is reloaded. A word that publishes first asks the lining's hem die on VC3, and withholds
acknowledgement until the answer is back; the hem die exchanges face and lining where the descriptor is valid and of the word's core's domain, and
otherwise answers BARRIER with EINFO0 = 5; with the answer the phase completes as above. -/
def Sys2Proof.Claims.PhaseCompletion : Prop :=
  ∀ (s : State) (key va : Nat) (w : BitVec 128),
    let ring := (s.core (barCore w)).record (barRrec w)
    let completed (t : State) : Prop :=
      barPhase (t.barWord key) = (barPhase w + 1) % 16 ∧ barArrv (t.barWord key) = barReload w ∧ t.linings = s.linings ∧
      (barRot w = true → s.rotates (barCore w) ring key = true →
        (t.core (barCore w)).record (barRrec w) = ringSetP ring ((ringP ring + 1) % ringN ring)) ∧
      (barRot w = false → ∀ c n, (t.core c).record n = (s.core c).record n)
    (barPub w = false → completed (s.completePhase key va w)) ∧
    (barPub w = true → let t := s.completePhase key va w
      t.barWord key = w ∧ t.completes key = true ∧ t.linings = s.linings ∧
      ∃ r ∈ (t.core (barCore w)).reqs, r.op = .publishWord (barLid w) key ∧ r.phase = .sent ∧ r.vc = 3) ∧
    (∀ c id r, AtHome s c id r → r.op = .publishWord (barLid w) key → s.barWord key = w →
      ((s.lining (barLid w)).valid = true → (s.lining (barLid w)).dom = (s.core (barCore w)).domain →
        ∃ t, exec (.performedAtHome ⟨c, id⟩) s = .next t ∧ Replied t c id Reply.empty ∧
          (t.lining (barLid w)).fl = !(s.lining (barLid w)).fl ∧ ∀ i, i ≠ barLid w → t.lining i = s.lining i) ∧
      (((s.lining (barLid w)).valid = false ∨ (s.lining (barLid w)).dom ≠ (s.core (barCore w)).domain) →
        ∃ t, exec (.performedAtHome ⟨c, id⟩) s = .next t ∧ Replied t c id (Reply.fail ⟨.barrier, 5, 0, 0⟩) ∧ t.linings = s.linings)) ∧
    (∀ c id r p lid, (s.core c).req? id = some r → r.phase = .back p → r.op = .publishWord lid key → s.frozen r.gang = false →
      (s.completing.find? fun x => x.key == key) = some ⟨key, va, w⟩ →
      ∃ t, exec (.replyFill ⟨c, id⟩) s = .next t ∧ completed t ∧ t.completes key = false)

namespace Sys2Proof.Claims

open Sys2Proof.Machine

/-- The word completed and the running core became `k`; its other slots, the running slot's registers and predicates, every other
core and memory are as before. -/
def CoreBecame (o : Out) (s : State) (k : Core) : Prop :=
  ∃ t, o = .next t ∧ t = s.setCurCore t.curCore ∧ t.curCore = { k with slots := t.curCore.slots } ∧
    (∀ n, n ≠ s.cur.slot → t.curCore.slot n = s.curCore.slot n) ∧
    SameRegsBut [] s t ∧ SamePredsBut [] s t ∧ Onward s t ∧ SameTask s t ∧ SameMemory s t

end Sys2Proof.Claims

/-- R233 to R235, Table 9-4, Table 9-6: MFS. A listed register of a view that the task may read is written to gD; an unprivileged
task that names the privileged view (but PRIVST, 0x106) traps PRIV, an unlisted number ILLEGAL, whatever the guard; an empty gD captures
the value at issue and stalls.
The capture at issue is deduced (log 26). -/
def Sys2Proof.Claims.MfsResults : Prop :=
  ∀ (s : State) (o : OpsMfs) (x : Word),
    (∀ v, Passes o.g s → Holds s o.a x → s.curSlot.prog = .idle → (o.n.toNat < 0x100 ∨ s.curSlot.priv = true ∨ o.n = 0x106) →
      s.sreg o.n.toNat x = some v →
      (Free s o.d → WroteReg (exec (.mfs o) s) s o.d v) ∧
      (¬ Free s o.d → ∃ t, exec (.mfs o) s = .next t ∧ t.stalled = true ∧
        t.curSlot = { s.curSlot with prog := .captured v } ∧ SameSpecials s t ∧ SameMemory s t)) ∧
    (0x100 ≤ o.n.toNat → o.n ≠ 0x106 → s.curSlot.priv = false → Traps (exec (.mfs o) s) s .priv 0 (wordOfInstr (.mfs o))) ∧
    (s.sreg o.n.toNat 0 = none → (o.n.toNat < 0x100 ∨ s.curSlot.priv = true) →
      Traps (exec (.mfs o) s) s .illegal 0 (wordOfInstr (.mfs o))) ∧
    s.sreg 0x001 x = some (BitVec.ofNat 64 s.cur.slot) ∧ s.sreg 0x003 x = some (BitVec.ofNat 64 s.cur.core) ∧
    s.sreg 0x004 x = some (BitVec.ofNat 64 (s.cur.core / 48 / 4 * 8 + s.cur.core % 48 / 6)) ∧
    s.sreg 0x009 x = some s.stitch ∧ s.sreg 0x00A x = some s.tick ∧ s.sreg 0x00C x = some s.curSlot.fepend ∧
    s.sreg 0x109 x = some s.curCore.permits ∧ s.sreg 0x119 x = some s.curCore.ptbase ∧
    (∀ ix r, s.curSlot.handler = some ix → s.curCore.frecs.find? ix = some r →
      s.sreg 0x100 x = some (BitVec.ofNat 64 r.cause.code) ∧ s.sreg 0x101 x = some r.epc ∧ s.sreg 0x102 x = some r.info0 ∧
      s.sreg 0x103 x = some r.info1 ∧ s.sreg 0x104 x = some r.info2 ∧ s.sreg 0x105 x = some r.info3)

/-- R233, R231, Table 9-4: MTS. A privileged task writes WDOG, MEMTO, PTBASE, BUDGET, PERMITS, RAILSEL, CLASPk; an unprivileged one
traps PRIV and writes nothing; BUDGET and PERMITS are in force from the next stitch, so the reload and refill of this one go before; a
speculating slot stalls; CVSTAT is cleared where ones are written, by any task (R84). -/
def Sys2Proof.Claims.MtsResults : Prop :=
  ∀ (s : State) (g : Guard) (a : Reg) (fea : Bool) (v : Word) (k : BitVec 3),
    Passes g s → Holds s a v →
    (s.curSlot.priv = true → s.curSlot.spec = none →
      CoreBecame (exec (.mts ⟨g, a, fea, 0x10B⟩) s) s { s.curCore with wdog := v.extractLsb' 0 32 } ∧
      CoreBecame (exec (.mts ⟨g, a, fea, 0x10C⟩) s) s { s.curCore with memto := v.extractLsb' 0 32 } ∧
      CoreBecame (exec (.mts ⟨g, a, fea, 0x119⟩) s) s { s.curCore with ptbase := v &&& 0x0000FFFFFFFF0001 } ∧
      CoreBecame (exec (.mtsBudget ⟨g, a, fea⟩) s) s { s.curCore.reload s.stitch with budget := v.extractLsb' 0 32, budgetHeld := 0 } ∧
      CoreBecame (exec (.mtsPermits ⟨g, a, fea⟩) s) s { s.curCore.refill s.stitch with permits := v } ∧
      CoreBecame (exec (.mtsClasp ⟨g, a, fea, k⟩) s) s (s.curCore.writeClasp k.toNat v) ∧
      (∃ t, exec (.mtsRailsel ⟨g, a, fea⟩) s = .next t ∧ t.curCore.sgate = v.getLsbD 40 ∧ t.curCore.mxr = v.extractLsb' 27 3 ∧
        t.curCore.cpr = v.extractLsb' 24 3 ∧ t.cmaps.get cmapReset (dieOf s.cur.core) = v.extractLsb' 0 24 ∧
        (v.getLsbD 40 = false → .slice ∉ t.curCore.gated) ∧ SameRegsBut [] s t ∧ Onward s t ∧ SameTask s t ∧ SameMemory s t)) ∧
    (s.curSlot.spec = none → CoreBecame (exec (.mtsCvstat ⟨g, a, fea⟩) s) s
      (s.curCore.onCvstat s.curSlot.gang fun c => c &&& ~~~(v.extractLsb' 0 3))) ∧
    (s.curSlot.spec.isSome = true → Stalls (exec (.mtsCvstat ⟨g, a, fea⟩) s) s) ∧
    ∀ i ∈ [Instr.mts ⟨g, a, fea, 0x10B⟩, .mts ⟨g, a, fea, 0x10C⟩, .mts ⟨g, a, fea, 0x119⟩, .mtsBudget ⟨g, a, fea⟩, .mtsPermits ⟨g, a, fea⟩,
        .mtsRailsel ⟨g, a, fea⟩, .mtsClasp ⟨g, a, fea, k⟩],
      (s.curSlot.priv = true → s.curSlot.spec.isSome = true → Stalls (exec i s) s) ∧
      (s.curSlot.priv = false → Traps (exec i s) s .priv 0 (wordOfInstr i))

/-- R282, R283, Table 10-16: writing CLASPk sets en, budget, hdl and arc, whose reserved bits read 0; a clasp that withholds a token has hit
set; a one written to hit clears it and a zero keeps it; no other clasp
is changed. CLASP does the same to clasp gA[2:0] and brings the old word, with a hit that it sets then, to gD (R410); a task that is not privileged traps PRIV
unless its gang holds the region that the new word names and, where the clasp was set, the one that the old word names (R411). -/
def Sys2Proof.Claims.ClaspResults : Prop :=
  ∀ (s : State) (g : Guard) (d a b : Reg) (fea feb : Bool) (x v : Word) (k : Core) (n : Nat),
    ((k.writeClasp n v).clasp n = ⟨v.getLsbD 63, ((k.clasp n).hit || (decide (n < 8) && (k.clasp n).en && (k.clasp n).budget == 0 &&
        k.claspHeld (k.clasp n) != 0)) && !v.getLsbD 62, v.extractLsb' 40 16, v.extractLsb' 24 3, v.extractLsb' 0 24 &&& 0xFFFFF0⟩ ∧ ∀ m, m ≠ n → (k.writeClasp n v).clasp m = k.clasp m) ∧
    (Passes g s → Holds s a x → Holds s b v → Free s d →
      ((s.curSlot.priv = true ∨ ((s.curCore.clasp (x.toNat % 8)).en = false ∨
          s.ownRegion (s.curCore.clasp (x.toNat % 8)).hdl.toNat = true) ∧ s.ownRegion (v.extractLsb' 24 3).toNat = true) →
        ∃ t, exec (.clasp ⟨g, d, a, b, fea, feb⟩) s = .next t ∧
          t.curSlot.cell d = (if d = 0 then RegCell.zero else ⟨(s.curCore.strikeClasp (x.toNat % 8)).claspWord (x.toNat % 8), false, none⟩) ∧
          t.curCore.clasp (x.toNat % 8) = (s.curCore.writeClasp (x.toNat % 8) v).clasp (x.toNat % 8) ∧
          SameRegsBut [d] s t ∧ SamePredsBut [] s t ∧ Onward s t ∧ SameTask s t ∧ SameMemory s t) ∧
      (s.curSlot.priv = false → (s.ownRegion (v.extractLsb' 24 3).toNat = false ∨
          (s.curCore.clasp (x.toNat % 8)).en = true ∧ s.ownRegion (s.curCore.clasp (x.toNat % 8)).hdl.toNat = false) →
        Traps (exec (.clasp ⟨g, d, a, b, fea, feb⟩) s) s .priv 0 (wordOfInstr (.clasp ⟨g, d, a, b, fea, feb⟩))))

/-- R46 to R48, R84: the binding words of a channel. MTS of CHBIND names the channel in gA[5:0] and the word in gA[6]: word 0 sets
valid, priority, privilege and entry, word 1 source and parameter; a source above 6, or a timer of period 0, is ignored; c62 and c63
keep source and privilege. An unbound channel's messages are gone.
What becomes of discarded messages is deduced (log 16). -/
def Sys2Proof.Claims.BindingResults : Prop :=
  ∀ (s : State) (g : Guard) (a b : Reg) (fea feb : Bool) (x v : Word),
    Passes g s → Holds s a x → Holds s b v → s.curSlot.spec = none →
    let ch := s.curCore.chan (x.toNat % 64)
    (s.curSlot.priv = true → x.getLsbD 6 = false → v.getLsbD 63 = true → ∃ t, exec (.mtsChbind ⟨g, a, b, fea, feb⟩) s = .next t ∧
      t.curCore.chan (x.toNat % 64) = { ch with valid := true, prio := v.extractLsb' 60 3, entry := v.extractLsb' 3 49,
                                                priv := if 62 ≤ x.toNat % 64 then ch.priv else v.getLsbD 59 } ∧
      (∀ n, n ≠ x.toNat % 64 → t.curCore.chan n = s.curCore.chan n) ∧ SameRegsBut [] s t ∧ Onward s t ∧ SameTask s t ∧ SameMemory s t) ∧
    (s.curSlot.priv = true → x.getLsbD 6 = false → v.getLsbD 63 = false →
      ∃ t, exec (.mtsChbind ⟨g, a, b, fea, feb⟩) s = .next t ∧ (t.curCore.chan (x.toNat % 64)).valid = false ∧
        (t.curCore.chan (x.toNat % 64)).fifo = [] ∧ (t.curCore.chan (x.toNat % 64)).held = [] ∧ SameMemory s t) ∧
    (s.curSlot.priv = true → x.getLsbD 6 = true → (v.extractLsb' 60 4).toNat ≤ 6 →
      ¬ (v.extractLsb' 60 4 = 4 ∧ v.toNat % 2 ^ 32 = 0) → ∃ t, exec (.mtsChbind ⟨g, a, b, fea, feb⟩) s = .next t ∧
      t.curCore.chan (x.toNat % 64) = { ch with param := v.extractLsb' 0 48, timerLeft := v.toNat % 2 ^ 32, elapsed := 0,
                                                src := if 62 ≤ x.toNat % 64 then ch.src else v.extractLsb' 60 4 } ∧
      (∀ n, n ≠ x.toNat % 64 → t.curCore.chan n = s.curCore.chan n) ∧ SameRegsBut [] s t ∧ Onward s t ∧ SameTask s t ∧ SameMemory s t) ∧
    (s.curSlot.priv = true → x.getLsbD 6 = true →
      (6 < (v.extractLsb' 60 4).toNat ∨ v.extractLsb' 60 4 = 4 ∧ v.toNat % 2 ^ 32 = 0) →
      Passed (exec (.mtsChbind ⟨g, a, b, fea, feb⟩) s) s) ∧
    (s.curSlot.priv = false → Traps (exec (.mtsChbind ⟨g, a, b, fea, feb⟩) s) s .priv 0 (wordOfInstr (.mtsChbind ⟨g, a, b, fea, feb⟩)))

/-- R402 to R404, R409, R50, R60, R231: taking an exception, which TRAP and BKPT do with their code in EINFO1. The slot is suspended at
the trapping word, its registers as they are; the free record holds cause, EPC, EINFO0 to EINFO2 and the empty mask; its message is
posted on c63, or for TRAP on c62 when that is bound (else on c63 with EINFO0 bit 0). A speculating slot, or a core with no record
free, stalls. A miss of the translation buffers is no exception: the slot stalls and joins or begins the page's walk (R100). In a handler it is a double fault: the handler's task and its record are gone, and both are reported. -/
def Obligations.TakingAnException : Prop :=
  ∀ (s : State) (g : Guard) (code : BitVec 32) (e : Trap) (ix : Nat),
    (Passes g s → TrapsAs (exec (.trap ⟨g, code⟩) s) s ⟨.trap, 0, BitVec.ofInt 64 code.toInt, 0⟩ ∧
      TrapsAs (exec (.bkpt ⟨g, code⟩) s) s ⟨.bkpt, 0, BitVec.ofInt 64 code.toInt, 0⟩) ∧
    (e.isMiss = true → s.takeTrap e = { s.miss s.cur.core (.slot s.cur.core s.cur.slot s.curSlot.serial) e.info1 with stalled := true }) ∧
    (e.isMiss = false → s.curSlot.spec.isSome = true → s.takeTrap e = { s with stalled := true }) ∧
    (e.isMiss = false → s.curSlot.spec = none → s.curSlot.handler = none → s.curCore.freeFrec = none → s.takeTrap e = { s with stalled := true }) ∧
    (e.isMiss = false → s.curSlot.spec = none → s.curSlot.handler = none → s.curCore.freeFrec = some ix →
      let t := s.takeTrap e
      let chan := if e.cause = .trap ∧ (s.curCore.chan 62).valid = true then 62 else 63
      let info0 := if e.cause = .trap ∧ chan = 63 then BitVec.ofNat 64 e.detail ||| 1 else BitVec.ofNat 64 e.detail
      (s.curCore.chan chan).valid = true →
      t.curSlot = { s.curSlot with status := .suspended } ∧ (∀ n, n ≠ s.cur.slot → t.curCore.slot n = s.curCore.slot n) ∧
      SameMemory s t ∧ (∃ r, t.curCore.frecs.find? ix = some r ∧ r.subject = .slot s.cur.slot ∧ r.cause = e.cause ∧
        r.epc = s.curSlot.pc ∧ r.info0 = info0 ∧ r.info1 = e.info1 ∧ r.info2 = e.info2 ∧ r.mask = s.curSlot.fepend ∧
        r.gang = s.curSlot.gang ∧
        t.curCore.chan chan = (s.curCore.chan chan).post ⟨[BitVec.ofNat 64 e.cause.code, r.epc, r.info0, r.info1, r.info2, r.info3,
          r.mask], 0, [], [], some ix, none, false⟩)) ∧
    (∀ r, e.isMiss = false → s.curSlot.spec = none → s.curSlot.handler = some ix → s.curCore.frecs.find? ix = some r → r.subject = .report →
      (s.takeTrap e).curSlot = Slot.free ∧ (s.takeTrap e).curCore.frecs.find? ix = none ∧ SameMemory s (s.takeTrap e) ∧
      (s.takeTrap e).reports = s.reports ++ [Report.doubleFault s.cur.core e, Report.discarded s.cur.core r])

/-- R407, R408, Table 20-6: ERET by the handler of a suspended slot's record frees the handler's slot and the record, and the task runs
on: at the same word (after a TRAP or BKPT, past it; at a rewritten EPC, there) or past EPC. MTS of EPC rewrites the record's EPC, and a
misaligned value traps ALIGN. ERET outside a handler traps: PRIV, or ILLEGAL when privileged. -/
def Sys2Proof.Claims.EretResults : Prop :=
  ∀ (s : State) (g : Guard) (a : Reg) (fea : Bool) (v : Word) (ix n : Nat) (r : Frec),
    Passes g s →
    (s.curSlot.handler = none →
      Traps (exec (.eretResume ⟨g⟩) s) s (if s.curSlot.priv = true then .illegal else .priv) 0 (wordOfInstr (.eretResume ⟨g⟩)) ∧
      Traps (exec (.eretSkip ⟨g⟩) s) s (if s.curSlot.priv = true then .illegal else .priv) 0 (wordOfInstr (.eretSkip ⟨g⟩))) ∧
    (s.curSlot.handler = some ix → s.curSlot.spec = none → s.curCore.frecs.find? ix = some r → r.subject = .slot n →
      n ≠ s.cur.slot → (s.curCore.slot n).status = .suspended →
      (∃ t, exec (.eretResume ⟨g⟩) s = .next t ∧ t.curSlot = Slot.free ∧ t.curCore.frecs.find? ix = none ∧ SameMemory s t ∧
        (t.curCore.slot n).status = .occupied ∧ (∀ q, (t.curCore.slot n).cell q = (s.curCore.slot n).cell q) ∧
        ((t.curCore.slot n).pc, (t.curCore.slot n).loops) =
          if r.moved = true then (r.epc, (s.curCore.slot n).loops)
          else if r.cause = .trap ∨ r.cause = .bkpt then endProcess (s.curCore.slot n).pc (s.curCore.slot n).loops
          else ((s.curCore.slot n).pc, (s.curCore.slot n).loops)) ∧
      (∃ t, exec (.eretSkip ⟨g⟩) s = .next t ∧ t.curSlot = Slot.free ∧ t.curCore.frecs.find? ix = none ∧ SameMemory s t ∧
        (t.curCore.slot n).status = .occupied ∧ (∀ q, (t.curCore.slot n).cell q = (s.curCore.slot n).cell q) ∧
        ((t.curCore.slot n).pc, (t.curCore.slot n).loops) = endProcess r.epc (s.curCore.slot n).loops)) ∧
    (s.curSlot.handler = some ix → s.curSlot.spec = none → s.curCore.frecs.find? ix = some r → r.subject = .slot n →
      s.curSlot.priv = true → Holds s a v →
      (v.toNat % 8 = 0 → CoreBecame (exec (.mtsEpc ⟨g, a, fea⟩) s) s
        { s.curCore with frecs := s.curCore.frecs.set ix { r with epc := v, moved := true } }) ∧
      (v.toNat % 8 ≠ 0 → Traps (exec (.mtsEpc ⟨g, a, fea⟩) s) s .align 0 v))

/-- R407, R192, R193, R311, Table 20-6: a handler that returns from a record of another subject, or ENDs without ERET, frees the record and its
own slot. RESUME: the region runs on once no other record names it, unless it is to stop; the command restarts from its progress; the token retries from
its resume index; a report has no effect. SKIP, and END alike: a faulted region is to stop as by SSTOP, and does once it is quiescent
(ConfigStepResults); the command completes with
the rest unwritten, and its counter falls; the token is discarded, its counter falls, and tiles keep what was applied. -/
def Sys2Proof.Claims.ResolvesUnits : Prop :=
  ∀ (s : State) (g : Guard) (ix : Nat) (r : Frec), Passes g s → s.curSlot.handler = some ix → s.curSlot.spec = none →
    s.curCore.frecs.find? ix = some r →
    let k := s.curCore
    let leaves (i : Instr) (P : Core → Prop) : Prop := ∃ t, exec i s = .next t ∧ t.curSlot = Slot.free ∧
      (∀ n, n ≠ s.cur.slot → t.curCore.slot n = k.slot n) ∧ t.curCore.frecs = k.frecs.erase ix ∧ t.curCore.tiles = k.tiles ∧
      SameMemory s t ∧ (∀ e, e ≠ s.cur.core → t.core e = s.core e) ∧ P t.curCore
    let gives_up : List Instr := [.eretSkip ⟨g⟩, .endTask ⟨g⟩]
    (∀ h G, r.subject = .region h → k.regions.find? h = some G →
      (G.run = .faulted → G.stop = false → (∀ e ∈ k.frecs, e.1 ≠ ix → e.2.subject ≠ .region h) → leaves (.eretResume ⟨g⟩) fun u =>
        ∃ G', u.regions.find? h = some G' ∧ G'.run = .running ∧ G'.watch = 0 ∧ G'.fab = G.fab ∧ u.clasps = k.clasps) ∧
      (∀ e ∈ k.frecs, e.1 ≠ ix → e.2.subject = .region h → leaves (.eretResume ⟨g⟩) fun u =>
        ∃ G', u.regions.find? h = some G' ∧ G'.run = G.run ∧ G'.fab = G.fab) ∧
      ∀ i ∈ gives_up, leaves i fun u => u.regions.find? h = some (if G.run = .faulted then { G with stop := true } else G) ∧
        u.clasps = k.clasps ∧ u.mxq = k.mxq) ∧
    (∀ n x, r.subject = .command n → k.xus.find? n = some x →
      leaves (.eretResume ⟨g⟩) (fun u => u.xus.find? n = some { x with phase := .issued } ∧ u.sbs = k.sbs ∧
        ∀ m, m ≠ n → u.xus.find? m = k.xus.find? m) ∧
      ∀ i ∈ gives_up, leaves i fun u => u.xus.find? n = none ∧ u.sb x.sb.toNat = k.sb x.sb.toNat - 1 ∧
        (∀ b, b ≠ x.sb.toNat → u.sb b = k.sb b) ∧ ∀ m, m ≠ n → u.xus.find? m = k.xus.find? m) ∧
    (∀ id x, r.subject = .token id → k.mxq.find? (fun t => t.id = id) = some x →
      leaves (.eretResume ⟨g⟩) (fun u => ∃ y, u.mxq.find? (fun t => t.id = id) = some y ∧ y.phase = .started ∧ y.trap = none ∧
        y.resume = x.resume ∧ y.zeroed = x.zeroed ∧ y.w0 = x.w0 ∧ u.sbs = k.sbs) ∧
      ∀ i ∈ gives_up, leaves i fun u => (∀ y ∈ u.mxq, y.id ≠ id) ∧ (∀ y ∈ k.mxq, y.id ≠ id → y ∈ u.mxq) ∧
        (∀ b, x.counter = some b → u.sb b = k.sb b - 1) ∧ (x.counter = none → u.sbs = k.sbs)) ∧
    (r.subject = .report → ∀ i ∈ .eretResume ⟨g⟩ :: gives_up, leaves i fun u => u.regions = k.regions ∧ u.xus = k.xus ∧
      u.mxq = k.mxq ∧ u.sbs = k.sbs)

/-- R412, R340: TLBINV removes every buffered translation of the domain in the range, with the instruction lines of its pages, once
the slot's own accesses are performed; it completes when no older access of the range is owed; an unprivileged task traps PRIV, and gA of 2^52 or more XLATE. SBAR
completes exactly when every counter that gA names is 0.
What goes besides the buffered translations is deduced (log 29). -/
def Sys2Proof.Claims.TlbinvSbarResults : Prop :=
  ∀ (s : State) (g : Guard) (a b : Reg) (fea feb : Bool) (x y : Word),
    Passes g s → Holds s a x → Holds s b y →
    (s.curSlot.priv = false → Traps (exec (.tlbinv ⟨g, a, b, fea, feb⟩) s) s .priv 0 (wordOfInstr (.tlbinv ⟨g, a, b, fea, feb⟩))) ∧
    (s.curSlot.priv = true → s.curSlot.spec = none → x.toNat < 2 ^ 52 →
      (s.curSlot.prog = .idle → s.curCore.drained s.cur.slot = true → ∃ t, exec (.tlbinv ⟨g, a, b, fea, feb⟩) s = .next t ∧
        t.stalled = true ∧ t.curSlot = { s.curSlot with prog := .invalidated } ∧ SameMemory s t ∧
        (∀ e ∈ t.tlb, e.dom = s.curCore.domain.toNat → y ≠ 0 ∧ (e.page < x.toNat / 2 ^ 16 ∨ x.toNat / 2 ^ 16 + y.toNat ≤ e.page)) ∧
        (∀ e ∈ s.tlb, e.dom ≠ s.curCore.domain.toNat → e ∈ t.tlb) ∧
        (∀ c, ∀ e ∈ (t.core c).tlb, (t.core c).domain = s.curCore.domain →
          y ≠ 0 ∧ (e.1 < x.toNat / 2 ^ 16 ∨ x.toNat / 2 ^ 16 + y.toNat ≤ e.1))) ∧
      (s.curSlot.prog = .invalidated →
        (s.invalidating s.curCore.domain.toNat ⟨x.toNat / 2 ^ 16, y.toNat, y == 0⟩ = false →
          Passed (exec (.tlbinv ⟨g, a, b, fea, feb⟩) s) s) ∧
        (s.invalidating s.curCore.domain.toNat ⟨x.toNat / 2 ^ 16, y.toNat, y == 0⟩ = true →
          Stalls (exec (.tlbinv ⟨g, a, b, fea, feb⟩) s) s))) ∧
    (s.curSlot.priv = true → s.curSlot.spec = none → 2 ^ 52 ≤ x.toNat → Traps (exec (.tlbinv ⟨g, a, b, fea, feb⟩) s) s .xlate 2 x) ∧
    ((∀ n < 32, x.getLsbD n = true → s.curCore.sb n = 0) → Passed (exec (.sbar ⟨g, a, fea⟩) s) s) ∧
    (∀ n < 32, x.getLsbD n = true → s.curCore.sb n ≠ 0 → Waits (exec (.sbar ⟨g, a, fea⟩) s) s)

namespace Sys2Proof.Claims

open Sys2Proof.Machine

/-- R325: the word completed, having put command `c` into a free place of the transfer unit; its scoreboard counter is one higher;
nothing is read or written yet. -/
def TookCommand (o : Out) (s : State) (c : XuCmd) : Prop :=
  ∃ t ix, o = .next t ∧ ix < 32 ∧ s.curCore.xus.find? ix = none ∧ t.curCore.xus.find? ix = some c ∧
    (∀ j, j ≠ ix → t.curCore.xus.find? j = s.curCore.xus.find? j) ∧
    t.curCore.sb c.sb.toNat = s.curCore.sb c.sb.toNat + 1 ∧ (∀ n, n ≠ c.sb.toNat → t.curCore.sb n = s.curCore.sb n) ∧
    t.curCore.reqs = s.curCore.reqs ∧ t.curCore.records = s.curCore.records ∧ SameRegsBut [] s t ∧ SamePredsBut [] s t ∧
    Onward s t ∧ SameTask s t ∧ SameMemory s t

/-- A place of the transfer unit is free (R325). -/
def XuRoom (s : State) : Prop := ∃ j < 32, s.curCore.xus.find? j = none

end Sys2Proof.Claims

/-- R325 to R336: the commands of the transfer unit as they issue. With its records readable, its shapes, views and pages accepted, and
a place free, the command is taken with the records, the values of gA and gB, the conversion and the counter; with its shapes refused it
traps and takes no place; with 32 commands held its slot stalls. PUBLISH takes a DOUBLE record only. -/
def Sys2Proof.Claims.CommandsIssue : Prop :=
  ∀ (s : State) (o : OpsX) (p : OpsXi) (q : OpsXr) (f : OpsFill) (u : OpsPub) (x y : Word) (src dst idx : BitVec 256),
    s.curSlot.spec = none →
    (Passes o.g s → Holds s o.a x → Holds s o.b y → RecordIs s o.src src → RecordIs s o.dst dst →
      let cpy := s.newCmd .cpy o src dst x y
      let cpym := s.newCmd .cpym o src dst x y
      (XuRoom s → s.copyChecks s.curIssuer cpy = .ok () → TookCommand (exec (.cpy o) s) s cpy) ∧
      (XuRoom s → s.copyChecks s.curIssuer cpym = .ok () → TookCommand (exec (.cpym o) s) s cpym) ∧
      (∀ e, s.copyChecks s.curIssuer cpy = .error e → TrapsAs (exec (.cpy o) s) s e) ∧
      (¬ XuRoom s → s.copyChecks s.curIssuer cpy = .ok () → Waits (exec (.cpy o) s) s)) ∧
    (XuRoom s → Passes p.g s → Holds s p.a x → Holds s p.b y → RecordIs s p.src src → RecordIs s p.dst dst → RecordIs s p.idx idx →
      let ops : OpsX := ⟨p.g, p.src, p.dst, p.a, p.b, p.sb, p.conv, p.rnd, p.sat⟩
      let cpyg := { s.newCmd .cpyg ops src dst x y with idx := idx, idxIx := p.idx }
      let cpys := { s.newCmd .cpys ops src dst x y with idx := idx, idxIx := p.idx }
      (s.copyChecks s.curIssuer cpyg = .ok () → TookCommand (exec (.cpyg p) s) s cpyg) ∧
      (s.copyChecks s.curIssuer cpys = .ok () → TookCommand (exec (.cpys p) s) s cpys)) ∧
    (XuRoom s → Passes q.g s → Holds s q.a x → Holds s q.b y → RecordIs s q.src src → RecordIs s q.dst dst →
      let cpyr := s.newCmd (.cpyr q.op) ⟨q.g, q.src, q.dst, q.a, q.b, q.sb, q.conv, q.rnd, q.sat⟩ src dst x y
      s.copyChecks s.curIssuer cpyr = .ok () → TookCommand (exec (.cpyr q) s) s cpyr) ∧
    (XuRoom s → Passes f.g s → Holds s f.a x → Holds s f.b y → RecordIs s f.dst dst →
      let fill := s.newCmd .fill ⟨f.g, 0, f.dst, f.a, f.b, f.sb, 0, 0, false⟩ 0 dst x y
      s.copyChecks s.curIssuer fill = .ok () → TookCommand (exec (.fill f) s) s fill) ∧
    (XuRoom s → Passes u.g s → RecordIs s u.dst dst → recBad dst = false →
      (recKind dst = 1 → TookCommand (exec (.publish u) s) s
        (s.newCmd .publish ⟨u.g, 0, u.dst, 0, 0, u.sb, 0, 0, false⟩ 0 dst 0 0)) ∧
      (recKind dst ≠ 1 → ∃ e : Trap, e.cause = .format ∧ TrapsAs (exec (.publish u) s) s e))

namespace Sys2Proof.Claims

open Sys2Proof.Machine

/-- Command `x` stands at place `ix` of core `c`, moving, and nothing that it has asked for came back failed (R329). -/
def Moving (s : State) (c ix : Nat) (x : XuCmd) : Prop :=
  (s.core c).xus.find? ix = some x ∧ x.op ≠ .publish ∧ x.phase = .moving ∧ s.frozen x.gang = false ∧
  (s.core c).portError (.command c ix) = none

/-- The state once the command's performed writes have been taken. -/
def written (s : State) (c ix : Nat) (x : XuCmd) : State :=
  (s.setCore c ((s.core c).takeWritten (.command c ix))).setCmd c ix x

/-- Core `c` has sent request `op` for command `ix` to `t`, in the bulk class (R318). -/
def Asked (t : State) (c ix : Nat) (op : ReqOp) (tgt : Target) : Prop :=
  ∃ r ∈ (t.core c).reqs, r.op = op ∧ r.tgt = tgt ∧ r.unit = some (.command c ix) ∧ r.bulk = true ∧ (r.phase = .sent ∨ r.phase = .home)

end Sys2Proof.Claims

/-- R318, R329, R330, R334, R337: XU_SECTOR_WRITE moves a command on by one step and changes no byte of memory itself: with nothing to send it
reads what the next sector needs (CPYM only what it has not read yet, R334); once that is back it puts the sector's writes together, all of whose half bytes lie in that 64-byte sector
(a combine apart), and its progress is one more (a sector that an earlier fault left unwritten apart, log 19); it sends them as requests of the bulk class; for a sector performed it sends one
decrement to its barrier word. -/
def Sys2Proof.Claims.SectorWrite : Prop :=
  ∀ (s : State) (c ix : Nat) (x : XuCmd),
    ((s.core c).xus.find? ix = some x → ∃ t, exec (.xuSectorWrite ⟨c, ix⟩) s = .next t ∧ SameMemory s t) ∧
    (∀ sec ws, (∀ op, x.op ≠ .cpyr op) → ∀ h ∈ (x.sectorPut sec ws).op.halves, h / 128 = sec) ∧
    (Moving s c ix x → (∀ r ∈ (s.core c).portReqs (.command c ix), r.op = .fetch) → x.owed = 0 →
      let u := x.unit c ix
      let v := written s c ix x
      (∀ sec ps rest ws, x.out = [] → x.work = (sec, ps) :: rest → x.buf = [] → x.allWants ps = .ok ws →
        (∀ w, v.fetch u (x.unread ws) = .waiting w → exec (.xuSectorWrite ⟨c, ix⟩) s = .next w) ∧
        (∀ seen dst new, v.fetch u (x.unread ws) = .ready seen → x.dstOp = .ok dst → (seen.reread_ x).allWrites x dst ps = .ok new →
          ∃ t z, exec (.xuSectorWrite ⟨c, ix⟩) s = .next t ∧ (t.core c).xus.find? ix = some z ∧
            z.progress = x.progress + (if x.again = [] then 1 else 0) ∧ z.again = x.again.tail ∧
            (x.op = .cpym → ∀ w ∈ ws, ∃ e ∈ z.once, e.1 = w.key) ∧ z.work = rest ∧ z.owed = 0 ∧ (t.core c).sbs = (s.core c).sbs ∧
            z.out = x.scalePuts (new.map fun e => e.2) ++
              [x.sectorPut sec (ps.map fun p => (new.find? fun e => e.1 == p).elim [] fun e => e.2.data)])) ∧
      (∀ p ps, x.out = p :: ps → (v.core c).permitted c (u.req p.op p.target).dest = true →
        ∃ t, exec (.xuSectorWrite ⟨c, ix⟩) s = .next t ∧ Asked t c ix p.op p.target)) ∧
    (∀ va key, Moving s c ix x → (∀ r ∈ (s.core c).portReqs (.command c ix), r.op = .fetch) → 0 < x.owed → x.out = [] →
      x.bar = some (va, key) → ((written s c ix x).core c).permitted c (destOf (.mem key)) = true →
      ∃ t z, exec (.xuSectorWrite ⟨c, ix⟩) s = .next t ∧ Asked t c ix .decrement ⟨.mem key, va, 16, 0, 16, none⟩ ∧
        (t.core c).xus.find? ix = some z ∧ z.owed = x.owed - 1)

/-- R318, R325, R336, R383: XU_COMMAND_COMPLETE frees the command's place and lowers its counter by one, once every write and decrement is
performed, and not before. PUBLISH_SWAP sends the PUBLISH to its hem die, and completes the command when the answer is back; there it
exchanges face and lining of the record's lid, once the slot's earlier accesses are performed. COLLAR_READ_RELEASE performs a held read
exactly as PERFORMED_AT_HOME does, when its slot's sect is 0, and leaves it while it is not, or while the translation of its slot is not buffered. -/
def Sys2Proof.Claims.CommandsComplete : Prop :=
  ∀ (s : State) (c ix id : Nat) (x : XuCmd) (r : Req),
    ((s.core c).xus.find? ix = some x → s.frozen x.gang = false →
      ((s.core c).xuOver c ix x = true → ∃ t, exec (.xuCommandComplete ⟨c, ix⟩) s = .next t ∧ SameMemory s t ∧
        (t.core c).xus.find? ix = none ∧
        (t.core c).sb x.sb.toNat = (s.core c).sb x.sb.toNat - 1 ∧ ∀ n, n ≠ x.sb.toNat → (t.core c).sb n = (s.core c).sb n) ∧
      ((s.core c).xuOver c ix x = false → exec (.xuCommandComplete ⟨c, ix⟩) s = .next s) ∧
      (x.op = .publish → x.phase ≠ .faulted → (s.core c).portReqs (.command c ix) = [] →
        ∃ t, exec (.publishSwap ⟨c, ix⟩) s = .next t ∧ SameMemory s t ∧ t.linings = s.linings ∧
          Asked t c ix (.publish (recLid x.dst) x.slot x.mark) { noTarget with va := recBase x.dst }) ∧
      (∀ p, x.op = .publish → x.phase ≠ .faulted → (s.core c).portReqs (.command c ix) = [r] → r.phase = .back p → p.error = none →
        ∃ t, exec (.publishSwap ⟨c, ix⟩) s = .next t ∧ SameMemory s t ∧ t.linings = s.linings ∧ (t.core c).xus.find? ix = none ∧
          (t.core c).sb x.sb.toNat = (s.core c).sb x.sb.toNat - 1)) ∧
    (∀ lid slot mark, r.op = .publish lid slot mark → r.tgt.hold = none → r.phase ≠ .unsent → (s.lining lid).valid = true →
      (s.lining lid).dom.toNat = r.dom →
      (AtHome s c id r → ∃ t, exec (.performedAtHome ⟨c, id⟩) s = .next t ∧ SameMemory s t ∧ Replied t c id Reply.empty ∧
        (t.lining lid).fl = !(s.lining lid).fl ∧ ∀ n, n ≠ lid → t.lining n = s.lining n) ∧
      ((s.core c).req? id = some r → (∃ q ∈ (s.core c).reqs, q.slot = slot ∧ q.id < mark ∧ (q.phase = .sent ∨ q.phase = .home)) →
        exec (.performedAtHome ⟨c, id⟩) s = .next s)) ∧
    (∀ va, (s.core c).req? id = some r → r.tgt.hold = some va → r.phase = .home →
      let u := s.lookHold c ((s.core c).reqPort c r) (some va)
      ((∀ key, u.collarKey c ((u.core c).reqPort c r) va = some key → barSect (u.barWord key) ≠ 0) →
        ∃ t, exec (.collarReadRelease ⟨c, id⟩) s = .next t ∧ SameMemory s t ∧ (t.core c).req? id = some r) ∧
      (∀ key d, u.collarKey c ((u.core c).reqPort c r) va = some key → barSect (u.barWord key) = 0 → AtHome s c id r →
        r.op = .load d false → (∃ home, r.tgt.home = .mem home) →
        ∃ t p, exec (.collarReadRelease ⟨c, id⟩) s = .next t ∧ exec (.performedAtHome ⟨c, id⟩) s = .next t ∧ Replied t c id p ∧
          SameMemory s t))
namespace Sys2Proof.Claims

open Sys2Proof.Machine

/-- R192: handle `h` names region `g` of the running task's gang, which stands still for no move or save, and no steering instruction to it is
unanswered. -/
def Steers (s : State) (h : Nat) (g : Region) : Prop :=
  s.curCore.regions.find? h = some g ∧ s.curSlot.gang = some g.gang ∧ s.curCore.steering h = [] ∧ g.moving = false ∧
  s.frozen (some g.gang) = false

/-- R185, R246: every active bank of a region was bound, and none of its frames is poisoned. -/
def Sound (g : Region) : Prop := ∀ e ∈ g.active, e.2.state ≠ .invalid ∧ e.2.poisoned = []

/-- The word completed with gd empty (g0 excepted), the running core's next request being its own; the rest of the task and memory as
before. -/
def Steered (s t : State) (d : Reg) : Prop :=
  (d ≠ 0 → (t.curSlot.cell d).empty = true) ∧ SameRegsBut [d] s t ∧ SamePredsBut [] s t ∧ Onward s t ∧ SameTask s t ∧ SameMemory s t

/-- Request `id` of a core has its reply back: `v` for gd. -/
def AnswerIs (k : Core) (id : Nat) (d : Reg) (v : Word) : Prop :=
  ∃ r ∈ k.reqs, r.id = id ∧ r.phase = .back (Reply.of [(d, v)])

/-- Region `h` of core `c` is `g`; it is not frozen by compaction or a save, and no SCFG load to it is outstanding. -/
def Live (s : State) (c h : Nat) (g : Region) : Prop :=
  (s.core c).regions.find? h = some g ∧ g.moving = false ∧ s.frozen (some g.gang) = false ∧ (s.core c).loading h = false

end Sys2Proof.Claims

/-- R192, R193, R194, Table 8-7: SGO, SNEXT and SSTOP to a region of the task's own gang, no other steering instruction waiting. SGO runs a held
region (prior state 0), starts a done one again from its first configuration (2), and only reports a running or faulted one (1, 3).
SNEXT and SSTOP ask the region for a step or a stop, or are answered with all ones when it is done. Another handle traps FRAME. -/
def Obligations.SteeringResults : Prop :=
  ∀ (s : State) (o : OpsDA) (x : Word) (g : Region),
    let h := (x.extractLsb' 0 3).toNat
    let id := s.curCore.nextReq
    Passes o.g s → Holds s o.a x → s.curSlot.spec = none →
    (s.ownRegion h = false → Traps (exec (.sgo o) s) s .frame 1 0 (BitVec.ofNat 64 h) ∧
      Traps (exec (.snext o) s) s .frame 1 0 (BitVec.ofNat 64 h) ∧ Traps (exec (.sstop o) s) s .frame 1 0 (BitVec.ofNat 64 h)) ∧
    (Free s o.d → Steers s h g →
      (g.run = .held → Sound g → ∃ t g', exec (.sgo o) s = .next t ∧ Steered s t o.d ∧
        t.curCore.regions.find? h = some g' ∧ g'.run = .running ∧ g'.cfgpc = g.cfgpc ∧ AnswerIs t.curCore id o.d 0) ∧
      (∀ st g₀, g.run = .done st → g.doneOwed = none → s.curCore.bindFirst g = some g₀ → Sound g₀ → ∃ t g', exec (.sgo o) s = .next t ∧ Steered s t o.d ∧
        t.curCore.regions.find? h = some g' ∧ g'.run = .running ∧ g'.cfgpc = 0 ∧ (∀ i ∈ g'.idx, i = 0) ∧
        AnswerIs t.curCore id o.d 2) ∧
      (g.run = .faulted → ∃ t, exec (.sgo o) s = .next t ∧ Steered s t o.d ∧ t.curCore.regions.find? h = some g ∧
        AnswerIs t.curCore id o.d 3) ∧
      (g.run = .running → g.stop = false → g.next = false → g.rootDone = false → g.fab.swapped = [] →
        ∃ t, exec (.snext o) s = .next t ∧ Steered s t o.d ∧ t.curCore.regions.find? h = some { g with next := true } ∧
          ∃ r ∈ t.curCore.reqs, r.id = id ∧ r.op = .steer o.d h .next) ∧
      (g.run = .running → ∃ t, exec (.sstop o) s = .next t ∧ Steered s t o.d ∧
        t.curCore.regions.find? h = some { g with stop := true } ∧ ∃ r ∈ t.curCore.reqs, r.id = id ∧ r.op = .steer o.d h .stop) ∧
      (∀ st, g.run = .done st → (∃ t, exec (.snext o) s = .next t ∧ Steered s t o.d ∧ t.curCore.regions.find? h = some g ∧
          AnswerIs t.curCore id o.d 0xFFFFFFFFFFFFFFFF) ∧
        (∃ t, exec (.sstop o) s = .next t ∧ Steered s t o.d ∧ t.curCore.regions.find? h = some g ∧
          AnswerIs t.curCore id o.d 0xFFFFFFFFFFFFFFFF)))

/-- R187, R38, R190, R192, R194: CONFIG_STEP. A step that SNEXT asked for, every firing complete and its shadow banks filled, discards the tokens on arcs, makes every
patch's shadow frames active, advances CFGPC and indices, and answers the SNEXT with the number discarded, those that waited at edges of a rolling step among them; at the last position the
region is done with status 0 instead. A stop makes it done with status 1, clears its clasps and answers the SSTOP. -/
def Sys2Proof.Claims.ConfigStepResults : Prop :=
  ∀ (s : State) (c h : Nat) (g₀ g : Region),
    let v := s.onCore c fun k => k.takeUpAll h
    Live s c h g₀ → Live v c h g → v.settled c h g = true → ((v.core c).steering h).head?.any (fun r => r.steers .go) = false →
    let discarded := BitVec.ofNat 64 (((g.fab.arcs ++ g.fab.edges).map fun e => e.2.length).sum)
    let first (how : Steering) (r : Req) := ((v.core c).acting h).find? (fun r => r.steers how) = some r ∧
      ∀ q ∈ (v.core c).reqs, q.id = r.id → q = r
    (∀ pos, g.run = .running → g.next = true → g.nextPos = some pos → g.shadowed = true →
      (∀ e ∈ g.shadow, e.2.state ≠ .invalid ∧ e.2.poisoned = []) → Sound g →
      ∃ t g', exec (.configStep ⟨c, h⟩) s = .next t ∧ SameMemory s t ∧ (t.core c).regions.find? h = some g' ∧
        g'.cfgpc = pos.1 ∧ g'.idx = pos.2 ∧ g'.next = false ∧ g'.rootDone = false ∧ g'.fab.arcs = [] ∧ g'.run = .running ∧
        (∀ p < g.len, (g'.active.get Bank.none p).frames = (g.shadow.get Bank.none p).frames) ∧
        (∀ r d, first .next r → r.op = .steer d h .next → AnswerIs (t.core c) r.id d discarded)) ∧
    (g.run = .running → g.next = true → g.nextPos = none → ∃ t g', exec (.configStep ⟨c, h⟩) s = .next t ∧ SameMemory s t ∧
      (t.core c).regions.find? h = some g' ∧ g'.run = .done 0 ∧ g'.doneOwed = some 0 ∧ g'.cfgpc = g.cfgpc) ∧
    (g.run = .running → g.next = false → g.rootDone = false → g.stop = true → g.fab.swapped = [] →
      ∃ t g', exec (.configStep ⟨c, h⟩) s = .next t ∧ SameMemory s t ∧ (t.core c).regions.find? h = some g' ∧
        g'.run = .done 1 ∧ g'.doneOwed = some 1 ∧ (∀ e ∈ (t.core c).clasps, e.2.hdl.toNat = h → e.2.en = false) ∧
        (∀ r d, first .stop r → r.op = .steer d h .stop → AnswerIs (t.core c) r.id d discarded))

/-- R191, R339, R362: SCFG, with no acquire of its slot outstanding, takes a load in hand and raises its counter; SCFG_LOAD_DONE asks for what it still has to read, and
when it is read fills the region's shadow banks with the frames of
configuration n, or leaves them invalid, and lowers the counter; SBIND binds an AG of a patch to a record and a counter. A handle
that is no region of the gang traps FRAME. -/
def Sys2Proof.Claims.ConfigLoads : Prop :=
  ∀ (s : State) (o : OpsCfg) (x : Word) (r : BitVec 256) (g : Region) (c ix : Nat) (q : Scfg),
    let h := (x.extractLsb' 16 3).toNat
    let hb := (x.extractLsb' 0 3).toNat
    let p := (x.extractLsb' 3 3).toNat
    let a := (x.extractLsb' 6 1).toNat
    (Passes o.g s → Holds s o.b x → s.curSlot.spec = none → RecordIs s o.src r →
      (s.ownRegion h = true → s.curCore.acquiring s.cur.slot = false → ∃ t id, exec (.scfg o) s = .next t ∧ s.curCore.scfgs.find? id = none ∧
        t.curCore.scfgs.find? id = some ⟨r, o.src.toNat, h, (x.extractLsb' 0 16).toNat, o.sb, s.cur.slot, s.curSlot.gang,
          s.curCore.domain.toNat, s.curSlot.priv⟩ ∧
        t.curCore.sb o.sb.toNat = s.curCore.sb o.sb.toNat + 1 ∧ t.curCore.regions = s.curCore.regions ∧
        SameRegsBut [] s t ∧ SamePredsBut [] s t ∧ Onward s t ∧ SameTask s t ∧ SameMemory s t) ∧
      (s.ownRegion h = false → ∃ u : State, exec (.scfg o) s = .next (u.takeTrap ⟨.frame, 1, 0, BitVec.ofNat 64 h⟩) ∧
        u.curSlot = s.curSlot ∧ u.curCore.scfgs = s.curCore.scfgs) ∧
      (s.ownRegion hb = true → s.curCore.regions.find? hb = some g → p < g.len → (agFrame (g.frames p) a).isSome = true →
        ∃ t g', exec (.sbind o) s = .next t ∧ t.curCore.regions.find? hb = some g' ∧
          g'.binds.find? (2 * p + a) = some ⟨o.src, o.sb, s.cur.slot, s.curSlot.priv⟩ ∧ { g' with binds := g.binds } = g ∧
          SameRegsBut [] s t ∧ SamePredsBut [] s t ∧ Onward s t ∧ SameTask s t ∧ SameMemory s t)) ∧
    ((s.core c).scfgs.find? ix = some q → (s.core c).regions.find? q.hdl = some g → g.fab.swapped = [] → g.moving = false → s.frozen q.gang = false →
      (∀ e ∈ (s.core c).scfgs, e.2.hdl = q.hdl → ix ≤ e.1) →
      (∀ w, s.scfgLoad c ix q g.len g.base = .waiting w → exec (.scfgLoadDone ⟨c, ix⟩) s = .next w) ∧
      (∀ groups, s.scfgLoad c ix q g.len g.base = .done groups → ∃ t g', exec (.scfgLoadDone ⟨c, ix⟩) s = .next t ∧ SameMemory s t ∧
        (t.core c).regions.find? q.hdl = some g' ∧ (t.core c).scfgs.find? ix = none ∧
        (∀ i < g.len, g'.shadow.find? i = some ⟨.override, groups.getD i [], []⟩) ∧ g'.active = g.active ∧
        (t.core c).sb q.sb.toNat = (s.core c).sb q.sb.toNat - 1) ∧
      (∀ e, s.scfgLoad c ix q g.len g.base = .failed e → ∃ t g', exec (.scfgLoadDone ⟨c, ix⟩) s = .next t ∧ SameMemory s t ∧
        (t.core c).regions.find? q.hdl = some g' ∧ (∀ i < g.len, g'.shadow.find? i = some ⟨.invalid, [], []⟩) ∧
        g'.active = g.active ∧ (t.core c).sb q.sb.toNat = (s.core c).sb q.sb.toNat - 1))

/-- R185, R188, R189, R246, R290, R283: PRELOAD_DONE fills an empty shadow bank from the resident image, invalid if the configuration is not
for the region's base; ROLLING_SWAP makes the shadow frames of a drained
patch, whose writes are performed (log 39), active, on its own; REGION_DONE ends a region at its last position with status 0 and posts the message of one that is
done and whose accesses are performed, once; CLASP_DELIVERY sets hit of an exhausted clasp whose arc holds a token, and posts its message. -/
def Obligations.RegionEvents : Prop :=
  ∀ (s : State) (c h p n : Nat) (g : Region), (s.core c).regions.find? h = some g →
    (∀ m fs, (s.core c).loading h = false → p < g.len → g.shadow.find? p = none → g.fab.swapped = [] →
      (s.core c).nextFrames g = some m → m[p]? = some fs → ∃ t g', exec (.preloadDone ⟨c, h⟩) s = .next t ∧ SameMemory s t ∧
        (t.core c).regions.find? h = some g' ∧ g'.active = g.active ∧
        g'.shadow.find? p = some (if m.length = g.len ∧ mxOk g.base (mxPatches m) = true then ⟨.valid, fs, []⟩ else ⟨.invalid, [], []⟩)) ∧
    (∀ b, Live s c h g → g.run = .running → g.armed p = true → g.next = false → g.nextPos.isSome = true → p < g.len →
      p ∉ g.fab.swapped → g.stop = false → g.inputsEnded p = true → g.innerEmpty p = true → g.leftEnded p = true →
      (s.core c).agsWritten h g p = true → g.shadow.find? p = some b → b.state ≠ .invalid → b.poisoned = [] → Sound g →
      ∃ t g', exec (.rollingSwap ⟨c, h, p⟩) s = .next t ∧ SameMemory s t ∧ (t.core c).regions.find? h = some g' ∧
        g'.frames p = b.frames ∧ (∀ q, q ≠ p → g'.frames q = g.frames q)) ∧
    (g.moving = false → s.frozen (some g.gang) = false → s.atEnd c h g = true → s.performed c h g = true → ∃ t g', exec (.regionDone ⟨c, h⟩) s = .next t ∧
      SameMemory s t ∧ (t.core c).regions.find? h = some g' ∧ g'.run = .done 0 ∧ g'.doneOwed = none) ∧
    (∀ st i, g.moving = false → s.frozen (some g.gang) = false → g.run = .done st → g.doneOwed = some st → s.performed c h g = true →
      (∀ x ∈ (s.core c).mxq, x.ofRegion h = true → x.phase = .faulted) → i < 64 →
      ((s.core c).chan i).valid = true → ((s.core c).chan i).src = 1 → ((s.core c).chan i).param.toNat % 8 = h →
      ∃ t g', exec (.regionDone ⟨c, h⟩) s = .next t ∧ SameMemory s t ∧ (t.core c).regions.find? h = some g' ∧
        g'.doneOwed = none ∧ (t.core c).chan i = ((s.core c).chan i).post
          ⟨[BitVec.ofNat 64 h, BitVec.ofNat 64 st, 0], 0, [], [], none, none, false⟩) ∧
    (n < 8 → ((s.core c).clasp n).hdl.toNat = h → ((s.core c).clasp n).en = true → ((s.core c).clasp n).hit = false →
      ((s.core c).clasp n).budget = 0 → (g.fab.arcs.get [] ((s.core c).clasp n).arc.toNat) ≠ [] → s.frozen (some g.gang) = false →
      ∃ t, exec (.claspDelivery ⟨c, n⟩) s = .next t ∧ SameMemory s t ∧ (t.core c).clasp n = { (s.core c).clasp n with hit := true } ∧
        (∀ m, m ≠ n → (t.core c).clasp m = (s.core c).clasp m) ∧
        ∀ i < 64, ((s.core c).chan i).valid = true → ((s.core c).chan i).src = 5 → ((s.core c).chan i).param.toNat % 8 = n →
          (t.core c).chan i = ((s.core c).chan i).post ⟨[BitVec.ofNat 64 n, ((s.core c).clasp n).arc.setWidth 64,
            BitVec.ofNat 64 (g.fab.arcs.get [] ((s.core c).clasp n).arc.toNat).length], 0, [], [], none, none, false⟩)

namespace Sys2Proof.Claims

open Sys2Proof.Machine

/-- What a stage of a CU needs to fire (R241, R248 to R251, R352): its region runs, a frame names it, its token `a` is there (from arc `arc`
for stage 0), the tokens on its other pins are there, it holds none itself, what it writes has room, it has its permits, and the tokens
carry one marker and no scale metadata. -/
structure StageReady (s : State) (c h p cu st : Nat) (g : Region) (f : CFrame) (arc : Option Nat) (a : StageTok)
    (toks : List (Nat × Token)) : Prop where
  live : s.liveRegion c h = some g
  frame : stageFrame (g.frames p) cu st = some f
  token : stageToken (s.core c) h g p cu st f = some (arc, a)
  inputs : stageInputs (s.core c) h g p (stagePins g p cu st f (a.tok.mark == 0)) = some toks
  empty : g.fab.stages.find? (stageKey p cu st) = none
  room : ((stageOuts (g.frames p) cu st f (a.tok.mark == 0)).all fun pin => g.room p pin) = true
  permits : Site.mayFire ⟨s.core c, g⟩ s.stitch p (usesSfu f) = true
  marks : sameMark (a.tok :: toks.map fun e => e.2) = true
  plain : strayScale (a.tok :: toks.map fun e => e.2) = false

/-- The codes of Tables 10-8 to 10-14 and their rows. -/
def cellRows : List ((StageAt → Instr) × Nat) :=
  [(.pass, 0x00), (.const, 0x01), (.iadd, 0x10), (.isub, 0x11), (.iaddc, 0x12), (.isubb, 0x13), (.imul, 0x14), (.imulh, 0x15),
   (.imacc, 0x16), (.imad, 0x17), (.iand, 0x18), (.ior, 0x19), (.ixor, 0x1A), (.ishl, 0x1B), (.ishr, 0x1C), (.isar, 0x1D),
   (.imin, 0x1E), (.imax, 0x1F), (.iminu, 0x20), (.imaxu, 0x21), (.icmp, 0x22), (.isel, 0x23), (.dot4, 0x24), (.iabs, 0x25),
   (.ipopc, 0x26), (.iclz, 0x27), (.fadd, 0x30), (.fsub, 0x31), (.fmul, 0x32), (.ffma, 0x33), (.fmin, 0x34), (.fmax, 0x35)]
  ++ [(.fcmp, 0x36), (.fsel, 0x37), (.fmod, 0x38), (.hadd2, 0x40), (.hmul2, 0x41), (.hfma2, 0x42), (.hmax2, 0x43), (.hdot2, 0x44),
   (.cvtif, 0x50), (.cvtfi, 0x51), (.cvtfh, 0x52), (.cvthf, 0x53), (.rcp, 0x60), (.rsq, 0x61), (.sqrt, 0x62), (.exp2, 0x63),
   (.log2, 0x64), (.shufl, 0x70), (.shufr, 0x71), (.bcast, 0x72), (.xadd, 0x73), (.xmax, 0x74), (.xfadd, 0x75), (.hld, 0x78),
   (.hacc, 0x79), (.hfacc, 0x7A), (.hout, 0x7B)]

/-- The events in which the stage fires: the row of each operation that its frame names, and for another stage than the last FIRING. -/
def StageRow (i : Instr) (c h p cu st : Nat) (f : CFrame) : Prop :=
  (∃ e ∈ cellRows, i = e.1 ⟨c, h, p, cu, st⟩ ∧ ∃ n < 16, laneOp (cuLane f n) = e.2) ∨
    (i = .firing ⟨c, h, p, .cu cu st⟩ ∧ st ≠ 5)

/-- R250: the immediate that travels with the token: a token on si0 at stage 0, on si1 at stage 3, else as before. -/
def stageImm (g : Region) (p cu st : Nat) (f : CFrame) (a : StageTok) (toks : List (Nat × Token)) : Option Lane :=
  let pins := stagePins g p cu st f (a.tok.mark == 0)
  if st = 0 then (tokenAt pins toks (12 * cu + 6)).map Token.value
  else if st = 3 then (tokenAt pins toks (12 * cu + 7)).map Token.value else a.imm

/-- Table 10-7, R253, R260: what lane `n` of a data firing reads: B by its bsrc from the immediate, its hold register, the lane to its left or
the inb token; and whether it is valid. -/
def laneB (f : CFrame) (a : Token) (port : Option Token) (imm h : Lane) (n : Nat) : Lane :=
  match laneBsrc (cuLane f n) with
  | 0 => imm
  | 1 => h
  | 2 => if n = 0 then 0 else a.lane (n - 1)
  | _ => (port.map fun t => t.lane n).getD 0

/-- R253: whether lane `n` computes, for operand B. -/
def laneValid (f : CFrame) (a : Token) (port : Option Token) (b : Lane) (n : Nat) : Bool :=
  match laneOp (cuLane f n) with
  | 0x70 => a.mask.getLsbD ((n + b.toNat % 16) % 16)
  | 0x71 => a.mask.getLsbD ((n + 16 - b.toNat % 16) % 16)
  | 0x72 => a.mask.getLsbD (b.toNat % 16)
  | _ => a.mask.getLsbD n && port.all fun t => t.mask.getLsbD n

end Sys2Proof.Claims

/-- R248 to R254: a stage that may fire on a data token fires in the event of any operation its frame names (and in FIRING). The token moves
on from the stage before, or from its arc; lane by lane, the carry passing upward, a valid lane holds its cell's result and an invalid
one 0, and hold registers change as hw or the operation says; every hold register of other stages is as before. -/
def Sys2Proof.Claims.StageFires : Prop :=
  ∀ (s : State) (c h p cu st : Nat) (g : Region) (f : CFrame) (arc : Option Nat) (a : StageTok) (toks : List (Nat × Token)) (i : Instr),
    StageReady s c h p cu st g f arc a toks → st < 6 → StageRow i c h p cu st f → a.tok.mark = 0 →
    let imm := stageImm g p cu st f a toks
    let pins := stagePins g p cu st f true
    let port := if usesPort f then (tokenAt pins toks (12 * cu + cuInb f)).map Token.asVector else none
    let key := stageKey p cu st
    ∃ (t : State) (g' : Region) (tok : Token) (carry : Nat → Lane), exec i s = .next t ∧ SameMemory s t ∧
      (t.core c).regions.find? h = some g' ∧ g'.fab.stages.find? key = some ⟨tok, imm⟩ ∧
      (0 < st → g'.fab.stages.find? (stageKey p cu (st - 1)) = none) ∧
      tok.kind = .vector ∧ tok.mark = 0 ∧ tok.scale = none ∧
      carry 0 = ((tokenAt pins toks (12 * cu + 10)).map Token.value).getD 0 ∧
      (∀ n < 16, let hk := holdKey key n (cuHidx f)
        let old := g.fab.holds.get 0 hk
        let new := g'.fab.holds.get 0 hk
        let cin := if laneCin (cuLane f n) then carry n else 0
        let b := laneB f a.tok port (imm.getD (cuImm f)) old n
        let r := cellOp (laneOp (cuLane f n)) ⟨cuRm f, a.tok.lane n, b, imm.getD (cuImm f), old,
          g.fab.holds.get 0 (holdKey key n 0), cin, n, (List.range 16).map a.tok.lane, a.tok.mask⟩
        if laneValid f a.tok port b n then
          tok.lane n = r.r ∧ tok.mask.getLsbD n = true ∧ carry (n + 1) = r.carry ∧
            new = (match r.hold with | some v => v | none => if laneHw (cuLane f n) then r.r else old)
        else tok.lane n = 0 ∧ tok.mask.getLsbD n = false ∧ carry (n + 1) = cin ∧ new = old) ∧
      (∀ k, (∀ n < 16, k ≠ holdKey key n (cuHidx f)) → g'.fab.holds.get 0 k = g.fab.holds.get 0 k)

/-- R242, R248, R252: a stage passes a marker on, with no data and no lane valid; a marker of level hrst or higher, WSET excepted, sets h(hidx) of every
cell of the stage to 0; no other hold register and no memory changes. Stage 5 hands its token to vo0 and so0 when both have room. -/
def Sys2Proof.Claims.StagePassesMarkers : Prop :=
  ∀ (s : State) (c h p cu st : Nat) (g : Region) (f : CFrame) (arc : Option Nat) (a : StageTok) (toks : List (Nat × Token)) (i : Instr),
    (StageReady s c h p cu st g f arc a toks → st < 6 → StageRow i c h p cu st f → a.tok.mark ≠ 0 →
      ∃ (t : State) (g' : Region), exec i s = .next t ∧ SameMemory s t ∧ (t.core c).regions.find? h = some g' ∧
        g'.fab.stages.find? (stageKey p cu st) = some ⟨⟨.vector, 0, 0, a.tok.mark, none⟩, stageImm g p cu st f a toks⟩ ∧
        (0 < st → g'.fab.stages.find? (stageKey p cu (st - 1)) = none) ∧
        (∀ n < 16, g'.fab.holds.get 0 (holdKey (stageKey p cu st) n (cuHidx f)) =
          if cuHrst f ≠ 0 ∧ a.tok.mark ≠ 6 ∧ cuHrst f ≤ a.tok.mark.toNat then 0
          else g.fab.holds.get 0 (holdKey (stageKey p cu st) n (cuHidx f))) ∧
        (∀ k, (∀ n < 16, k ≠ holdKey (stageKey p cu st) n (cuHidx f)) → g'.fab.holds.get 0 k = g.fab.holds.get 0 k)) ∧
    (s.liveRegion c h = some g → g.fab.stages.find? (stageKey p cu 5) = some a → g.room p (12 * cu + 4) = true →
      g.room p (12 * cu + 8) = true → ∃ (t : State) (g' : Region), exec (.firing ⟨c, h, p, .cu cu 5⟩) s = .next t ∧ SameMemory s t ∧
        (t.core c).regions.find? h = some g' ∧ g'.fab.stages.find? (stageKey p cu 5) = none ∧ g'.fab.holds = g.fab.holds)

/-- R255, Table 10-8: the integer, constant and select operations, results modulo 2^32, with their carries: IADDC, ISUBB and IMACC carry what the
32 bits do not hold; every other operation carries 0. -/
def Sys2Proof.Claims.IntegerCells : Prop :=
  ∀ x : CellIn, let r (op : Nat) := (cellOp op x).r
    r 0x00 = x.a ∧ r 0x01 = x.imm ∧ r 0x10 = x.a + x.b ∧ r 0x11 = x.a - x.b ∧
    ((r 0x12).toNat + 2 ^ 32 * (cellOp 0x12 x).carry.toNat = x.a.toNat + x.b.toNat + x.c.toNat) ∧
    (((r 0x13).toNat : Int) - 2 ^ 32 * (cellOp 0x13 x).carry.toNat = (x.a.toNat : Int) - x.b.toNat - x.c.toNat) ∧
    r 0x14 = x.a * x.b ∧ (r 0x15).toInt = x.a.toInt * x.b.toInt / 2 ^ 32 ∧
    ((r 0x16).toNat + 2 ^ 32 * (cellOp 0x16 x).carry.toNat = x.a.toNat * x.b.toNat + x.h.toNat + x.c.toNat) ∧
    r 0x17 = x.a * x.b + x.h ∧ r 0x18 = x.a &&& x.b ∧ r 0x19 = x.a ||| x.b ∧ r 0x1A = x.a ^^^ x.b ∧
    r 0x1B = x.a <<< (x.b.extractLsb' 0 5).toNat ∧ r 0x1C = x.a >>> (x.b.extractLsb' 0 5).toNat ∧
    (r 0x1D).toInt = x.a.toInt / 2 ^ (x.b.extractLsb' 0 5).toNat ∧
    (r 0x1E).toInt = min x.a.toInt x.b.toInt ∧ (r 0x1F).toInt = max x.a.toInt x.b.toInt ∧
    (r 0x20).toNat = min x.a.toNat x.b.toNat ∧ (r 0x21).toNat = max x.a.toNat x.b.toNat ∧
    r 0x22 = (if x.a.toInt < x.b.toInt then 1 else 0) ∧ r 0x23 = (if x.h0 ≠ 0 then x.a else x.b) ∧
    r 0x24 = x.h + BitVec.ofInt 32 ((x.a.extractLsb' 0 8).toInt * (x.b.extractLsb' 0 8).toInt +
      (x.a.extractLsb' 8 8).toInt * (x.b.extractLsb' 8 8).toInt + (x.a.extractLsb' 16 8).toInt * (x.b.extractLsb' 16 8).toInt +
      (x.a.extractLsb' 24 8).toInt * (x.b.extractLsb' 24 8).toInt) ∧
    r 0x25 = (if x.a = 0x80000000 then 0x80000000 else BitVec.ofInt 32 x.a.toInt.natAbs) ∧
    (r 0x26).toNat = ((List.range 32).map fun n => (x.a.getLsbD n).toNat).sum ∧
    ((r 0x27).toNat ≤ 32 ∧ (∀ n < 32, 32 ≤ n + (r 0x27).toNat → x.a.getLsbD n = false) ∧
      ((r 0x27).toNat < 32 → x.a.getLsbD (31 - (r 0x27).toNat) = true)) ∧
    (∀ op, op ≠ 0x12 → op ≠ 0x13 → op ≠ 0x16 → (cellOp op x).carry = 0)

/-- R252, R260, R261: the cross-lane operations read the whole token (SHUFL and SHUFR rotate, BCAST spreads one lane, XADD sums the valid lanes modulo 2^32, XMAX
is the largest of them by s(), and with none they give 0 and 0x8000_0000); the hold operations write their hold register themselves;
ISEL and FSEL test h0. -/
def Sys2Proof.Claims.LaneAndHoldCells : Prop :=
  ∀ x : CellIn, x.lanes.length = 16 → x.n < 16 →
    let v := validLanes x.lanes x.mask
    (cellOp 0x70 x).r = x.lanes.getD ((x.n + x.b.toNat % 16) % 16) 0 ∧
    (cellOp 0x71 x).r = x.lanes.getD (((x.n : Int) - x.b.toNat % 16) % 16).toNat 0 ∧
    (cellOp 0x72 x).r = x.lanes.getD (x.b.toNat % 16) 0 ∧
    (cellOp 0x73 x).r = BitVec.ofNat 32 ((v.map BitVec.toNat).sum) ∧
    ((v = [] → (cellOp 0x74 x).r = 0x80000000) ∧ (v ≠ [] → (cellOp 0x74 x).r ∈ v) ∧ ∀ l ∈ v, l.toInt ≤ (cellOp 0x74 x).r.toInt) ∧
    (cellOp 0x75 x).r = (match v with
      | [] => 0
      | [l] => if (f32 l).isNan then 0x7FC00000 else l
      | l :: ls => ls.foldl (fadd32 x.rm) l) ∧
    (∀ l, l ∈ v ↔ ∃ n < 16, x.mask.getLsbD n = true ∧ x.lanes[n]? = some l) ∧
    cellOp 0x78 x = ⟨x.a, 0, some x.a, 0⟩ ∧ cellOp 0x79 x = ⟨x.h + x.a, 0, some (x.h + x.a), 0⟩ ∧
    cellOp 0x7A x = ⟨fadd32 x.rm x.h x.a, 0, some (fadd32 x.rm x.h x.a), 0⟩ ∧ cellOp 0x7B x = ⟨x.h, 0, some 0, 0⟩ ∧
    (cellOp 0x37 x).r = (if x.h0 ≠ 0 then x.a else x.b) ∧
    (∀ op, (cellOp op x).hold.isSome = true → 0x78 ≤ op)

/-- Derived from R249 to R254 and the worked wide add: a uniform IADDC stage with cin = 1 and bsrc = port, both tokens valid in every lane and ci
unconnected, adds two 512-bit integers modulo 2^512. -/
def Obligations.WideAdd : Prop :=
  ∀ (f : CFrame) (key : Nat) (a b : Token) (imm : Lane) (holds : Tab Lane),
    cuPerLane f = false → laneOp (cuLane f 0) = 0x12 → laneBsrc (cuLane f 0) = 3 → laneCin (cuLane f 0) = true →
    a.mask = 0xFFFF → b.mask = 0xFFFF →
    let r := StageIn.fire ⟨f, key, (List.range 16).map a.lane, a.mask, some b, imm, 0⟩ holds
    packLanes r.lanes.reverse = a.data + b.data ∧ r.mask = 0xFFFF

/-- R61, R62, R64, R66, R75, R86: rounding. A code of a finite value, decoded exactly, rounds to itself under every mode with no status. A magnitude
rounds to the neighbour that its mode names: towards zero, up or down by the sign, or to nearest with ties to even; it is exact when
nothing is lost. FP32 to INT32 and back gives the integer when it has at most 24 bits. -/
def Sys2Proof.Claims.RoundOnce : Prop :=
  (∀ (F : Fmt) (mode : BitVec 2) (sat : Bool) (c : Nat) (neg : Bool) (m : Nat) (e : Int),
    c < 2 ^ (1 + F.expo + F.mant) → F.dec c = .fin neg m e → F.rnd mode sat (.fin neg m e) = (c, 0)) ∧
  (∀ (mode : BitVec 2) (neg : Bool) (m d : Nat), 0 < d →
    let r := roundMag mode neg m (-(d : Int))
    let x := r.1 * 2 ^ d
    (r.2 = true ↔ m % 2 ^ d ≠ 0) ∧ (r.2 = false → x = m) ∧ m < x + 2 ^ d ∧ x < m + 2 ^ d ∧
      (mode = 1 → x ≤ m) ∧ (mode = 2 → if neg then x ≤ m else m ≤ x) ∧ (mode = 3 → if neg then m ≤ x else x ≤ m) ∧
      (mode = 0 → 2 * x ≤ 2 * m + 2 ^ d ∧ 2 * m ≤ 2 * x + 2 ^ d ∧
        ((2 * x = 2 * m + 2 ^ d ∨ 2 * m = 2 * x + 2 ^ d) → r.1 % 2 = 0))) ∧
  (∀ (mode : BitVec 2) (a : Lane), a.toInt.natAbs < 2 ^ 24 →
    cvtToInt mode (f32 (cvtFromInt mode a).1) = (a, 0) ∧ (cvtFromInt mode a).2 = 0)

/-- R65, R69, R256: FMIN and FMAX give the other operand when one is a NaN, the canonical NaN when both are, and order -0 below +0; FCMP is false
with a NaN and for two zeros; NaN results are canonical. -/
def Sys2Proof.Claims.FloatCorners : Prop :=
  ∀ x : CellIn,
    (((f32 x.a).isNan = true ∧ (f32 x.b).isNan = true) → (cellOp 0x34 x).r = 0x7FC00000 ∧ (cellOp 0x35 x).r = 0x7FC00000) ∧
    (((f32 x.a).isNan = true ∧ (f32 x.b).isNan = false) → (cellOp 0x34 x).r = x.b ∧ (cellOp 0x35 x).r = x.b) ∧
    (((f32 x.a).isNan = false ∧ (f32 x.b).isNan = true) → (cellOp 0x34 x).r = x.a ∧ (cellOp 0x35 x).r = x.a) ∧
    (x.a = 0x80000000 → x.b = 0 → (cellOp 0x34 x).r = x.a ∧ (cellOp 0x35 x).r = x.b) ∧
    (((f32 x.a).isNan = true ∨ (f32 x.b).isNan = true) → (cellOp 0x36 x).r = 0 ∧ (cellOp 0x30 x).r = 0x7FC00000 ∧
      (cellOp 0x32 x).r = 0x7FC00000) ∧
    (((f32 x.a).isZero = true ∧ (f32 x.b).isZero = true) → (cellOp 0x36 x).r = 0) ∧
    ((f32 x.a).isNan = true → ∀ op ∈ [0x60, 0x61, 0x62, 0x63, 0x64], (cellOp op x).r = 0x7FC00000) ∧
    (x.b = 0x7F800000 → (f32 x.a).isNan = false → (f32 x.a).isInf = false → (cellOp 0x38 x).r = x.a) ∧
    ((f32 x.b).isZero = true → (cellOp 0x38 x).r = 0x7FC00000) ∧
    (x.a = 0 → (cellOp 0x60 x).r = 0x7F800000 ∧ (cellOp 0x61 x).r = 0x7F800000 ∧ (cellOp 0x62 x).r = 0 ∧
      (cellOp 0x63 x).r = 0x3F800000 ∧ (cellOp 0x64 x).r = 0xFF800000)
namespace Sys2Proof.Claims

open Sys2Proof.Machine

/-- R240, R241: the arcs of a region after a unit of patch `p` took the head tokens of the arcs `eaten` and emitted tokens on source pins: each is
appended to every arc that its pin drives; on every other arc the tokens are as before. -/
def ArcsBecame (g g' : Region) (p : Nat) (eaten : List Nat) (outs : List (Nat × Token)) : Prop :=
  ∀ id, g'.fab.arcs.get [] id =
    (if id ∈ eaten then (g.fab.arcs.get [] id).tail else g.fab.arcs.get [] id) ++
      outs.flatMap fun e => ((g.ends p e.1).filter fun x => x.key p e.1 == .arc id).map fun _ => e.2

/-- `ArcsBecame`, whatever metadata stays attached to the tokens (R314). -/
def ArcsBare (g g' : Region) (p : Nat) (eaten : List Nat) (outs : List (Nat × Token)) : Prop :=
  let bare (t : Token) : Token := { t with scale := none }
  ∀ id, (g'.fab.arcs.get [] id).map bare =
    ((if id ∈ eaten then (g.fab.arcs.get [] id).tail else g.fab.arcs.get [] id) ++
      outs.flatMap fun e => ((g.ends p e.1).filter fun x => x.key p e.1 == .arc id).map fun _ => e.2).map bare

/-- The event completed: no byte of memory changed, region `h` of core `c` is `g'`, every other core is as before. -/
def Fires (o : Out) (s : State) (c h : Nat) (g' : Region) : Prop :=
  ∃ t, o = .next t ∧ SameMemory s t ∧ (t.core c).regions.find? h = some g' ∧ ∀ e, e ≠ c → t.core e = s.core e

/-- Slot `k` of the CT of patch `p` of the running region `g` holds the operator `d`, whose kept state is `st`. -/
def Operates (s : State) (c h p k : Nat) (g : Region) (d : Desc) (st : CtState) : Prop :=
  s.liveRegion c h = some g ∧ ctOp (g.frames p) k = some d ∧ g.fab.cts.get CtState.fresh (4 * p + k) = st

/-- R240, R262: input `i` of the slot, pin `n`'s only reader, sees token `x`, without scale metadata, at the head of arc `id`. -/
def Sees (s : State) (c h p k : Nat) (g : Region) (i n id : Nat) (x : Token) : Prop :=
  (s.core c).peekCt h g p n (3 * k + i) = some (id, x) ∧ ctReaders (patchDescs (g.frames p)) n = [3 * k + i] ∧ x.scale = none

/-- The operator fired: it took the heads of `eaten`, emitted `outs` on its pins, and its kept state is `st`. -/
def Operated (o : Out) (s : State) (c h p k : Nat) (g : Region) (eaten : List Nat) (outs : List (Nat × Token)) (st : CtState) : Prop :=
  ∃ g', Fires o s c h g' ∧ ArcsBecame g g' p eaten (outs.map fun e => (72 + e.1, e.2)) ∧
    g'.fab.cts.get CtState.fresh (4 * p + k) = st ∧ g'.fab.holds = g.fab.holds

/-- CT pin `n` has room (R240). -/
def PinRoom (g : Region) (p n : Nat) : Prop := g.room p (72 + n) = true

/-- The token carries marker `m` (0: data). -/
def Marked (x : Token) (m : BitVec 3) : Prop := x.mark = m ∧ m ≠ 5

end Sys2Proof.Claims

/-- R264 to R268, Table 10-15: STEER sends data to out0 or out1 by the control value and a marker to both; MERGE takes control, then the chosen input, and
emits one marker for three; CARRY takes init, then, in LOOP, control and loop, back to INIT on false; GATE discards data on false when
drop is set; SINK makes a done of each marker of level dlev or higher, WSET excepted, and none of data. -/
def Sys2Proof.Claims.SelectingOperators : Prop :=
  ∀ (s : State) (c h p k : Nat) (g : Region) (d : Desc) (st : CtState) (i0 i1 i2 : Nat) (x y z : Token) (m : BitVec 3),
    let o : CtAt := ⟨c, h, p, k⟩
    let sees (i n id : Nat) (t : Token) := Sees s c h p k g i n id t
    Operates s c h p k g d st →
    (d.op = 0x01 → sees 0 d.in0 i0 x → sees 1 d.in1 i1 y → i0 ≠ i1 → x.mark = 0 → y.mark = 0 →
      PinRoom g p (if y.isTrue then d.out0 else d.out1) →
      Operated (exec (.steer o) s) s c h p k g [i0, i1] [(if y.isTrue then d.out0 else d.out1, x)] st) ∧
    (d.op = 0x01 → sees 0 d.in0 i0 x → sees 1 d.in1 i1 y → i0 ≠ i1 → m ≠ 0 → Marked x m → Marked y m → PinRoom g p d.out0 →
      PinRoom g p d.out1 → Operated (exec (.steer o) s) s c h p k g [i0, i1] [(d.out0, x), (d.out1, x)] st) ∧
    (d.op = 0x02 → sees 0 d.in0 i0 x → x.mark = 0 → sees (if x.isTrue then 1 else 2) (if x.isTrue then d.in1 else d.in2) i1 y →
      i0 ≠ i1 → y.mark = 0 → PinRoom g p d.out0 → Operated (exec (.merge o) s) s c h p k g [i0, i1] [(d.out0, y)] st) ∧
    (d.op = 0x02 → sees 0 d.in0 i0 x → sees 1 d.in1 i1 y → sees 2 d.in2 i2 z → [i0, i1, i2].Nodup → m ≠ 0 → Marked x m →
      Marked y m → Marked z m → PinRoom g p d.out0 → Operated (exec (.merge o) s) s c h p k g [i0, i1, i2] [(d.out0, y)] st) ∧
    (d.op = 0x03 → st.on = false → sees 0 d.in0 i0 x → x.mark ≠ 5 → PinRoom g p d.out0 →
      Operated (exec (.carry o) s) s c h p k g [i0] [(d.out0, x)] { st with on := x.mark == 0 }) ∧
    (d.op = 0x03 → st.on = true → sees 2 d.in2 i2 z → z.mark = 0 → z.isTrue = false →
      Operated (exec (.carry o) s) s c h p k g [i2] [] { st with on := false }) ∧
    (d.op = 0x03 → st.on = true → sees 2 d.in2 i2 z → sees 1 d.in1 i1 y → i1 ≠ i2 → z.mark = 0 → y.mark = 0 → z.isTrue = true →
      PinRoom g p d.out0 → Operated (exec (.carry o) s) s c h p k g [i2, i1] [(d.out0, y)] st) ∧
    (d.op = 0x04 → sees 0 d.in0 i0 x → sees 1 d.in1 i1 y → i0 ≠ i1 → Marked x m → Marked y m →
      (d.param % 2 = 1 ∧ m = 0 ∧ y.isTrue = false → Operated (exec (.gate o) s) s c h p k g [i0, i1] [] st) ∧
      (¬(d.param % 2 = 1 ∧ m = 0 ∧ y.isTrue = false) → PinRoom g p d.out0 →
        Operated (exec (.gate o) s) s c h p k g [i0, i1] [(d.out0, x)] st)) ∧
    (d.op = 0x05 → sees 0 d.in0 i0 x → x.mark ≠ 5 → 
      ((d.param = 0 ∨ x.mark = 0 ∨ x.mark = 6 ∨ x.mark.toNat < d.param) → Operated (exec (.sink o) s) s c h p k g [i0] [] st) ∧
      (d.param ≠ 0 → x.mark ≠ 0 → x.mark ≠ 6 → d.param ≤ x.mark.toNat → PinRoom g p d.out0 →
        Operated (exec (.sink o) s) s c h p k g [i0] [(d.out0, doneToken)] st))

/-- R269 to R271, Table 10-15: COUNT starts a run, emits base + j × step, then its marker, then done; LUT4 emits the table's entry for its inputs' control values and
its previous output; REPEAT takes a token with its count, then emits it that many times. -/
def Sys2Proof.Claims.CountingOperators : Prop :=
  ∀ (s : State) (c h p k : Nat) (g : Region) (d : Desc) (st : CtState) (i0 i1 : Nat) (x y : Token),
    let o : CtAt := ⟨c, h, p, k⟩
    let sees (i n id : Nat) (t : Token) := Sees s c h p k g i n id t
    let count := d.param % 2 ^ 13 + 1
    let free := d.param / 2 ^ 13 % 2
    let mlev := d.param / 2 ^ 14 % 2 ^ 3
    let isel := d.param / 2 ^ 17
    Operates s c h p k g d st → g.fab.swapped = [] →
    (d.op = 0x06 → free = 0 → st.on = false → sees 0 d.in0 i0 x → x.mark = 0 →
      Operated (exec (.count o) s) s c h p k g [i0] [] { st with on := true, sent := 0 }) ∧
    (d.op = 0x06 → (st.on = true ∨ free = 1 ∧ st.begun = false) → st.sent < count → PinRoom g p d.out0 →
      Operated (exec (.count o) s) s c h p k g []
        [(d.out0, scalarToken (BitVec.ofInt 32 ((d.ext % 2 ^ 7 : Nat) + (if isel = 0 then 0 else (g.idx.getD (isel - 1) 0 : Nat)) +
          st.sent * (BitVec.ofNat 7 (d.ext / 2 ^ 7)).toInt)))] { st with on := true, begun := true, sent := st.sent + 1 }) ∧
    (d.op = 0x06 → st.on = true → st.sent = count → mlev ≠ 0 → PinRoom g p d.out0 →
      Operated (exec (.count o) s) s c h p k g [] [(d.out0, markToken .scalar (BitVec.ofNat 3 mlev))]
        { st with begun := true, sent := st.sent + 1 }) ∧
    (d.op = 0x06 → st.on = true → st.sent = count + (if mlev = 0 then 0 else 1) → PinRoom g p d.out1 →
      Operated (exec (.count o) s) s c h p k g [] [(d.out1, doneToken)]
        { st with on := false, begun := true, sent := 0, finished := true }) ∧
    (d.op = 0x06 → free = 0 → st.on = false → sees 0 d.in0 i0 x → x.mark ≠ 0 → x.mark ≠ 5 → PinRoom g p d.out0 →
      Operated (exec (.count o) s) s c h p k g [i0] [(d.out0, x)] st) ∧
    (∀ es : List (Nat × Nat × Nat × Token), d.op = 0x07 → es ≠ [] → (es.map fun e => (e.1, e.2.1)) = d.reads →
      (∀ e ∈ es, sees e.1 e.2.1 e.2.2.1 e.2.2.2) → (es.map fun e => e.2.2.1).Nodup → PinRoom g p d.out0 →
      let on (j : Nat) : Nat := (es.any fun e => e.1 == j && e.2.2.2.isTrue).toNat
      let v := d.param / 2 ^ ((if d.param / 2 ^ 19 = 1 ∧ st.out = true then 8 else 0) + 4 * on 2 + 2 * on 1 + on 0) % 2
      ((∀ e ∈ es, e.2.2.2.mark = 0) → Operated (exec (.lut4 o) s) s c h p k g (es.map fun e => e.2.2.1)
        [(d.out0, ⟨.control, BitVec.ofNat 512 v, 1, 0, none⟩)] { st with out := v == 1 }) ∧
      (∀ m, m ≠ 0 → (∀ e ∈ es, Marked e.2.2.2 m) → Operated (exec (.lut4 o) s) s c h p k g (es.map fun e => e.2.2.1)
        [(d.out0, ⟨.control, 0, 0, m, none⟩)] st)) ∧
    (d.op = 0x08 → d.param / 2 ^ 16 % 2 = 0 → st.tok = none → sees 0 d.in0 i0 x → x.mark ≠ 0 → x.mark ≠ 5 → PinRoom g p d.out0 →
      Operated (exec (.repeatOp o) s) s c h p k g [i0] [(d.out0, x)] st) ∧
    (d.op = 0x08 → d.param / 2 ^ 16 % 2 = 0 → st.tok = none → sees 0 d.in0 i0 x → x.mark = 0 →
      Operated (exec (.repeatOp o) s) s c h p k g [i0] [] { st with total := d.param % 2 ^ 16 + 1, tok := some x }) ∧
    (d.op = 0x08 → d.param / 2 ^ 16 % 2 = 1 → st.tok = none → sees 0 d.in0 i0 x → sees 1 d.in1 i1 y → i0 ≠ i1 → x.mark = 0 →
      y.mark = 0 → Operated (exec (.repeatOp o) s) s c h p k g [i0, i1] []
        { st with total := y.value.toNat, tok := if y.value = 0 then none else some x }) ∧
    (d.op = 0x08 → st.tok = some x → x.scale = none → PinRoom g p d.out0 → Operated (exec (.repeatOp o) s) s c h p k g [] [(d.out0, x)]
      { st with total := st.total - 1, tok := if st.total - 1 = 0 then none else some x })

/-- R272, R308, R187: SEQ, PIPE and STREAM start a pass on a token of in0, emit an enable whenever the pass has some left and the enables exceed the dones by fewer
than their window (1 for SEQ, w for PIPE, none for STREAM), count dones on in2 (SEQ and PIPE only those that answer an enable), and end a pass of N
enables and N dones with a done on out1, the root controller with the root done of the region, which a rolling configuration does not heed (R188); MSEQ, its
template read, emits its tokens with stepped offsets, counts dones on in1 and ends a run with a done on out1. -/
def Sys2Proof.Claims.ControllingOperators : Prop :=
  ∀ (s : State) (c h p k : Nat) (g : Region) (d : Desc) (st : CtState) (i0 i1 i2 : Nat) (x : Token) (i : Instr),
    let o : CtAt := ⟨c, h, p, k⟩
    let sees (i n id : Nat) (t : Token) := Sees s c h p k g i n id t
    let quiet0 := d.param / 2 ^ 16 % 2 = 1 ∨ ∀ e, (s.core c).peekCt h g p d.in0 (3 * k) = some e → e.2.mark = 0
    let quiet2 := ∀ e, (s.core c).peekCt h g p d.in2 (3 * k + 2) = some e → e.2.mark = 0
    let none2 := (s.core c).peekCt h g p d.in2 (3 * k + 2) = none
    let n := d.param % 2 ^ 16 + 1
    let w := d.ext % 2 ^ 12
    let N := d.param % 2 ^ 12 + 1
    Operates s c h p k g d st →
    ((i = .seq o ∧ d.op = 0x10) ∨ (i = .pipe o ∧ d.op = 0x11) ∨ (i = .stream o ∧ d.op = 0x12) →
      (d.param / 2 ^ 16 % 2 = 0 → st.on = false → sees 0 d.in0 i0 x → quiet2 → x.mark = 0 →
        Operated (exec i s) s c h p k g [i0] [] { st with on := true, sent := 0, dones := 0 }) ∧
      (d.param / 2 ^ 16 % 2 = 1 → st.on = false → st.begun = false → quiet2 →
        Operated (exec i s) s c h p k g [] [] { st with on := true, begun := true }) ∧
      (quiet0 → (none2 ∨ d.op ≠ 0x12 ∧ st.sent ≤ st.dones ∧ quiet2) → st.on = true → st.sent < n → (d.op = 0x10 → st.sent ≤ st.dones) →
        (d.op = 0x11 → st.sent < st.dones + w) → PinRoom g p d.out0 →
        Operated (exec i s) s c h p k g [] [(d.out0, doneToken)] { st with sent := st.sent + 1 }) ∧
      (quiet0 → st.on = true → (if d.op = 0x12 then st.dones < n else st.dones < st.sent) → sees 2 d.in2 i2 x → x.mark = 0 →
        Operated (exec i s) s c h p k g [i2] [] { st with dones := st.dones + 1 }) ∧
      (d.param / 2 ^ 16 % 2 = 0 → quiet0 → quiet2 → st.on = true → st.dones = n → st.sent = n → PinRoom g p d.out1 →
        Operated (exec i s) s c h p k g [] [(d.out1, doneToken)] { st with on := false, sent := 0, dones := 0, finished := true }) ∧
      (d.param / 2 ^ 16 % 2 = 1 → quiet2 → st.on = true → st.dones = n → st.sent = n → PinRoom g p d.out1 →
        ∃ g', Fires (exec i s) s c h g' ∧ g'.rootDone = (!g.armed p || g.rootDone)) ∧
      (d.param / 2 ^ 16 % 2 = 0 → sees 0 d.in0 i0 x → x.mark ≠ 0 → x.mark ≠ 5 → Operated (exec i s) s c h p k g [i0] [] st)) ∧
    (d.op = 0x18 → ∀ T : BitVec 256, st.template = some T →
      let quiet1 := ∀ e, (s.core c).peekCt h g p d.in1 (3 * k + 1) = some e → e.2.mark = 0
      let none1 := (s.core c).peekCt h g p d.in1 (3 * k + 1) = none
      let fed := (g.reached p (72 + d.in0) || ctDriven (patchDescs (g.frames p)) d.in0) = true
      (st.on = false → fed → quiet1 → sees 0 d.in0 i0 x → x.mark = 0 →
        Operated (exec (.mseq o) s) s c h p k g [i0] [] { st with on := true, sent := 0, dones := 0 }) ∧
      (st.on = false → ¬fed → quiet1 → st.begun = false →
        Operated (exec (.mseq o) s) s c h p k g [] [] { st with on := true, begun := true, sent := 0, dones := 0 }) ∧
      (st.on = true → none1 → st.sent < N → PinRoom g p d.out0 →
        ∃ tok, Operated (exec (.mseq o) s) s c h p k g [] [(d.out0, tok)] { st with sent := st.sent + 1 } ∧ tok.kind = .vector ∧
          tok.mask = 0x000F ∧ tok.mark = 0 ∧ tok.data.extractLsb' 0 64 = T.extractLsb' 0 64 ∧
          tok.lane 2 = T.extractLsb' 64 32 + BitVec.ofNat 32 st.sent * T.extractLsb' 128 32 ∧
          tok.lane 3 = T.extractLsb' 96 32 + BitVec.ofNat 32 st.sent * T.extractLsb' 160 32) ∧
      (st.on = true → sees 1 d.in1 i1 x → x.mark = 0 → st.dones < N →
        Operated (exec (.mseq o) s) s c h p k g [i1] [] { st with dones := st.dones + 1 }) ∧
      (st.on = true → quiet1 → st.sent = N → st.dones = N → PinRoom g p d.out1 →
        Operated (exec (.mseq o) s) s c h p k g [] [(d.out1, doneToken)] { st with on := false, finished := true }))
namespace Sys2Proof.Claims

open Sys2Proof.Machine

/-- AG `a` of patch `p` of the running region `g` has frame `f` and state `st`. -/
def AgAct (s : State) (c h p a : Nat) (g : Region) (f : CFrame) (st : AgState) : Prop :=
  s.liveRegion c h = some g ∧ agFrame (g.frames p) a = some f ∧ g.fab.ags.get AgState.idle (2 * p + a) = st

/-- R324: record `ix` may be taken: no RECLD to it is outstanding, it is not poisoned and it is no malformed record. -/
def RecordFree (s : State) (c ix : Nat) : Prop :=
  recldPending (s.core c) (BitVec.ofNat 8 ix) = false ∧ (s.core c).badRecords.find? ix = none ∧ recBad ((s.core c).record ix) = false

/-- The accesses `es` of an AG's read are back: no reply is an error, and every span of them has its reply. -/
def ReadsBack (s : State) (u : Requester) (es : List (Option (ElemAt × Reach))) : Prop :=
  (s.core u.core).portError u.port = none ∧
  ∀ x ∈ spansOf (wantsOf es), ∃ r a, (s.core u.core).asked u.port x = some r ∧ r.reply? = some a

/-- The module's memory as the reads of the spans `xs` of a unit show it: replies that its port holds of other spans are not looked at (R336). -/
def Shows (s : State) (u : Requester) (xs : List Span) : State := (s.onCore u.core fun k => k.keepReads u.port xs).seen u

/-- A request of the unit `u` of region `h` for `t` may set out: its gang's permit and its core's are there (R345, R352). -/
def MaySetOut (s : State) (h : Nat) (u : Requester) (op : ReqOp) (t : Target) : Prop :=
  (State.payRequest u.core h s).isSome = true ∧ ((s.core u.core).takeWritten u.port).permitted u.core (u.req op t).dest = true

/-- MU `m` of patch `p` of the running region `g` has frame `f`, in mode `mode`, and state `st`. -/
def MuAct (s : State) (c h p m : Nat) (g : Region) (f : CFrame) (mode : Nat) (st : MuState) : Prop :=
  s.liveRegion c h = some g ∧ muFrame (g.frames p) m = some f ∧ muMode f = mode ∧ g.fab.mus.get MuState.fresh (4 * p + m) = st

/-- A unit's pin sees token `x`, without scale metadata, at the head of arc `id`. -/
def PinSees (s : State) (c h p : Nat) (g : Region) (pin id : Nat) (x : Token) : Prop :=
  (s.core c).peek h g p pin = some (id, x) ∧ x.scale = none ∧ x.mark ≠ 5

end Sys2Proof.Claims

/-- R274 to R276, R324, R339: an AG starts a walk at activation, or for a data token on en, taking its record, that of its frame or the bound one, and
raising its counter; a read AG asks for the bytes of its next token and, once they are back, emits the elements that they show, with the marker
that is due after them, and with the metadata of the scale group that begins among them where the view is DB (R314); memory is as before. That it asks ahead is the model's (log 32). -/
def Sys2Proof.Claims.AddressGeneratorsRead : Prop :=
  ∀ (s : State) (c h p a : Nat) (g : Region) (f : CFrame) (st : AgState) (e : Token) (id : Nat), a < 2 →
    let pin := 64 + 4 * a
    let o : AgAt := ⟨c, h, p, a⟩
    let run : AgRun := ⟨s, c, h, p, a, f, g⟩
    let w := walkOf f st.record
    let n := w.chunk st.pos
    let later := run.ahead (w.tokensAhead (st.pos + n))
    let first := (256 - w.since (agMmask f) st.pos % 256) % 256
    AgAct s c h p a g f st →
    (st.walking = false → g.binds.find? (2 * p + a) = none → RecordFree s c (agRec f) →
      (g.reached p (pin + 3) = false ∧ st.begun = false ∨ g.reached p (pin + 3) = true ∧ PinSees s c h p g (pin + 3) id e ∧ e.mark = 0) →
      ∃ t g', exec (.agWalkStart o) s = .next t ∧ SameMemory s t ∧ (t.core c).regions.find? h = some g' ∧
        ArcsBecame g g' p (if g.reached p (pin + 3) = true then [id] else []) [] ∧
        g'.fab.ags.get AgState.idle (2 * p + a) =
          { st with walking := true, begun := true, record := (s.core c).record (agRec f), recIx := agRec f, pos := 0, sb := none, owed := false }) ∧
    (∀ b, st.walking = false → g.binds.find? (2 * p + a) = some b → RecordFree s c b.record.toNat →
      g.reached p (pin + 3) = false → st.begun = false → ∃ t g', exec (.agWalkStart o) s = .next t ∧ SameMemory s t ∧
        (t.core c).regions.find? h = some g' ∧ (t.core c).sb b.sb.toNat = (s.core c).sb b.sb.toNat + 1 ∧
        g'.fab.ags.get AgState.idle (2 * p + a) =
          { st with
            walking := true, begun := true, record := (s.core c).record b.record.toNat, recIx := b.record.toNat, pos := 0
            sb := some b, owed := false }) ∧
    (g.reached p (pin + 3) = true → st.walking = false → PinSees s c h p g (pin + 3) id e → e.mark ≠ 0 →
      ∃ g', Fires (exec (.agWalkStart o) s) s c h g' ∧ ArcsBecame g g' p [id] [] ∧ g'.fab.ags.get AgState.idle (2 * p + a) = st) ∧
    (∀ es x xs, agDir f = false → agMode f ≠ 2 → st.walking = true → st.owed = false → g.room p pin = true →
      run.reaches false (w.token st.pos) = .ok es → (s.core c).portError run.unit.port = none →
      spansOf (wantsOf es) = x :: xs → (s.core c).asked run.unit.port x = none →
      (State.payRequest c h s).isSome = true → (s.core c).permitted c (run.unit.req .fetch x.target).dest = true →
      ∃ t g', exec (.agReadToken o) s = .next t ∧ SameMemory s t ∧ (t.core c).regions.find? h = some g' ∧
        g'.fab.ags.get AgState.idle (2 * p + a) = st ∧ ArcsBecame g g' p [] [] ∧ ((t.core c).asked run.unit.port x).isSome = true) ∧
    (∀ (es : List (Option (ElemAt × Reach))) (rs : List ElemRead), agDir f = false → agMode f ≠ 2 → st.walking = true → st.owed = false → g.room p pin = true → fmtDb (recView st.record) = false →
      run.reaches false (w.token st.pos) = .ok es → ReadsBack s run.unit es → 
      (Shows s run.unit (spansOf (wantsOf es) ++ later)).readElems st.record es = .ok (rs.map some) →
      ∃ t g', exec (.agReadToken o) s = .next t ∧ SameMemory s t ∧ (t.core c).regions.find? h = some g' ∧
        ArcsBecame g g' p [] [(pin, ⟨.vector, packCodes w.e (rs.map fun r => r.code), lanesMask (n * w.e), 0, none⟩)] ∧
        g'.fab.ags.get AgState.idle (2 * p + a) =
          { st with pos := st.pos + n, owed := (st.pos + n) % w.run == 0 && w.marker (agMmask f) (st.pos + n) != 0 }) ∧
    (∀ (es : List (Option (ElemAt × Reach))) (rs : List ElemRead), agDir f = false → agMode f ≠ 2 → st.walking = true → st.owed = false →
      g.room p pin = true → fmtDb (recView st.record) = true → run.reaches false (w.token st.pos) = .ok es → ReadsBack s run.unit es →
      (Shows s run.unit (spansOf (wantsOf es) ++ later)).readElems st.record es = .ok (rs.map some) →
      let tok : Token := ⟨.vector, packCodes w.e (rs.map fun r => r.code), lanesMask (n * w.e), 0, (rs[first]?).bind fun r => r.scale⟩
      ∃ t g', exec (.agReadToken o) s = .next t ∧ SameMemory s t ∧ (t.core c).regions.find? h = some g' ∧ ArcsBare g g' p [] [(pin, tok)] ∧
        (∀ q dpin b i, End.pin q dpin b ∈ g.ends p pin → (End.pin q dpin b).key p pin = .arc i → keepsScale pin dpin = true →
          (g'.fab.arcs.get [] i).getLast? = some tok) ∧
        g'.fab.ags.get AgState.idle (2 * p + a) =
          { st with pos := st.pos + n, owed := (st.pos + n) % w.run == 0 && w.marker (agMmask f) (st.pos + n) != 0 }) ∧
    (agDir f = false → agMode f ≠ 2 → st.walking = true → st.owed = true → st.sb = none → g.room p pin = true →
      let m := w.marker (agMmask f) st.pos
      ∃ g', Fires (exec (.agReadToken o) s) s c h g' ∧ ArcsBecame g g' p [] [(pin, markToken .vector m)] ∧
        g'.fab.ags.get AgState.idle (2 * p + a) =
          if m = 7 then { st with walking := false, owed := false, ended := true, sb := none } else { st with owed := false })

/-- R278, R339: a write AG takes its next token when what it took before has set out; what its valid lanes write, and nothing else, is put
together as writes of sectors, and sets out as far as permits go; a marker is discarded; with every write of its walk performed it emits EOS
and its counter falls. Memory is as before: each write reaches it when its request is performed. -/
def Sys2Proof.Claims.AddressGeneratorsWrite : Prop :=
  ∀ (s : State) (c h p a : Nat) (g : Region) (f : CFrame) (st : AgState) (x : Token) (id : Nat), a < 2 →
    let pin := 64 + 4 * a
    let o : AgAt := ⟨c, h, p, a⟩
    let run : AgRun := ⟨s, c, h, p, a, f, g⟩
    let u := run.unit
    let w := walkOf f st.record
    let n := w.chunk st.pos
    AgAct s c h p a g f st → agDir f = true → (s.core c).portError u.port = none → st.failed = [] →
    (∀ es ws, agMode f ≠ 2 → st.walking = true → st.owed = false → st.out = [] → PinSees s c h p g (pin + 1) id x → x.mark = 0 →
      let ps := (List.range n).filterMap fun j => (tokenCode x.asVector w.e j).map fun v => (w.place (st.pos + j), v)
      run.reaches true (ps.map fun q => some q.1) = .ok es → run.writes x.asVector es (ps.map fun q => q.2) = .ok ws →
      (∀ y ∈ ws, ∃ va part status, y = .part va part status) →
      ∃ t g' outs, exec (.agWrite o) s = .next t ∧ SameMemory s t ∧ (t.core c).regions.find? h = some g' ∧ ArcsBecame g g' p [id] [] ∧
        g'.fab.ags.get AgState.idle (2 * p + a) = { st with pos := st.pos + n, owed := decide (w.total ≤ st.pos + n), out := outs } ∧
        ∀ k, (∃ q ∈ outs, k ∈ q.op.halves) ↔ ∃ va part status, ElemWrite.part va part status ∈ ws ∧ k ∈ part.map fun y => y.1) ∧
    (∀ q qs, st.out = q :: qs → MaySetOut s h u q.op q.target →
      ∃ t g' m, exec (.agWrite o) s = .next t ∧ SameMemory s t ∧ (t.core c).regions.find? h = some g' ∧ 0 < m ∧
        g'.fab.ags.get AgState.idle (2 * p + a) = { st with out := st.out.drop m } ∧
        ∀ y ∈ st.out.take m, ∃ r ∈ (t.core c).portReqs u.port, r.op = y.op ∧ r.tgt = y.target) ∧
    (agMode f ≠ 2 → st.out = [] → st.group = none → PinSees s c h p g (pin + 1) id x → x.mark ≠ 0 →
      ∃ g', Fires (exec (.agWrite o) s) s c h g' ∧ ArcsBecame g g' p [id] [] ∧ g'.fab.ags.get AgState.idle (2 * p + a) = st) ∧
    (st.walking = true → st.owed = true → st.out = [] → st.group = none → ((s.core c).takeWritten u.port).portIdle u.port = true →
      g.room p pin = true →
      ∃ t g', exec (.agWriteDone o) s = .next t ∧ SameMemory s t ∧ (t.core c).regions.find? h = some g' ∧
        ArcsBecame g g' p [] [(pin, markToken .control 7)] ∧
        (∀ b, st.sb = some b → (t.core c).sb b.sb.toNat = (s.core c).sb b.sb.toNat - 1) ∧
        g'.fab.ags.get AgState.idle (2 * p + a) = { st with walking := false, owed := false, ended := true, sb := none })

/-- R277, R278: an INDEXED walk. A read AG takes a data token on idx, reads the element that each valid lane names, at base + index × stride0, and emits
one token of them in the lanes that named them, 0 in the others; a marker passes, and EOS ends the walk. A write AG takes an idx token with
each data token and writes the elements of the lanes that are valid in both, and nothing else; a marker on both is discarded, and EOS leaves
the done token owed. -/
def Sys2Proof.Claims.IndexedWalks : Prop :=
  ∀ (s : State) (c h p a : Nat) (g : Region) (f : CFrame) (st : AgState) (x y : Token) (id jd : Nat), a < 2 →
    let pin := 64 + 4 * a
    let o : AgAt := ⟨c, h, p, a⟩
    let run : AgRun := ⟨s, c, h, p, a, f, g⟩
    let u := run.unit
    let w := walkOf f st.record
    let at_ (i : Token) (n : Nat) : ElemAt := ⟨w.base + (i.asVector.lane n).toNat * w.strides.headD 0, w.e⟩
    AgAct s c h p a g f st → agMode f = 2 → st.walking = true →
    (∀ (es : List (Option (ElemAt × Reach))) (rs : List (Option ElemRead)), agDir f = false → PinSees s c h p g (pin + 2) id y → y.mark = 0 →
      viewHalf (recView st.record) ≤ 8 → g.room p pin = true →
      run.reaches false ((List.range 16).map fun n => if y.asVector.mask.getLsbD n then some (at_ y n) else none) = .ok es →
      ReadsBack s u es → (Shows s u (spansOf (wantsOf es))).readElems st.record es = .ok rs →
      ∃ t g' tok, exec (.agReadToken o) s = .next t ∧ SameMemory s t ∧ (t.core c).regions.find? h = some g' ∧
        ArcsBecame g g' p [id] [(pin, tok)] ∧ tok.kind = .vector ∧ tok.mark = 0 ∧ tok.mask = y.asVector.mask ∧
        (∀ n < 16, tok.lane n = if y.asVector.mask.getLsbD n then BitVec.ofNat 32 ((rs.getD n none).elim 0 fun r => r.code) else 0) ∧
        g'.fab.ags.get AgState.idle (2 * p + a) = st) ∧
    (agDir f = false → st.sb = none → PinSees s c h p g (pin + 2) id y → y.mark ≠ 0 → g.room p pin = true →
      ∃ g', Fires (exec (.agReadToken o) s) s c h g' ∧ ArcsBecame g g' p [id] [(pin, markToken .vector y.mark)] ∧
        g'.fab.ags.get AgState.idle (2 * p + a) =
          if y.mark = 7 then { st with walking := false, owed := false, ended := true, sb := none } else { st with owed := false }) ∧
    (agDir f = true → (s.core c).portError u.port = none → st.failed = [] → st.out = [] → st.owed = false → id ≠ jd →
      PinSees s c h p g (pin + 1) id x → PinSees s c h p g (pin + 2) jd y → x.mark = y.mark →
      (∀ es ws, x.mark = 0 → viewHalf (recView st.record) ≤ 8 →
        let lanes := (List.range 16).filter fun n => x.asVector.mask.getLsbD n && y.asVector.mask.getLsbD n
        run.reaches true (lanes.map fun n => some (at_ y n)) = .ok es →
        run.writes x.asVector es (lanes.map fun n => (x.asVector.lane n).toNat % 16 ^ w.e) = .ok ws →
        (∀ z ∈ ws, ∃ va part status, z = .part va part status) →
        ∃ t g' outs, exec (.agWrite o) s = .next t ∧ SameMemory s t ∧ (t.core c).regions.find? h = some g' ∧ ArcsBecame g g' p [id, jd] [] ∧
          g'.fab.ags.get AgState.idle (2 * p + a) = { st with out := outs } ∧
          ∀ k, (∃ q ∈ outs, k ∈ q.op.halves) ↔ ∃ va part status, ElemWrite.part va part status ∈ ws ∧ k ∈ part.map fun y => y.1) ∧
      (x.mark ≠ 0 → st.group = none → ∃ g', Fires (exec (.agWrite o) s) s c h g' ∧ ArcsBecame g g' p [id, jd] [] ∧
        g'.fab.ags.get AgState.idle (2 * p + a) = { st with owed := x.mark == 7 }))

/-- Derived from R275, R276: the points of an AFFINE walk of two dimensions lie at base + j0 × stride0 + j1 × stride1, dimension 0 fastest; a token ends with its run of
dimension 0 or with 64 bytes; past the last point EOS follows. -/
def Sys2Proof.Claims.AffineWalks : Prop :=
  ∀ (w : Walk) (n0 n1 j0 j1 mmask : Nat) (d0 d1 : Int), w.counts = [n0, n1] → w.strides = [d0, d1] → j0 < n0 → j1 < n1 → 0 < w.e →
    w.total = n0 * n1 ∧ w.place (j1 * n0 + j0) = ⟨w.base + j0 * d0 + j1 * d1, w.e⟩ ∧
    w.chunk (j1 * n0 + j0) = min (128 / w.e) (n0 - j0) ∧ w.marker mmask (n0 * n1) = 7 ∧
    (j1 + 1 < n1 → w.marker mmask ((j1 + 1) * n0) = if mmask % 2 = 1 then 1 else 0)

/-- R281, R280: a FIFO stores the token on in0 in the next line of its area and emits its tokens in arrival order; a TABLE replaces each valid lane by the
element that it names, 0 beyond the area, and passes markers. -/
def Sys2Proof.Claims.FifoAndTable : Prop :=
  ∀ (s : State) (c h p m : Nat) (g : Region) (f : CFrame) (st : MuState) (x : Token) (id : Nat),
    let pin := 48 + 4 * m
    let area := 2 ^ 47 + c * 2 ^ 24 + 2 ^ 19 * (4 * (g.base + p) + m) + 64 * muBase f
    let run : MuRun := ⟨s, c, h, p, m, f, g⟩
    (MuAct s c h p m g f 2 st → PinSees s c h p g pin id x → st.fifo.length ≤ muLines f →
      ∃ t g', exec (.muFifo ⟨c, h, p, m, false⟩) s = .next t ∧ (t.core c).regions.find? h = some g' ∧ ArcsBecame g g' p [id] [] ∧
        g'.fab.mus.get MuState.fresh (4 * p + m) =
          { st with fifo := st.fifo ++ [x.asVector], line := (st.line + 1) % (muLines f + 1) } ∧
        readBytes t.mem (area + 64 * st.line) 64 = leBytes 64 x.data.toNat ∧
        ∀ a, (a < area + 64 * st.line ∨ area + 64 * st.line + 64 ≤ a) → readByte t.mem a = readByte s.mem a) ∧
    (∀ ts, MuAct s c h p m g f 2 st → st.fifo = x :: ts → x.scale = none → g.room p (pin + 2) = true →
      ∃ g', Fires (exec (.muFifo ⟨c, h, p, m, true⟩) s) s c h g' ∧ ArcsBecame g g' p [] [(pin + 2, x)] ∧
        g'.fab.mus.get MuState.fresh (4 * p + m) = { st with fifo := ts }) ∧
    (MuAct s c h p m g f 5 st → PinSees s c h p g pin id x → x.mark = 0 → g.room p (pin + 2) = true →
      (∀ n < 16, x.mask.getLsbD n = true → ∃ v, run.element (x.lane n).toNat = .ok v) →
      ∃ g' tok, Fires (exec (.muTable ⟨c, h, p, m⟩) s) s c h g' ∧ ArcsBecame g g' p [id] [(pin + 2, tok)] ∧ tok.mask = x.mask ∧
        tok.kind = .vector ∧ tok.mark = 0 ∧ (∀ n < 16, ∀ v, run.element (x.lane n).toNat = .ok v →
          tok.lane n = if x.mask.getLsbD n then tableWord (muFmt f) v else 0)) ∧
    (MuAct s c h p m g f 5 st → PinSees s c h p g pin id x → x.mark ≠ 0 → g.room p (pin + 2) = true →
      ∃ g', Fires (exec (.muTable ⟨c, h, p, m⟩) s) s c h g' ∧ ArcsBecame g g' p [id] [(pin + 2, x.asVector)] ∧
        g'.fab.mus.get MuState.fresh (4 * p + m) = st) ∧
    (MuAct s c h p m g f 5 st → ∀ v, (v + 1) * viewHalf (muFmt f) ≤ 128 * (muLines f + 1) → 2 ≤ viewHalf (muFmt f) →
      s.poisonedAt (area + v * viewHalf (muFmt f) / 2) (viewHalf (muFmt f) / 2) = false →
      run.element v = .ok (s.load (area + v * viewHalf (muFmt f) / 2) (viewHalf (muFmt f) / 2))) ∧
    (∀ v, 128 * (muLines f + 1) < (v + 1) * viewHalf (muFmt f) → run.element v = .ok 0)

/-- R389 to R393: a WACC push changes the windows of the valid lanes and emits their results; a query emits the results without changing a window; EOS empties the
windows, another marker passes; WSET takes the next token as the new length. R309, R310: an ACCR request is taken when no token that names
the tile has begun, and each response token is one quarter of a row. -/
def Sys2Proof.Claims.WindowsAndReads : Prop :=
  ∀ (s : State) (c h p m : Nat) (g : Region) (f : CFrame) (st : MuState) (x : Token) (id : Nat),
    let pin := 48 + 4 * m
    let o : MuAt := ⟨c, h, p, m⟩
    let area := 2 ^ 47 + c * 2 ^ 24 + 2 ^ 19 * (4 * (g.base + p) + m) + 64 * muBase f
    let wins (g' : Region) := (g'.fab.mus.get MuState.fresh (4 * p + m)).wins
    let len := if st.w = 0 then muWlen f + 1 else st.w
    let word (r : Lane × Lane) := if muWop f = 9 then r.2 else r.1
    (MuAct s c h p m g f 3 st → PinSees s c h p g pin id x → x.mark = 0 → st.wset = false → g.room p (pin + 2) = true →
      ((s.core c).peek h g p (pin + 1) = none ∨ st.lastPush ≠ some true) →
      ∃ t g' tok, exec (.waccPush o) s = .next t ∧ (t.core c).regions.find? h = some g' ∧
        ArcsBecame g g' p [id] [(pin + 2, tok)] ∧ tok.mask = x.mask ∧
        (∀ n < 16, (wins g').get Window.empty n = if x.mask.getLsbD n
          then (st.wins.get Window.empty n).push (waccOp (muWop f) (muFmt f)) len (x.lane n) else st.wins.get Window.empty n) ∧
        (∀ n < 16, tok.lane n = if x.mask.getLsbD n
          then ((((wins g').get Window.empty n).result (waccOp (muWop f) (muFmt f))).map word).getD 0 else 0) ∧
        ∀ a, (a < area ∨ area + 64 * (muLines f + 1) ≤ a) → readByte t.mem a = readByte s.mem a) ∧
    (MuAct s c h p m g f 3 st → muPen f = 15 → PinSees s c h p g (pin + 1) id x → x.mark = 0 → g.room p (pin + 3) = true →
      (s.core c).peek h g p pin = none → ∃ g' tok, Fires (exec (.waccQuery o) s) s c h g' ∧
        ArcsBecame g g' p [id] [(pin + 3, tok)] ∧ wins g' = st.wins ∧
        (∀ n < 16, let r := if x.mask.getLsbD n then (st.wins.get Window.empty n).result (waccOp (muWop f) (muFmt f)) else none
          tok.lane n = (r.map word).getD 0 ∧ tok.mask.getLsbD n = r.isSome)) ∧
    (MuAct s c h p m g f 3 st → PinSees s c h p g pin id x → st.wset = false → x.mark ≠ 0 → x.mark ≠ 6 → g.room p (pin + 2) = true →
      ∃ g', Fires (exec (.waccMarker o) s) s c h g' ∧ ArcsBecame g g' p [id] [(pin + 2, x.asVector)] ∧
        wins g' = (if x.mark = 7 then [] else st.wins)) ∧
    (MuAct s c h p m g f 3 st → PinSees s c h p g pin id x → st.wset = false → x.mark = 6 →
      ∃ g', Fires (exec (.waccMarker o) s) s c h g' ∧ ArcsBecame g g' p [id] [] ∧
        g'.fab.mus.get MuState.fresh (4 * p + m) = { st with wset := true }) ∧
    (MuAct s c h p m g f 3 st → PinSees s c h p g pin id x → st.wset = true → x.mark = 0 →
      let v := x.asVector.value.toNat
      v < 4096 → (if muWop f = 9 then 2 else 1) * (v + 1) ≤ muLines f + 1 →
      ∃ g', Fires (exec (.waccMarker o) s) s c h g' ∧ ArcsBecame g g' p [id] [] ∧
        g'.fab.mus.get MuState.fresh (4 * p + m) = { st with wset := false, wins := [], w := v + 1 }) ∧
    (MuAct s c h p m g f 4 st → st.rows = [] → PinSees s c h p g pin id x → x.mark = 0 →
      let v := x.asVector.value.toNat
      let tile := v % 16
      v < 2 ^ 16 → v / 16 % 64 + (v / 2 ^ 10 + 1) ≤ 64 → (∀ t ∈ (s.core c).mxq, t.begun = true → t.names tile = false) →
      ∃ g', Fires (exec (.accrRequest o) s) s c h g' ∧ ArcsBecame g g' p [id] [] ∧
        let rows := (g'.fab.mus.get MuState.fresh (4 * p + m)).rows
        rows.length = 4 * (v / 2 ^ 10 + 1) ∧ ∀ i < 4 * (v / 2 ^ 10 + 1), ∃ tok, rows[i]? = some tok ∧ tok.mask = 0xFFFF ∧
          ∀ n < 16, tok.lane n = ((s.core c).tiles.get Tile.zero tile).elems.get 0 (64 * (v / 16 % 64) + 16 * i + n)) ∧
    (∀ ts, MuAct s c h p m g f 4 st → st.rows = x :: ts → x.scale = none → g.room p (pin + 2) = true →
      (∀ j < 16, ((s.core c).tiles.get Tile.zero st.line).poisoned.contains (st.w + j) = false) →
      ∃ g', Fires (exec (.accrRequest o) s) s c h g' ∧ ArcsBecame g g' p [] [(pin + 2, x)] ∧
        g'.fab.mus.get MuState.fresh (4 * p + m) = { st with rows := ts, w := st.w + 16 })

/-- Derived from R87, R389: for an associative operator, after any contributions a window of length `len` holds the left fold of the last `len` of them, in order (each
with its number), however its two folds are kept. -/
def Obligations.WindowFolds : Prop :=
  ∀ (op : Lane × Lane → Lane × Lane → Lane × Lane) (len : Nat) (vs : List Lane),
    (∀ a b c, op (op a b) c = op a (op b c)) → 0 < len → vs ≠ [] →
    let w := vs.foldl (fun w v => Window.push op len w v) Window.empty
    let all := (vs.zipIdx).map fun e => (e.1, BitVec.ofNat 32 e.2)
    w.result op = foldBack op (all.drop (vs.length - len)) ∧ w.front.length + w.back.length = min len vs.length

/-- R313 to R316: an LX emits its oldest output elements as a full token first; otherwise a conversion between floating formats takes in a data token's elements, each
converted and rounded once, and PLANE regroups blocks of 32 elements. -/
def Sys2Proof.Claims.Converters : Prop :=
  ∀ (s : State) (c h p : Nat) (g : Region) (f : CFrame) (st : LxState) (x : Token) (id : Nat),
    s.liveRegion c h = some g → lxFrame (g.frames p) = some f → g.fab.lxs.get LxState.fresh p = st →
    let run : LxRun := ⟨s, c, h, p, f, g⟩
    let o : PatchAt := ⟨c, h, p⟩
    let full := 128 / run.eOut
    (∀ i, (i = .lxConvert o ∧ lxConv f ≠ 0x1F ∧ lxToDb (lxConv f) = false ∧ lxFromDb (lxConv f) = false ∨ i = .lxPlane o ∧ lxConv f = 0x1F) →
      lxMsrc f = false → full ≤ st.outs.length → 0 < full → g.room p (90 + lxOut f) = true →
      ∃ g', Fires (exec i s) s c h g' ∧ ArcsBecame g g' p [] [(90 + lxOut f, elemToken run.eOut (st.outs.take full) none)] ∧
        (g'.fab.lxs.get LxState.fresh p).outs = st.outs.drop full ∧ (g'.fab.lxs.get LxState.fresh p).ins = st.ins) ∧
    (∀ A B, lxConv f ≠ 0x1F → lxToDb (lxConv f) = false → lxFromDb (lxConv f) = false → lxMsrc f = false → st.outs.length < full →
      fmtOfCode run.formats.1 = some A → fmtOfCode run.formats.2 = some B → PinSees s c h p g (88 + lxIn f) id x → x.mark = 0 →
      ∃ g', Fires (exec (.lxConvert o) s) s c h g' ∧ ArcsBecame g g' p [id] [] ∧
        (g'.fab.lxs.get LxState.fresh p).outs = st.outs ++ (tokenElems run.eIn x.asVector).map fun v =>
          BitVec.ofNat 32 (B.rnd (lxRnd f) (lxSat f) (A.dec v.toNat)).1) ∧
    (lxConv f = 0x1F → st.outs.length < full → 32 ≤ st.ins.length →
      ∃ g', Fires (exec (.lxPlane o) s) s c h g' ∧ ArcsBecame g g' p [] [] ∧ (g'.fab.lxs.get LxState.fresh p).ins = st.ins.drop 32 ∧
        (g'.fab.lxs.get LxState.fresh p).outs = st.outs ++ run.regroup (st.ins.take 32)) ∧
    (lxConv f = 0x1F → lxMsrc f = false → st.outs.length < full → st.ins.length < 32 → (s.core c).peek h g p (89 - lxIn f) = none →
      PinSees s c h p g (88 + lxIn f) id x → x.mark = 0 → ∃ g', Fires (exec (.lxPlane o) s) s c h g' ∧ ArcsBecame g g' p [id] [] ∧
        (g'.fab.lxs.get LxState.fresh p).ins = st.ins ++ tokenElems run.eIn x.asVector)

/-- R80 to R82, R313 to R315: an LX that converts to a DB format makes a group of 256 elements, or of what a marker leaves, into codes and metadata, and emits
them, the metadata beside the first token or attached to it; one that converts from a DB format waits for a group's metadata, then converts
its elements, each rounded once. A marker passes when nothing is left, and groups start afresh. -/
def Sys2Proof.Claims.DbConverters : Prop :=
  ∀ (s : State) (c h p : Nat) (g : Region) (f : CFrame) (st : LxState) (x : Token) (id : Nat) (W : BitVec 128),
    s.liveRegion c h = some g → lxFrame (g.frames p) = some f → g.fab.lxs.get LxState.fresh p = st →
    let run : LxRun := ⟨s, c, h, p, f, g⟩
    let full := 128 / run.eOut
    let o : PatchAt := ⟨c, h, p⟩
    let acts (eaten : List Nat) (outs : List (Nat × Token)) (P : LxState → Prop) : Prop :=
      ∃ g', Fires (exec (.lxConvert o) s) s c h g' ∧ ArcsBecame g g' p eaten outs ∧ P (g'.fab.lxs.get LxState.fresh p)
    let group (F : Fmt) (vs : List (BitVec 32)) := toDb (dbM run.formats.2) (lxRnd f) (vs.map fun v => F.dec v.toNat)
    0 < full →
    (∀ F, lxToDb (lxConv f) = true → st.outs = [] → fmtOfCode run.formats.1 = some F →
      (256 ≤ st.ins.length → acts [] [] fun u => u.ins = st.ins.drop 256 ∧ u.metaOut = some (group F (st.ins.take 256)).scale ∧
        u.outs = ((group F (st.ins.take 256)).codes.take 256).map (BitVec.ofNat 32)) ∧
      (st.ins.length < 256 → PinSees s c h p g (88 + lxIn f) id x →
        (x.mark = 0 → acts [id] [] fun u => u = { st with ins := st.ins ++ tokenElems run.eIn x.asVector }) ∧
        (x.mark ≠ 0 → st.ins ≠ [] → acts [] [] fun u => u.ins = [] ∧ u.metaOut = some (group F st.ins).scale ∧
          u.outs = ((group F st.ins).codes.take st.ins.length).map (BitVec.ofNat 32)))) ∧
    (lxToDb (lxConv f) = true → st.outs ≠ [] → st.metaOut = some W → g.room p (90 + lxOut f) = true →
      (lxMsrc f = false → g.room p (91 - lxOut f) = true →
        acts [] [(90 + lxOut f, elemToken run.eOut (st.outs.take full) none), (91 - lxOut f, ⟨.vector, W.setWidth 512, 0x000F, 0, none⟩)]
          fun u => u = { st with outs := st.outs.drop full, metaOut := none }) ∧
      (lxMsrc f = true → ∃ g', Fires (exec (.lxConvert o) s) s c h g' ∧
        g'.fab.lxs.get LxState.fresh p = { st with outs := st.outs.drop full, metaOut := none })) ∧
    (lxFromDb (lxConv f) = true →
      (full ≤ st.outs.length → g.room p (90 + lxOut f) = true →
        acts [] [(90 + lxOut f, elemToken run.eOut (st.outs.take full) none)] fun u => u = { st with outs := st.outs.drop full }) ∧
      (∀ B, st.outs.length < full → st.ins ≠ [] → st.metaIn = some W → metaBad W = false → fmtOfCode run.formats.2 = some B →
        let n := min st.ins.length (256 - st.pos)
        acts [] [] fun u => u.ins = st.ins.drop n ∧ u.pos = (st.pos + n) % 256 ∧ u.metaIn = (if (st.pos + n) % 256 = 0 then none else some W) ∧
          u.outs = st.outs ++ (st.ins.take n).zipIdx.map fun e =>
            BitVec.ofNat 32 (B.rnd (lxRnd f) (lxSat f) (dbValue (dbM run.formats.1) W (st.pos + e.2) e.1.toNat)).1) ∧
      (lxMsrc f = false → st.outs.length < full → st.ins ≠ [] → st.metaIn = none → PinSees s c h p g (89 - lxIn f) id x → x.mark = 0 →
        metaBad (x.asVector.data.extractLsb' 0 128) = false → acts [id] [] fun u => u = { st with metaIn := some (x.asVector.data.extractLsb' 0 128) }) ∧
      (lxMsrc f = false → st.outs.length < full → st.ins = [] → PinSees s c h p g (88 + lxIn f) id x → x.mark = 0 →
        acts [id] [] fun u => u.ins = tokenElems run.eIn x.asVector ∧ u.outs = st.outs ∧ u.metaIn = st.metaIn)) ∧
    (lxConv f ≠ 0x1F → lxMsrc f = false → st.outs = [] → st.ins = [] → PinSees s c h p g (88 + lxIn f) id x → x.mark ≠ 0 →
      g.room p (90 + lxOut f) = true → acts [id] [(90 + lxOut f, x.asVector)] fun u => u = LxState.fresh)

namespace Sys2Proof.Claims

open Sys2Proof.Machine

/-- Token `tok` stands at position `ix` of core `c`'s queue, its turn has come and it has its halves `hs` (R294, R310). -/
structure TokenRuns (s : State) (c ix : Nat) (tok : MxToken) (hs : List Nat) : Prop where
  there : (s.core c).mxq[ix]? = some tok
  turn : (s.core c).mayRun ix tok = true
  halves : (if tok.halves.isEmpty then (s.core c).takeHalves tok else some tok.halves) = some hs
  thawed : s.frozen tok.gang = false
  powered : (s.core c).gated.contains .matrix = false

/-- The rows of the accumulating operations, by code (Table 5-20). -/
def groupRows (c ix : Nat) : List (Instr × Nat) := [(.mma ⟨c, ix⟩, 1), (.mmaz ⟨c, ix⟩, 2), (.mmar ⟨c, ix⟩, 5), (.mmarz ⟨c, ix⟩, 6)]

/-- The core accepted a token with these words: it is the last of the queue, waiting, with copies of the records that it names. -/
def Accepted (k k' : Core) (w0 w1 : Word) (src : MxSource) (gang : Option GangId) : Prop :=
  ∃ t, k'.mxq = k.mxq ++ [t] ∧ t.w0 = w0 ∧ t.w1 = w1 ∧ t.source = src ∧ t.gang = gang ∧ t.phase = .queued ∧ t.resume = 0 ∧
    t.arec = k.record (mxArec w0) ∧ t.brec = k.record (mxBrec w0) ∧ t.id = k.nextTok ∧
    ∀ n, k'.sb n = if w0.getLsbD 0 = false ∧ (w0.extractLsb' 7 5).toNat = n then k.sb n + 1 else k.sb n

end Sys2Proof.Claims

/-- R294, R295, R306, R307: MTOK and MATRIX_ACCEPT put a token into the queue of sixteen when it has room and the source's turn has come, with copies of its records, and
raise its counter unless nsb is set; a word that Table 5-21 refuses traps ILLEGAL; MX_PIN_TOKEN offers a data token on mx.0 and owes a
marker in its place; MATRIX_TOKEN_COMPLETE lets the token leave, lowers its counter and emits the pin's done. -/
def Sys2Proof.Claims.MatrixTokens : Prop :=
  ∀ (s : State) (o : OpsAB) (x y : Word) (c ix h p n id : Nat) (g : Region) (tok : MxToken) (e : Token),
    (Passes o.g s → Holds s o.a x → Holds s o.b y → s.curSlot.spec = none →
      (mxTokenOk x y = true → s.curCore.mxq.length < 16 → s.mxNext s.cur.core true = some 0 → s.curCore.mxWaits x = false →
        ∃ t, exec (.mtok o) s = .next t ∧ SameMemory s t ∧ SameRegsBut [] s t ∧ SamePredsBut [] s t ∧ Onward s t ∧ SameTask s t ∧
          Accepted s.curCore t.curCore x y (.cp s.cur.slot s.curSlot.pc) s.curSlot.gang) ∧
      (mxTokenOk x y = true → s.curCore.mxq.length ≥ 16 → Stalls (exec (.mtok o) s) s) ∧
      (mxTokenOk x y = false → Traps (exec (.mtok o) s) s .illegal 0 ((encode (.mtok o)).getD 0) y)) ∧
    ((s.core c).mxq.length < 16 → 0 < n → s.mxNext c (s.cpOffers c) = some n →
      s.offeredAt c (mxPatchNos.getD (n - 1) 0) = some (h, p) →
      s.liveRegion c h = some g → (s.core c).peek h g p 94 = some (id, e) → (s.core c).mxWaits (e.data.extractLsb' 0 64) = false →
      ∃ t g', exec (.matrixAccept ⟨c⟩) s = .next t ∧ SameMemory s t ∧ (t.core c).regions.find? h = some g' ∧
        ArcsBecame g g' p [id] [] ∧ p ∉ g'.fab.offered ∧ g'.fab.owed.get [] p = g.fab.owed.get [] p ++ [.pending (s.core c).nextTok] ∧
        Accepted (s.core c) (t.core c) (e.data.extractLsb' 0 64) (e.data.extractLsb' 64 64) (.pin h p) (some g.gang) ∧
        (t.core c).mxLast = n) ∧
    (s.liveRegion c h = some g → g.emitOwed p = none → p ∉ g.fab.offered → PinSees s c h p g 94 id e →
      (e.mark = 0 → e.kind = .vector → e.mask = 0x000F → mxTokenOk (e.data.extractLsb' 0 64) (e.data.extractLsb' 64 64) = true →
        ∃ g', Fires (exec (.mxPinToken ⟨c, h, p⟩) s) s c h g' ∧ ArcsBecame g g' p [] [] ∧ g'.fab.offered = p :: g.fab.offered) ∧
      (e.mark ≠ 0 → ∃ g', Fires (exec (.mxPinToken ⟨c, h, p⟩) s) s c h g' ∧ ArcsBecame g g' p [id] [] ∧
        g'.fab.owed.get [] p = g.fab.owed.get [] p ++ [.marker e.mark])) ∧
    (∀ l, s.liveRegion c h = some g → g.room p 95 = true → g.fab.owed.get [] p = .done :: l →
      ∃ g', Fires (exec (.mxPinToken ⟨c, h, p⟩) s) s c h g' ∧ ArcsBecame g g' p [] [(95, doneToken)] ∧ g'.fab.owed.get [] p = l) ∧
    ((s.core c).mxq[ix]? = some tok → (s.core c).mxq.find? (fun u => u.id = tok.id) = some tok → tok.phase = .complete →
      s.frozen tok.gang = false →
      (∃ t, exec (.matrixTokenComplete ⟨c, ix⟩) s = .next t ∧ SameMemory s t ∧
        (t.core c).mxq = (s.core c).mxq.filter (fun u => u.id != tok.id) ∧
        (∀ b, tok.counter = some b → (t.core c).sb b = (s.core c).sb b - 1) ∧ (tok.counter = none → (t.core c).sbs = (s.core c).sbs)) ∧
      (∀ l, tok.source = .pin h p → (s.core c).regions.find? h = some g → g.moving = false → s.frozen (some g.gang) = false →
        g.fab.owed.get [] p = .pending tok.id :: l → .pending tok.id ∉ l → g.room p 95 = true →
        ∃ t g', exec (.matrixTokenComplete ⟨c, ix⟩) s = .next t ∧ (t.core c).regions.find? h = some g' ∧
          ArcsBecame g g' p [] [(95, doneToken)] ∧ g'.fab.owed.get [] p = l))

/-- R85, R86, R296 to R304, R312: a token that starts zeroes its tiles (MMAZ, MZERO, MMARZ), makes or drops the check copy, and MZERO is complete at once; the bytes of
a k-group are asked for, and once they are back it adds to every element of its tiles the sixteen products of its row and column, exactly,
rounded once to nearest; the last of 2 × k groups completes it. -/
def Sys2Proof.Claims.MatrixSteps : Prop :=
  ∀ (s : State) (c ix : Nat) (tok : MxToken) (hs : List Nat), TokenRuns s c ix tok hs →
    let tk := { tok with halves := hs }
    let u := tk.unit c
    (∀ i op, (i, op) ∈ groupRows c ix ++ [(.mzero ⟨c, ix⟩, 3)] → tok.op = op → tok.zeroed = false → s.mxHeld c tk = false →
      s.mxCheck c tk = .ok () → ∃ t, exec i s = .next t ∧ SameMemory s t ∧
        (t.core c).mxq[ix]? = some { tk with phase := if op = 3 then .complete else .started, zeroed := true } ∧
        ∀ n ∈ tok.tiles, ((op = 2 ∨ op = 3 ∨ op = 6) → ∀ e, ((t.core c).tile n).elems.get 0 e = 0) ∧
          ((op = 1 ∨ op = 5) → ((t.core c).tile n).elems = ((s.core c).tile n).elems) ∧
          ((op = 5 ∨ op = 6) → ((t.core c).tile n).check.isSome = true) ∧
          ((op = 1 ∨ op = 2 ∨ op = 3) → ((t.core c).tile n).check = none)) ∧
    (∀ i op as bs, (i, op) ∈ groupRows c ix → tok.op = op → tok.zeroed = true → (s.core c).portError u.port = none →
      s.blockSpans c tk tk.opA (tok.resume / 2) = .ok as → s.blockSpans c tk tk.opB (tok.resume / 2) = .ok bs →
      let xs := spansOf ((as ++ bs).flatMap MxSpan.wants)
      (∀ x ys, xs = x :: ys → (s.core c).asked u.port x = none → (s.core c).permitted c (u.req .fetch x.target).dest = true →
        ∃ t, exec i s = .next t ∧ SameMemory s t ∧ (t.core c).mxq[ix]? = some tk ∧ (t.core c).tiles = (s.core c).tiles ∧
          ((t.core c).asked u.port x).isSome = true) ∧
      (∀ a b, (∀ x ∈ xs, ∃ r y, (s.core c).asked u.port x = some r ∧ r.reply? = some y) →
        (Shows s u xs).groupValues tk.opA tok.resume as = .ok a → (Shows s u xs).groupValues tk.opB tok.resume bs = .ok b →
        ((s.core c).payGroup s.stitch tk).2 = true →
        let over_ := tok.resume + 1 = 2 * mxK tok.w0
        ∃ t, exec i s = .next t ∧ SameMemory s t ∧
          (t.core c).mxq[ix]? = some { tk with
            resume := tok.resume + 1, phase := if over_ then .complete else .started, halves := if over_ then [] else hs, paid := 0 } ∧
          ∀ n half, tok.tiles[half]? = some n → ∀ row < 64, ∀ col < 64,
            ((t.core c).tile n).elems.get 0 (64 * row + col) =
              toF32 0 (Exact.sum 0 (f32 (((s.core c).tile n).elems.get 0 (64 * row + col)) ::
                List.zipWith Exact.mul (a.getD (64 * half + row) []) (b.getD col [])))))

/-- R304, R311, R312: a drain starts; it converts its rows, one after another, into writes of its record's bytes and of no others (here to FP32); they
set out as far as permits go; with every write performed the token is complete. Memory is as before: each write reaches it when its request
is performed. -/
def Sys2Proof.Claims.MatrixDrains : Prop :=
  ∀ (s : State) (c ix : Nat) (tok : MxToken) (hs : List Nat), TokenRuns s c ix tok hs → tok.op = 4 →
    let tk := { tok with halves := hs }
    let u := tk.unit c
    let row := tok.resume
    let tile := (s.core c).tile (tok.tiles.getD (row / 64) 0)
    (tok.zeroed = false → s.mxHeld c tk = false → s.mxCheck c tk = .ok () → (s.core c).mismatch tk = none →
      ∃ t, exec (.mdrain ⟨c, ix⟩) s = .next t ∧ SameMemory s t ∧
        (t.core c).mxq[ix]? = some { tk with phase := .started, zeroed := true } ∧ (t.core c).tiles = (s.core c).tiles) ∧
    (tok.zeroed = true → (s.core c).portError u.port = none →
      (∀ sp, tok.out = [] → row < tk.rows → tk.view = 0x08 → (∀ n ∈ tok.tiles, ((s.core c).tile n).poisoned = []) →
        s.drainSpan c tk row = .ok sp → (((sp.bytes.filterMap id).map fun e => e.1).Nodup) →
        ∃ t outs, exec (.mdrain ⟨c, ix⟩) s = .next t ∧ SameMemory s t ∧ (t.core c).tiles = (s.core c).tiles ∧
          (t.core c).mxq[ix]? = some { tk with resume := row + 1, phase := .started, out := outs } ∧
          (∀ k, (∃ q ∈ outs, k ∈ q.op.halves) ↔ ∃ e : Nat × Nat, some e ∈ sp.bytes ∧ k / 2 = e.1) ∧
          ∀ j < 256, ∀ e : Nat × Nat, sp.bytes[j]? = some (some e) →
            let v := (leBytes 4 (tile.elems.get 0 (64 * (row % 64) + j / 4)).toNat).getD (j % 4) 0
            ∃ q ∈ outs, ∃ ps x, q.op = .put ps false true ∧ x ∈ ps ∧
              (2 * e.1, v.toNat % 16) ∈ x ∧ (2 * e.1 + 1, v.toNat / 16) ∈ x) ∧
      (∀ q qs, tok.out = q :: qs → ((s.core c).takeWritten u.port).permitted c (u.req q.op q.target).dest = true →
        ∃ t m, exec (.mdrain ⟨c, ix⟩) s = .next t ∧ SameMemory s t ∧ (t.core c).tiles = (s.core c).tiles ∧ 0 < m ∧
          (t.core c).mxq[ix]? = some { tk with out := tok.out.drop m } ∧
          ∀ y ∈ tok.out.take m, ∃ r ∈ (t.core c).portReqs u.port, r.op = y.op ∧ r.tgt = y.target) ∧
      (tok.out = [] → tk.rows ≤ row → ((s.core c).takeWritten u.port).portIdle u.port = true →
        ∃ t, exec (.mdrain ⟨c, ix⟩) s = .next t ∧ SameMemory s t ∧ (t.core c).tiles = (s.core c).tiles ∧
          (t.core c).mxq[ix]? = some { tk with phase := .complete, halves := [] }))
namespace Sys2Proof.Claims

open Sys2Proof.Machine

/-- The head command of domain `dom`'s queue may be performed: it is `e`, well formed, with opcode `op` (R156, R157). -/
def Commands (s : State) (dom op e : Nat) : Prop :=
  s.headCommand dom = some e ∧ commandOk e = true ∧ entryBytes e 8 8 = op

/-- The command has been taken from its queue, and memory is as before. -/
def Performed (o : Out) (s : State) (dom : Nat) (t : State) : Prop :=
  o = .next t ∧ SameMemory s t ∧ (t.queue dom).head = (s.queue dom).head + 1 ∧ t.errorLog = s.errorLog

/-- R157: the head command has been skipped and logged, and nothing else has changed. -/
def Skipped (o : Out) (s : State) (dom : Nat) : Prop :=
  ∃ t, o = .next t ∧ SameMemory s t ∧ t.errorLog = s.errorLog ++ [.skipped dom (s.queue dom).head] ∧
    (t.queue dom).head = (s.queue dom).head + 1 ∧ (∀ p, p ≠ dom → t.queue p = s.queue p) ∧ t.launches = s.launches ∧
    t.gangs = s.gangs ∧ t.linings = s.linings ∧ t.marks = s.marks ∧ t.cores = s.cores ∧ t.tlb = s.tlb

/-- R158: the entries of queue `q` are abandoned: the instances of a partly placed head launch that are not placed are discarded, their number
logged, and the launch, if some of its instances live, completes uncounted; LKILL marks of the queue go (log 17). -/
def Abandons (s t : State) (q : Nat) : Prop :=
  let id := launchId q (s.queue q).head
  let partly (l : Launch) : Bool := l.id == id && !l.placed
  (s.launches.find? partly = none → t.launches = s.launches ∧ t.errorLog = s.errorLog) ∧
  (∀ l, s.launches.find? partly = some l → (∀ m, m.id ≠ id → (m ∈ t.launches ↔ m ∈ s.launches)) ∧
    (l.next = 0 → t.errorLog = s.errorLog ∧ ∀ m ∈ t.launches, m.id ≠ id) ∧
    (l.next ≠ 0 → t.errorLog = s.errorLog ++ [.discarded q (s.queue q).head (lrCount l.record - l.next)] ∧
      ∀ m ∈ t.launches, m.id = id → m.placed = true ∧ m.uncounted = true ∧ m.live ≠ 0)) ∧
  ∀ m ∈ t.marks.get [] (q / 16384), launchQueue m ≠ q

/-- Two queues have the same descriptor and control line. -/
def SameQueue (x y : Queue) : Prop := { x with headSeen := y.headSeen, awaitsMet := y.awaitsMet } = y

end Sys2Proof.Claims

/-- R156 to R158, R106, R412, Tables 6-1, 6-4: QDESC writes a queue's descriptor, LDESC a lining's, QRESET zeroes a queue's counters, LKILL
removes a launch with its gangs, lets its head entry pass, or leaves a mark, XINV empties the domain's translations and code lines. A
command that R157 refuses, or no opcode, is skipped and logged, whichever row's turn it is. Each takes the head of its COMMAND queue.
QDESC on a valid queue discards a partly placed head launch, and QRESET does as QDESC does (log 17). -/
def Sys2Proof.Claims.QueueCommands : Prop :=
  ∀ (s : State) (dom e : Nat) (o : TestAt),
    let q := entryBytes e 16 17
    let d := entryBytes e 32 47
    (s.headCommand dom = some e → commandOk e = false → o.dom = dom →
      ∀ i ∈ [Instr.qdesc ⟨dom⟩, .ldesc ⟨dom⟩, .qreset ⟨dom⟩, .lkill ⟨dom⟩, .xinv ⟨dom⟩, .attest ⟨dom⟩, .selftest o], Skipped (exec i s) s dom) ∧
    (Commands s dom 1 e → (q < 16 ∨ s.ownQueue q dom = false ∨ (bits d 127 127 = 1 ∧ descriptorOk d dom = false)) →
      Skipped (exec (.qdesc ⟨dom⟩) s) s dom) ∧
    (Commands s dom 1 e → 16 ≤ q → s.ownQueue q dom = true → (bits d 127 127 = 1 → descriptorOk d dom = true) →
      ∃ t, exec (.qdesc ⟨dom⟩) s = .next t ∧ SameMemory s t ∧ (t.queue dom).head = (s.queue dom).head + 1 ∧
        (∀ p, p ≠ q → p ≠ dom → t.queue p = s.queue p) ∧
        ((s.queue q).valid = true → Abandons s t q) ∧
        ((s.queue q).valid = false → t.launches = s.launches ∧ t.errorLog = s.errorLog ∧ t.marks = s.marks) ∧
        (t.queue q).valid = (bits d 127 127 == 1) ∧
        (bits d 127 127 = 1 → (t.queue q).type.toNat = bits d 126 125 ∧ (t.queue q).prio.toNat = bits d 124 122 ∧
          (t.queue q).weight.toNat = bits d 121 114 ∧ (t.queue q).dom.toNat = bits d 113 110 ∧ (t.queue q).logn.toNat = bits d 109 105 ∧
          (t.queue q).ring.toNat = bits d 104 63 ∧ (t.queue q).ctl.toNat = bits d 62 17 ∧ (t.queue q).head = 0 ∧ (t.queue q).tail = 0 ∧
          (t.queue q).closed = false)) ∧
    (Commands s dom 2 e →
      (4096 ≤ q ∨ ((s.lining q).valid = true ∧ (s.lining q).dom.toNat ≠ dom) ∨
        (bits (entryBytes e 32 63) 255 255 = 1 ∧ bits (entryBytes e 32 63) 135 132 ≠ dom)) → Skipped (exec (.ldesc ⟨dom⟩) s) s dom) ∧
    (Commands s dom 2 e → q < 4096 → let d := entryBytes e 32 63
      ((s.lining q).valid = true → (s.lining q).dom.toNat = dom) → (bits d 255 255 = 1 → bits d 135 132 = dom) →
      ∃ t, Performed (exec (.ldesc ⟨dom⟩) s) s dom t ∧ (t.lining q).valid = (bits d 255 255 == 1) ∧
        (t.lining q).fl = (bits d 254 254 == 1) ∧ (t.lining q).vbase.toNat = bits d 223 188 ∧
        (t.lining q).npages.toNat = bits d 187 168 ∧ (t.lining q).pairs.toNat = bits d 167 136 ∧ (t.lining q).dom.toNat = bits d 135 132 ∧
        ∀ n, n ≠ q → t.lining n = s.lining n) ∧
    (Commands s dom 3 e → (q < 16 ∨ s.ownQueue q dom = false) → Skipped (exec (.qreset ⟨dom⟩) s) s dom) ∧
    (Commands s dom 3 e → 16 ≤ q → s.ownQueue q dom = true →
      ∃ t, exec (.qreset ⟨dom⟩) s = .next t ∧ SameMemory s t ∧ (t.queue dom).head = (s.queue dom).head + 1 ∧ Abandons s t q ∧
        (t.queue q).head = 0 ∧ (t.queue q).tail = 0 ∧ (t.queue q).resv = 0 ∧
        (t.queue q).closed = false ∧ (t.queue q).faulted = false ∧ (t.queue q).valid = (s.queue q).valid ∧
        (t.queue q).ring = (s.queue q).ring ∧ ∀ p, p ≠ q → p ≠ dom → t.queue p = s.queue p) ∧
    (let id := entryBytes e 16 23
      let r := launchQueue id
      let x := s.queue r
      let ahead := (id % 2 ^ 48 + 2 ^ 48 - x.head.toNat % 2 ^ 48) % 2 ^ 48 < 2 ^ 47
      let marks := s.marks.get [] (r / 16384)
      Commands s dom 4 e → s.savingLaunch id = false → (s.ownQueue r dom = false → Skipped (exec (.lkill ⟨dom⟩) s) s dom) ∧
        (s.ownQueue r dom = true → s.launches.find? (fun x => x.id == id) = none →
          (¬ ahead → ∃ t, Performed (exec (.lkill ⟨dom⟩) s) s dom t ∧ t.marks = s.marks ∧ t.launches = s.launches) ∧
          (ahead → launchId r x.head = id → x.type = 0 → s.dispensable r = true → r ≠ dom →
            ∃ t, Performed (exec (.lkill ⟨dom⟩) s) s dom t ∧ t.marks = s.marks ∧ (t.queue r).head = x.head + 1) ∧
          (ahead → ¬ (launchId r x.head = id ∧ x.type = 0 ∧ s.dispensable r = true) → id ∉ marks →
            (marks.length < 64 → ∃ t, Performed (exec (.lkill ⟨dom⟩) s) s dom t ∧ t.marks.get [] (r / 16384) = id :: marks) ∧
            (64 ≤ marks.length → Skipped (exec (.lkill ⟨dom⟩) s) s dom)))) ∧
    (∀ l, let id := entryBytes e 16 23
      Commands s dom 4 e → s.savingLaunch id = false → s.ownQueue (launchQueue id) dom = true →
      s.launches.find? (fun x => x.id == id) = some l → l.placed = true → ∃ t, Performed (exec (.lkill ⟨dom⟩) s) s dom t ∧
        (∀ g ∈ t.gangs, g.id.launch ≠ id) ∧ (∀ x ∈ t.launches, x.id ≠ id) ∧ (∀ v ∈ t.saves, v.gang.id.launch ≠ id) ∧
        (∀ x ∈ s.launches, x.id ≠ id → x ∈ t.launches)) ∧
    (Commands s dom 5 e → s.invalidating dom ⟨0, 0, true⟩ = false → ∃ t, Performed (exec (.xinv ⟨dom⟩) s) s dom t ∧
      (∀ x ∈ t.tlb, x.dom ≠ dom) ∧ (∀ x ∈ s.tlb, x.dom ≠ dom → x ∈ t.tlb) ∧ ∀ c, ∀ l ∈ (t.core c).ibuf, l.dom ≠ dom)

/-- R450 to R452, Tables 23-3, 23-4: ATTEST stores the signed report of kind 1 with the command's nonce; SELFTEST, of domain 0 with no gang resident, records what the tests
found, withholds the cores that failed, and stores the report of kind 0; nothing else in memory changes (log 18). One that is of another domain,
or whose report has no place, is skipped and logged (R157). -/
def Sys2Proof.Claims.ReportCommands : Prop :=
  ∀ (s : State) (dom e key : Nat) (o : TestAt),
    ((Commands s dom 7 e → s.reportKey dom (entryBytes e 16 23) = none → Skipped (exec (.attest ⟨dom⟩) s) s dom) ∧
    (Commands s dom 6 e → o.dom = dom → (dom ≠ 0 ∨ s.reportKey dom (entryBytes e 16 23) = none) → Skipped (exec (.selftest o) s) s dom)) ∧
    (s.meas.length = 64 → s.reportKey dom (entryBytes e 16 23) = some key →
    (Commands s dom 7 e → ∃ t, exec (.attest ⟨dom⟩) s = .next t ∧ (t.queue dom).head = (s.queue dom).head + 1 ∧
      readBytes t.mem key 512 = s.reportBytes 1 (leBytes 32 (entryBytes e 32 63)) ∧
      ∀ a, (a < key ∨ key + 512 ≤ a) → readByte t.mem a = readByte s.mem a) ∧
    (Commands s 0 6 e → dom = 0 → o.dom = 0 → s.gangs = [] → ∃ t, exec (.selftest o) s = .next t ∧
      (t.queue 0).head = (s.queue 0).head + 1 ∧ t.test = ⟨o.failCores, o.failHems, o.lanes, o.stackOk⟩ ∧ t.shockSinceTest = false ∧
      (∀ c < 384, (t.core c).withheld = o.failCores.contains c) ∧
      t.shocks = (if (TestResult.passed ⟨o.failCores, o.failHems, o.lanes, o.stackOk⟩) = true then 0 else s.shocks) ∧
      (readBytes t.mem key 2 = [0, 1]) ∧ readBytes t.mem (key + 16) 8 = leBytes 8 s.stitch.toNat ∧
      ∀ a, (a < key ∨ key + 512 ≤ a) → readByte t.mem a = readByte s.mem a))

/-- R142 to R149, R153, R155, R203: a host's load, store or atomic at its home, or its cause; a queue's tail moves forward only and only while open; close; a reread that finds
the head published; an await is met once it has been read as reached; the head of a LAUNCH queue is taken up, passed over by an LKILL mark, or found malformed.
Sizes and alignment of host accesses, and a launch identifier in use, are deduced (logs 22 and 17). -/
def Obligations.HostsAndQueues : Prop :=
  ∀ (s : State) (o : HostAccess) (key q : Nat) (v : Word) (tgt : Target),
    (s.hostTarget o = .ok tgt → tgt.home = .mem key → s.poisonedAt key o.size = false →
      (o.op = .load → ∃ t, exec (.hostAccess o) s = .next t ∧ SameMemory s t ∧
        t.answers = s.answers ++ [(o.tag, .data (readBytes s.mem key o.size))]) ∧
      (∀ data, o.op = .store data → data.length = o.size → ∃ t, exec (.hostAccess o) s = .next t ∧ readBytes t.mem key o.size = data ∧
        (∀ a, (a < key ∨ key + o.size ≤ a) → readByte t.mem a = readByte s.mem a) ∧ t.answers = s.answers ++ [(o.tag, .data [])]) ∧
      (∀ op x y, o.op = .atomic op x y → ∃ t, exec (.hostAccess o) s = .next t ∧
        readBytes t.mem key o.size = leBytes o.size (atomNew op (8 * o.size) (s.load key o.size) x.toNat y.toNat) ∧
        (∀ a, (a < key ∨ key + o.size ≤ a) → readByte t.mem a = readByte s.mem a) ∧
        t.answers = s.answers ++ [(o.tag, .data (readBytes s.mem key o.size))])) ∧
    (∀ e, s.hostTarget o = .error e → ∃ t, exec (.hostAccess o) s = .next t ∧ SameMemory s t ∧
      t.answers = s.answers ++ [(o.tag, .cause e.cause)]) ∧
    ((s.queue q).valid = true →
      ((s.queue q).closed = false → 0 < (v - (s.queue q).tail).toNat → (v - (s.queue q).tail).toNat < 2 ^ 63 →
        ∃ t, exec (.tailWrite ⟨q, v⟩) s = .next t ∧ SameMemory s t ∧ SameQueue (t.queue q) { s.queue q with
          tail := v, headSeen := (t.queue q).headSeen } ∧ ∀ p, p ≠ q → t.queue p = s.queue p) ∧
      (((s.queue q).closed = true ∨ v = (s.queue q).tail ∨ 2 ^ 63 ≤ (v - (s.queue q).tail).toNat) → exec (.tailWrite ⟨q, v⟩) s = .next s) ∧
      (∃ t, exec (.queueClose ⟨q⟩) s = .next t ∧ t.queue q = { s.queue q with closed := true } ∧ SameMemory s t ∧
        ∀ p, p ≠ q → t.queue p = s.queue p)) ∧
    (s.dispensable q = true → ∃ t, exec (.queueReread ⟨q⟩) s = .next t ∧ (t.queue q).headSeen = true ∧ SameMemory s t ∧
      ∀ c n m, n < 64 → m ∈ ((s.core c).chan n).fifo → m ∈ ((t.core c).chan n).fifo) ∧
    (∀ l, s.launches.find? (fun x => x.id == launchId q (s.queue q).head) = some l → ∃ t, exec (.awaitReread ⟨q⟩) s = .next t ∧
      t.queue q = { s.queue q with awaitsMet := (t.queue q).awaitsMet } ∧ SameMemory s t ∧
      ∀ k < lrNawait l.record, (k ∈ (t.queue q).awaitsMet ↔ k ∈ (s.queue q).awaitsMet ∨
        ∃ p, s.translate (s.hemIssuer (q / 16384) l.dom) .counter true false none
          (lrCpage l.record * 2 ^ 16 + 8 * (lrAwait l.record k).1) = .ok p ∧
        (lrAwait l.record k).2 ≤ s.load (p.key + 8 * (lrAwait l.record k).1) 8)) ∧
    (let id := launchId q (s.queue q).head
      let r := BitVec.ofNat 512 (s.entry q (s.queue q).head)
      s.dispensable q = true → (s.queue q).type = 0 → (s.launches.any fun l => l.id == id) = false →
      (id ∈ s.marks.get [] (q / 16384) → ∃ t, exec (.queueDispense ⟨q⟩) s = .next t ∧ (t.queue q).head = (s.queue q).head + 1 ∧
        id ∉ t.marks.get [] (q / 16384) ∧ t.launches = s.launches) ∧
      (id ∉ s.marks.get [] (q / 16384) → s.launchBad q r = none → ∃ t, exec (.queueDispense ⟨q⟩) s = .next t ∧
        t.launches = s.launches ++ [⟨id, (s.queue q).dom.toNat, r, 0, false, 0, false⟩] ∧ (t.queue q).headSeen = true ∧
        (t.queue q).head = (s.queue q).head) ∧
      (∀ c, id ∉ s.marks.get [] (q / 16384) → s.launchBad q r = some c → ∃ t, exec (.queueDispense ⟨q⟩) s = .next t ∧
        (t.queue q).faulted = true ∧ t.errorLog = s.errorLog ++ [.malformed q (s.queue q).head c] ∧ t.launches = s.launches))

/-- R154, R155, R160, R167, R169, R183, R195, R42, R153: a decision places an instance of the chosen queue's head launch on its members; a move ends at its new base; an image
for which room is reserved is fetched and becomes resident, and none is evicted that is in use; a gang that is over leaves its members, and the last instance of a launch advances its completion counter; a fetched
line is asked for at its home, and enters the buffer when it is back; an ended walk enters the die's buffer and those of the cores that wait for it, or leaves them its fault.
The placement waits for the walks of its entries' first lines (log 28). A queue whose image is not resident, and the accesses that a gang's end waits for, are deduced (logs 34 and 35). -/
def Obligations.PlacementEvents : Prop :=
  ∀ (s u : State) (q c h n : Nat) (l : Launch) (d : Decision) (g : Region) (G : Gang),
    (s.decision = none → s.chooseQueue [] = some (u, q) → u.headLaunch q = some l →
      u.tryPlace l { Decision.fresh [] [] with launch := l.id } = .placed d → d.held ≠ [] →
      (∀ e ∈ d.held, (u.core e.1).basesOk l e.2 = true ∧
        ∃ im, (u.core e.1).imageOf l.dom (lrImg l.record) = some im ∧ im.poisoned = false ∧ listsFit im l.record = true) →
      let w := (d.held.foldl (fun (t : State) e => t.onCore e.1 fun k => k.dropPoisoned l.dom (lrImg l.record)) (u.wakeReserved l d.held)).firstLines
        d.held l.dom (lrImg l.record)
      (w.2 = true → ∃ t, exec .schedulerDecision s = .next t ∧ SameMemory s t ∧ t.decision = some d ∧ t.gangs = s.gangs) ∧
      (w.2 = false →
      ∃ t, exec .schedulerDecision s = .next t ∧ SameMemory s t ∧ t.lastQueue = q ∧ t.decision = none ∧
        (∃ G ∈ t.gangs, G.id = ⟨l.id, l.next⟩ ∧ G.dom = l.dom ∧ G.members = d.held.map (fun e => e.1) ∧
          G.prio = min (u.queue q).prio.toNat (lrPrio l.record) ∧ G.chbase = lrChbase l.record ∧ G.job = none) ∧
        (t.queue q).head = (if lrCount l.record ≤ l.next + 1 then (u.queue q).head + 1 else (u.queue q).head) ∧
        (t.queue q).credit = (u.queue q).credit - 1 ∧ (t.queue q).passes = 0)) ∧
    (s.decision = none → s.chooseQueue [] = none → ∃ t, exec .schedulerDecision s = .next t ∧ t = { s with decision := none }) ∧
    ((s.core c).regions.find? h = some g → g.moving = true → ∃ g', Fires (exec (.compactionMoveDone ⟨c, h⟩) s) s c h g' ∧
      g' = { g with base := g.target, moving := false, moved := true }) ∧
    (∀ dom page, let v := s.onCore c fun k => k.dropPoisoned dom page
      let asked := (v.core c).fetches.any fun x => x.dom == dom && x.page == page
      (v.core c).domain.toNat = dom → (v.core c).imageOf dom page = none → v.imageWanted c dom page = true →
      (∀ k, asked = false → (v.core c).makeRoom (v.imageFrames dom page) = some k →
        ∃ t, exec (.imageFetchDone ⟨c, dom, page⟩) s = .next t ∧ SameMemory s t ∧
          t.core c = { k with fetches := k.fetches ++ [⟨dom, page, v.imageFrames dom page⟩] }) ∧
      (asked = false → (v.core c).makeRoom (v.imageFrames dom page) = none → exec (.imageFetchDone ⟨c, dom, page⟩) s = .next v) ∧
      (∀ im k, asked = true → v.fetchImage c dom page = .done im → ((v.core c).endFetch c dom page).makeRoom im.nfrm = some k →
        ∃ t, exec (.imageFetchDone ⟨c, dom, page⟩) s = .next t ∧ SameMemory s t ∧ (t.core c).store = im :: k.store ∧
          (∀ m ∈ (v.core c).store, (v.core c).imageUsed m = true → m ∈ (t.core c).store) ∧
          ∀ x ∈ (t.core c).fetches, x.dom ≠ dom ∨ x.page ≠ page)) ∧
    (s.gangs.find? (fun x => x.id == G.id) = some G → G.job = none → (∀ m ∈ G.members, (s.core m).gangOver G.id = true) →
      s.launches.find? (fun x => x.id == G.id.launch) = some l →
      ((l.placed = false ∨ 1 < l.live) → ∃ t, exec (.gangEnd ⟨G.id.launch, G.id.inst⟩) s = .next t ∧ SameMemory s t ∧
        (∀ x ∈ t.gangs, x.id ≠ G.id) ∧ ∃ l' ∈ t.launches, l' = { l with live := l.live - 1 }) ∧
      (∀ p, l.placed = true → l.live ≤ 1 → l.uncounted = false →
        s.translate (s.hemIssuer (launchQueue l.id / 16384) l.dom) .counter true true none (lrCpage l.record * 2 ^ 16) = .ok p →
        (s.removeGang G.id).translate ((s.removeGang G.id).hemIssuer (launchQueue l.id / 16384) l.dom) .counter true true none
          (lrCpage l.record * 2 ^ 16) = .ok p →
        let key := p.key + 8 * lrCidx l.record
        ∃ t, exec (.gangEnd ⟨G.id.launch, G.id.inst⟩) s = .next t ∧ (∀ x ∈ t.launches, x.id ≠ l.id) ∧ (∀ x ∈ t.gangs, x.id ≠ G.id) ∧
          t.load key 8 = (s.load key 8 + 1) % 2 ^ 64 ∧ ∀ a, (a < key ∨ key + 8 ≤ a) → readByte t.mem a = readByte s.mem a)) ∧
    (∀ x, ((s.core c).slot n).status = .occupied → (s.core c).fetchWord ((s.core c).slot n).pc = none →
      s.frozen ((s.core c).slot n).gang = false → s.fetchSpan c n = .ok x →
      let v := s.fetcher c n
      let line := ((s.core c).slot n).pc.toNat / 64
      x.va = 64 * line ∧ x.len = 64 ∧
      ((s.core c).asked v.port x = none → (s.core c).permitted c (v.req .fetch x.target).dest = true →
        ∃ t, exec (.ifetchLine ⟨c, n⟩) s = .next t ∧ SameMemory s t ∧ ((t.core c).asked v.port x).isSome = true ∧
          (t.core c).slot n = (s.core c).slot n ∧ (t.core c).ibuf = (s.core c).ibuf) ∧
      (∀ r p, (s.core c).asked v.port x = some r → r.reply? = some p → p.error = none → p.marred = [] →
        ∃ t, exec (.ifetchLine ⟨c, n⟩) s = .next t ∧ SameMemory s t ∧
          (t.core c).ibuf.head? = some ⟨(s.core c).domain.toNat, line, p.bytes⟩ ∧ (t.core c).slot n = (s.core c).slot n)) ∧
    (∀ va w, s.walks.find? (fun w => w.inFlight (dieOf c) (s.core c).domain.toNat (va / 2 ^ 16)) = some w →
      (∀ p, s.walk w.ptbase (w.page * 2 ^ 16) = .ok p → ∃ t, exec (.translationWalkDone ⟨c, va⟩) s = .next t ∧ SameMemory s t ∧
        t.walks = s.walks.erase w ∧ (∃ e ∈ t.tlb, e.die = w.die ∧ e.dom = w.dom ∧ e.page = w.page) ∧
        ∀ x ∈ w.ports, ∃ e ∈ (t.core x.core).tlb, e.1 = w.page) ∧
      (∀ f, w.ports ≠ [] → s.walk w.ptbase (w.page * 2 ^ 16) = .error f → ∃ t, exec (.translationWalkDone ⟨c, va⟩) s = .next t ∧
        SameMemory s t ∧ t.walks = s.walks.erase w ++ [{ w with fault := some f }] ∧ t.tlb = s.tlb))

namespace Sys2Proof.Claims

open Sys2Proof.Machine

/-- The packets of an input queue of router `c`. -/
def queueAt (s : State) (c key : Nat) : List Packet := (s.core c).router.queues.get [] key

/-- Output `out` of router `c` is between packets, its seam is open and no drain is due, and queue `key` wins its round with packet `p` of request
`r`. -/
structure Wins (s : State) (c : Nat) (out : RPort) (key : Nat) (p : Packet) (r : Req) : Prop where
  open_ : s.seamShut c (portNo out) = false
  undrained : s.drainDue = false
  ready : ((s.core c).router.outs.get OutPort.reset (portNo out)).busy = 0
  packet : s.headAt c key = some p
  request : s.packetReq p = some r
  chosen : ∃ credits, chooseQueueAt ((s.core c).router.outs.get OutPort.reset (portNo out))
    ((List.range 20).filter (s.candidate c (portNo out))) (fun k => (s.headAt c k).elim 0 (fun x => x.age) == 15) = some (key, credits)

end Sys2Proof.Claims

/-- R343 steps 1 to 3, R344: among the queues that may send, one wins; a promoted one before any other; else one whose VC has credit left, the
credits being reloaded exactly when no candidate's VC has any. -/
def Obligations.ArbiterIsFair : Prop :=
  ∀ (o : OutPort) (cands : List Nat) (promoted : Nat → Bool), cands ≠ [] → (∀ k ∈ cands, k < 20) →
    ∃ key credits, chooseQueueAt o cands promoted = some (key, credits) ∧ key ∈ cands ∧
      ((∃ k ∈ cands, promoted k = true) → promoted key = true) ∧
      ((∀ k ∈ cands, promoted k = false) → 0 < credits.get 0 (key % 4) ∧
        (credits = o.credits ∨ credits = vcWeights ∧ ∀ k ∈ cands, o.credits.get 0 (k % 4) = 0))

/-- R341, R343, R344, R356, R419: a round of an output port. With no candidate nothing changes. The winner's packet, when it is one flit, moves to the next
router's queue, and every other candidate there is a round older; at its destination a request is at its home, numbered among the arrivals
where an arbiter serves it, and a reply at its requester; a request for another node takes the next number of its class. A longer packet keeps the port until its last flit.
The classes of R419 are deduced (log 24). -/
def Sys2Proof.Claims.RouterRounds : Prop :=
  ∀ (s : State) (c key : Nat) (out : RPort) (p : Packet) (r : Req),
    (((s.core c).router.outs.get OutPort.reset (portNo out)).busy = 0 → (∀ k < 20, s.candidate c (portNo out) k = false) →
      exec (.routerRound ⟨c, out⟩) s = .next s) ∧
    (Wins s c out key p r → p.flits ≤ 1 →
      (∀ d port, (p.x ≠ coreX c ∨ p.y ≠ coreY c) → neighbour c (portNo out) = some (d, port) →
        ∃ t, exec (.routerRound ⟨c, out⟩) s = .next t ∧ SameMemory s t ∧
          queueAt t d (4 * port + key % 4) = queueAt s d (4 * port + key % 4) ++ [{ p with age := 0 }] ∧
          (let rest := ((queueAt s c key).filter fun x => (s.packetReq x).isSome).tail
           queueAt t c key = (rest.take 1).map (fun x => { x with age := 0 }) ++ rest.drop 1) ∧
          (∀ e, (t.core e).reqs = (s.core e).reqs) ∧
          ∀ k < 20, k ≠ key → s.candidate c (portNo out) k = true → ∀ x, s.headAt c k = some x →
            t.headAt c k = some { x with age := min 15 (x.age + 1) }) ∧
      (p.x = coreX c → p.y = coreY c → p.reply = false → ∃ t r', exec (.routerRound ⟨c, out⟩) s = .next t ∧ SameMemory s t ∧
        (t.core p.core).req? p.req = some r' ∧ r'.phase = .home ∧ r'.op = r.op ∧ r'.tgt = r.tgt ∧
        (∀ n, r.dest = .node n → let class_ := 2 * n + if r.bulk then 1 else 0
          r'.remote = some (s.remoteSeq.get 0 class_) ∧ t.remoteSeq.get 0 class_ = s.remoteSeq.get 0 class_ + 1) ∧
        ∀ n, r.dest = .stack n → r'.arrived = some s.arrivals ∧ t.arrivals = s.arrivals + 1) ∧
      (∀ a, p.x = coreX c → p.y = coreY c → p.reply = true → r.phase = .done a →
        ∃ t, exec (.routerRound ⟨c, out⟩) s = .next t ∧ SameMemory s t ∧
          (t.core p.core).req? p.req = some { r with phase := .back a })) ∧
    (Wins s c out key p r → 1 < p.flits → ∃ t, exec (.routerRound ⟨c, out⟩) s = .next t ∧ SameMemory s t ∧
      ((t.core c).router.outs.get OutPort.reset (portNo out)).busy = p.flits - 1 ∧ queueAt t c key = queueAt s c key)

/-- R347, R443: at a stitch that is a multiple of 256, once, every packet in an input queue moves one link, to a neighbouring router, but where a
seam that retrains holds it; those that wait behind one port move by one link, with their VC and age; no request is answered and no memory written by it.
Which link is open (log 24). -/
def Sys2Proof.Claims.DrainMovesPackets : Prop :=
  ∀ s : State,
    (s.stitch.toNat % 256 = 0 → s.drains ≠ s.stitch.toNat → ∃ t, exec .periodicDrain s = .next t ∧ SameMemory s t ∧
      t.drains = s.stitch.toNat ∧ (∀ e, (t.core e).reqs = (s.core e).reqs) ∧
      ∃ link : Nat → Nat → Nat, ∀ c key, ∀ p ∈ queueAt s c key, link c (key / 4) < 4 ∧
        ∃ d port, neighbour c (link c (key / 4)) = some (d, port) ∧
          p ∈ if s.seamShut c (link c (key / 4)) || s.entryShut c key then queueAt t c key else queueAt t d (4 * port + key % 4)) ∧
    ((s.stitch.toNat % 256 ≠ 0 ∨ s.drains = s.stitch.toNat) → exec .periodicDrain s = .next s)

/-- R415, R418, R419: a request that has waited MEMTO ticks fails: its register fills poisoned with MEMTO, and the instruction or the unit
that waits for it has the trap as its reply; one refused at a domain's border is answered with DOMAIN, and a store that no instruction waits for makes
a report on c63; a remote request unanswered for 5,000 ticks is sent again, and nothing else changes.
That an awaited request is dropped is the model's choice among those of R415 (log 7). -/
def Sys2Proof.Claims.RequestsThatFail : Prop :=
  ∀ (s : State) (c id : Nat) (r : Req), (s.core c).req? id = some r →
    (((s.core c).memto = 0 ∨ r.age < (s.core c).memto.toNat) → exec (.memto ⟨c, id⟩) s = .next s) ∧
    ((s.core c).memto ≠ 0 → (s.core c).memto.toNat ≤ r.age → (r.phase = .sent ∨ r.phase = .home) → r.live = true →
      (∀ p, r.unit = some p → ∃ t q, exec (.memto ⟨c, id⟩) s = .next t ∧ SameMemory s t ∧ q ∈ (t.core c).portReqs p ∧
        q.phase = .back (Reply.fail r.memtoTrap) ∧ r.memtoTrap.cause = .memto ∧ r.memtoTrap.info1 = BitVec.ofNat 64 r.tgt.va) ∧
      (∀ d, r.unit = none → r.op = .load d false → d ≠ 0 → ((s.core c).slot r.slot).awaits id = false → ((s.core c).slot r.slot).spec = none →
        ∃ t e r', exec (.memto ⟨c, id⟩) s = .next t ∧ SameMemory s t ∧ (((t.core c).slot r.slot).cell d).empty = false ∧
          (((t.core c).slot r.slot).cell d).poison = some e ∧ e.cause = .memto ∧ e.info1 = BitVec.ofNat 64 r.tgt.va ∧
          (∀ q, q ≠ d → ((t.core c).slot r.slot).cell q = ((s.core c).slot r.slot).cell q) ∧
          (t.core c).req? id = some r' ∧ r'.live = false) ∧
      (r.unit = none → ((s.core c).slot r.slot).awaits id = true → ∃ t e, exec (.memto ⟨c, id⟩) s = .next t ∧ SameMemory s t ∧
        (t.core c).req? id = some { r with phase := .back (Reply.fail e) } ∧ e.cause = .memto ∧
        e.info1 = BitVec.ofNat 64 r.tgt.va)) ∧
    (∀ dom, s.refused c r = some dom → (r.phase = .sent ∨ r.phase = .home) →
      let e : Trap := ⟨.domain, 1, BitVec.ofNat 64 r.tgt.va, BitVec.ofNat 64 dom⟩
      ((∀ b, r.op ≠ .store b) → ∃ t, exec (.domainNack ⟨c, id⟩) s = .next t ∧ SameMemory s t ∧
        (t.core c).req? id = some { r with phase := .back (Reply.fail e) }) ∧
      (∀ b ix, r.op = .store b → r.slot < 16 → ((s.core c).slot r.slot).awaits id = false → (s.core c).heldReports = [] → (s.core c).freeFrec = some ix →
        ((s.core c).chan 63).valid = true → ∃ t f, exec (.domainNack ⟨c, id⟩) s = .next t ∧ SameMemory s t ∧
          (t.core c).req? id = some { r with phase := .back Reply.empty } ∧
          (t.core c).frecs.find? ix = some f ∧ f.cause = .domain ∧ f.info1 = BitVec.ofNat 64 r.tgt.va ∧
          f.info2 = BitVec.ofNat 64 dom ∧ (t.core c).chan 63 = ((s.core c).chan 63).post (f.msg ix)) ∧
      (∀ b, r.op = .store b → r.slot < 16 → ((s.core c).slot r.slot).awaits id = false → (s.core c).freeFrec = none → ∃ t f,
        exec (.domainNack ⟨c, id⟩) s = .next t ∧ SameMemory s t ∧ (t.core c).req? id = some { r with phase := .back Reply.empty } ∧
        (t.core c).heldReports = (s.core c).heldReports ++ [f] ∧ f.cause = .domain ∧ f.info1 = BitVec.ofNat 64 r.tgt.va)) ∧
    (s.refused c r = none → exec (.domainNack ⟨c, id⟩) s = .next s) ∧
    (r.remote.isSome = true → s.resendLimit ≤ r.resend → (∀ b, r.phase ≠ .back b) → ∃ t, exec (.retransmit ⟨c, id⟩) s = .next t ∧
      SameMemory s t ∧ (t.core c).req? id = some { r with resend := 0 } ∧ ∀ e, e ≠ c → t.core e = s.core e)

/-- R5, R49, R174, R175, R414, R444: the generator's heartbeat. STITCH goes on by 1 and TICK to the next multiple of eight; timers and timeouts count
the ticks between; cmap as it was written, and a level named for a stitch that has come, are in force; a region that moved starts its
watchdog again at the first of them. In HOLD the counters of requests and regions stand still, and the ticks of the HOLD are counted.
What HOLD pauses is the model's reading (log 10). -/
def Sys2Proof.Claims.StitchHeartbeat : Prop :=
  ∀ s : State, let n := 8 - s.tick.toNat % 8
    ∃ t, exec .stitch s = .next t ∧ SameMemory s t ∧ t.stitch = s.stitch + 1 ∧ t.tick = s.tick + BitVec.ofNat 64 n ∧ t.tick.toNat % 8 = 0 ∧
    (∀ c m, ((s.core c).chan m).valid = true → (t.core c).chan m = ((s.core c).chan m).tickTimer n) ∧
    (∀ c m x, (s.core c).conts.find? m = some x →
      (t.core c).conts.find? m = some { x with left := x.left.map fun w => w - n }) ∧
    (∀ m b, s.power = .hold m b → t.power = .hold (m + n) b ∧ ∀ c, (t.core c).reqs = (s.core c).reqs ∧
      (t.core c).regions = (s.core c).regions) ∧
    ((∀ m b, s.power ≠ .hold m b) → t.power = s.power ∧ t.cmapsNow = s.cmaps ∧
      (∀ g when_ level, (s.gangs.filter fun x => x.id == g.id) = [g] → g.change = some (when_, level) →
        when_.toNat ≤ (s.stitch + 1).toNat → ∀ c ∈ g.members, ∀ i, (s.core c).gangInfo? g.id = some i →
        (t.core c).gangInfo? g.id = some { i with level := level }) ∧
      (∀ c h g, (s.core c).regions.find? h = some g → g.run = .running → g.moving = false → s.frozen (some g.gang) = false →
        (s.core c).clasped h = false → g.moved = true → ∃ g', (t.core c).regions.find? h = some g' ∧ (g'.watch = 0 ∨ g'.watch = n - 1) ∧ g'.moved = false))

/-- R49: what `n` ticks do to a timer channel: it fires once for each time its period has run out. -/
def Sys2Proof.Claims.TimersFire : Prop :=
  ∀ (ch : Chan) (n : Nat), let period := ch.param.toNat % 2 ^ 32
    ch.valid = true → ch.src = 4 → 0 < period → 0 < ch.timerLeft → ch.timerLeft ≤ period →
    let t := ch.tickTimer n
    0 < t.timerLeft ∧ t.timerLeft ≤ period ∧
      t.elapsed * period + (period - t.timerLeft) = ch.elapsed * period + (period - ch.timerLeft) + n

/-- R349, R352, R348: once a stitch PERMITS and BUDGET come into force and the counters they fill are full again; a stitch in which a request was held
is counted, up to 65,535. -/
def Sys2Proof.Claims.RatesPerStitch : Prop :=
  ∀ (s : State) (c : Nat), let k := s.core c
    (k.refilled ≠ s.stitch.toNat → ∃ t, exec (.permitRefill ⟨c⟩) s = .next t ∧ SameMemory s t ∧ (t.core c).permitsNow = k.permits ∧
      (t.core c).mxLeft = (k.permits.extractLsb' 48 16).toNat ∧ (t.core c).refilled = s.stitch.toNat ∧
      (∀ h g, k.regions.find? h = some g → (t.core c).regions.find? h =
        some { g with fab := { g.fab with fabLeft := [], sfuLeft := [], memLeft := none } })) ∧
    (k.refilled = s.stitch.toNat → exec (.permitRefill ⟨c⟩) s = .next s) ∧
    (k.reloaded ≠ s.stitch.toNat → ∃ t, exec (.budgetReload ⟨c⟩) s = .next t ∧ SameMemory s t ∧ (t.core c).budgetNow = k.budget ∧
      (t.core c).budgetLeft = [] ∧ (t.core c).reloaded = s.stitch.toNat ∧ (t.core c).heldNow = false ∧
      (t.core c).budgetHeld.toNat = (if k.heldNow = true then min 65535 (k.budgetHeld.toNat + 1) else k.budgetHeld.toNat)) ∧
    (k.reloaded = s.stitch.toNat → exec (.budgetReload ⟨c⟩) s = .next s)

/-- R175, R440, R176, R177, R414: a gang whose level is not the greatest of its die's thermal levels, the power level and its floor is to change at a
later stitch (which one is free, log 2); a unit that has been idle at 65 boundaries, so through 64 whole stitches, powers off; a slice that may does, and its lines read
0; a region whose watchdog has reached the limit, with nothing moved or outstanding since, faults WATCHDOG, on c63. -/
def Obligations.ThrottlesAndGates : Prop :=
  ∀ (s : State) (c h : Nat) (id : GangId) (floor : Option Nat) (G : Gang) (u : GateUnit) (g : Region),
    (s.gangs.find? (fun x => x.id == id) = some G → ∃ t G', exec (.throttleChange ⟨id.launch, id.inst, floor⟩) s = .next t ∧
      SameMemory s t ∧ t.gangs.find? (fun x => x.id == id) = some G' ∧ G'.floor = min 7 (floor.getD G.floor) ∧
      G'.members = G.members ∧
      let want := s.throttleOf { G with floor := min 7 (floor.getD G.floor) }
      let level := (G.members.head?).elim 0 fun m => ((s.core m).gangInfo? id).elim 0 fun i => i.level
      (want = level → G'.change = none) ∧
      (want ≠ level → ∃ n < 2 ^ 16, G'.change = some (s.stitch + 1 + BitVec.ofNat 64 n, want))) ∧
    (s.throttleOf G ∈ (G.floor :: s.powerLevel :: G.members.map fun m => s.thermalLevel (dieOf m)).map (min 7) ∧ s.throttleOf G ≤ 7 ∧ (G.floor ≤ 7 → G.floor ≤ s.throttleOf G) ∧ (s.powerLevel ≤ 7 → s.powerLevel ≤ s.throttleOf G) ∧
      ∀ m ∈ G.members, s.thermalLevel (dieOf m) ≤ 7 → s.thermalLevel (dieOf m) ≤ s.throttleOf G) ∧
    (u ∉ (s.core c).gated → u ≠ .slice → s.isIdle c u = true →
      (65 ≤ (s.core c).idle.get 0 (gateKey u) → ∃ t, exec (.powerGate ⟨c, u⟩) s = .next t ∧ SameMemory s t ∧
        (t.core c).gated = (s.core c).gated ++ [u]) ∧
      ((s.core c).idle.get 0 (gateKey u) < 65 → exec (.powerGate ⟨c, u⟩) s = .next s)) ∧
    (.slice ∉ (s.core c).gated → (s.core c).sgate = true → (s.core c).regions = [] → s.sliceBusy c = false →
      ∃ t, exec (.powerGate ⟨c, .slice⟩) s = .next t ∧ .slice ∈ (t.core c).gated ∧
        (∀ a, 2 ^ 47 + c * 2 ^ 24 ≤ a → a < 2 ^ 47 + c * 2 ^ 24 + 2 ^ 24 → readByte t.mem a = 0) ∧
        (∀ a, (a < 2 ^ 47 + c * 2 ^ 24 ∨ 2 ^ 47 + c * 2 ^ 24 + 2 ^ 24 ≤ a) → readByte t.mem a = readByte s.mem a)) ∧
    (∀ ix, (s.core c).regions.find? h = some g → g.run = .running → g.moving = false → s.frozen (some g.gang) = false →
      (s.core c).clasped h = false → (s.core c).freeFrec = some ix → ((s.core c).chan 63).valid = true →
      (g.moved = false → s.awaiting c h g = false → (s.core c).wdog ≠ 0 → (s.core c).wdog.toNat ≤ g.watch → ∃ t f, exec (.watchdog ⟨c, h⟩) s = .next t ∧ SameMemory s t ∧
        (t.core c).regions.find? h = some { g with run := .faulted } ∧ (t.core c).frecs.find? ix = some f ∧ f.cause = .watchdog ∧
        f.subject = .region h ∧ f.info1 = BitVec.ofNat 64 g.watch ∧ (t.core c).chan 63 = ((s.core c).chan 63).post (f.msg ix)) ∧
      (((s.core c).wdog = 0 ∨ g.watch < (s.core c).wdog.toNat ∨ g.moved = true ∨ s.awaiting c h g = true) → exec (.watchdog ⟨c, h⟩) s = .next s))

namespace Sys2Proof.Claims

open Sys2Proof.Machine

/-- R428: the words of SAVE and what it reads: launch, instance and area; the word is privileged and does not speculate. -/
def SavesArea (s : State) (o : OpsDABC) (launch inst va : Word) : Prop :=
  Passes o.g s ∧ Holds s o.a launch ∧ Holds s o.b inst ∧ Holds s o.c va ∧ s.curSlot.priv = true ∧ s.curSlot.spec = none ∧ Free s o.d

/-- Gang `id` is halted for `job`. -/
def HaltedFor (t : State) (id : GangId) (job : SaveJob) : Prop := ∃ g ∈ t.gangs, g.id = id ∧ g.job = some job

/-- R424 to R426: what a save keeps of a gang on the core `k` whose own part of the gang is `info`: its tasks, channels, regions, continuation and fault
records, tiles, tokens, commands and SCFG loads, and the records, counters and clasps that it has marked. -/
structure KeptOf (k : Core) (g : GangId) (info : CoreGang) (m : MemberSave) : Prop where
  slots : m.slots = k.slots.filter fun e => e.2.gang == some g
  regions : m.regions = (k.regions.filter fun e => e.2.gang == g).map fun e => (e.1, { e.2 with moving := false, target := 0 })
  chans : (m.chans.map fun e => (e.1, e.2.entry, e.2.param, e.2.fifo.map fun x => x.g, e.2.held.map fun x => x.g)) =
    (k.chans.filter fun e => e.2.gang == some g).map fun e => (e.1, e.2.entry, e.2.param, e.2.fifo.map fun x => x.g, e.2.held.map fun x => x.g)
  conts : m.conts = k.conts.filter fun e => e.2.gang == some g
  frecs : m.frecs = k.frecs.filter fun e => e.2.gang == some g && e.2.subject != .report
  tiles : m.tiles = k.tiles.filter fun e => e.2.users.contains g
  tokens : (m.tokens.map fun t => (t.id, t.w0, t.w1, t.arec, t.brec, t.phase, t.resume)) =
    (k.mxq.filter fun t => t.gang == some g).map fun t => (t.id, t.w0, t.w1, t.arec, t.brec, t.phase, t.resume)
  commands : (m.xus.map fun e => (e.1, e.2.op, e.2.src, e.2.dst, e.2.progress, e.2.owed, e.2.sb)) =
    (k.xus.filter fun e => e.2.gang == some g).map fun e => (e.1, e.2.op, e.2.src, e.2.dst, e.2.progress, e.2.owed, e.2.sb)
  loads : m.scfgs = k.scfgs.filter fun e => e.2.gang == some g
  records : ∀ n < 256, info.marks.records.getLsbD n = true → (n, k.record n) ∈ m.records
  counters : ∀ n < 32, info.marks.counters.getLsbD n = true → (n, k.sb n) ∈ m.sbs
  clasps : ∀ n < 8, info.marks.clasps.getLsbD n = true → (n, k.clasp n) ∈ m.clasps
  settings : m.info = info

/-- The module as LOG_SEAL leaves it before it writes the area's header: the gang `G` is detached, its member slots are written. -/
def slotsWritten (s : State) (G : Gang) (job : SaveJob) : State :=
  let lists := G.members.zipIdx.map fun e => (e.1, e.2, s.savePages G job e.1 e.2)
  let ms := lists.filterMap fun e => ((s.core e.1).gangInfo? G.id).map fun i => (s.core e.1).saveMember e.1 G.id i (savedPages e.2.2)
  let t := ms.foldl (fun (t : State) m => (t.forget ((t.core m.core).portOf m.core G.id)).onCore m.core fun k => k.detach G.id m) s
  lists.foldl (fun (t : State) e =>
    (t.writeMember G job e.1 e.2.1 e.2.2).writeSlot (s.saveIssuer G job) (job.va + memberOff e.2.1) e.1 e.2.1 s.fresh e.2.2) t

/-- R432, R441: every resident gang has left, saved or lost, and its report is made. -/
def AllRescued (s t : State) : Prop := t.gangs = [] ∧ ∀ g ∈ s.gangs, .saved g.id ∈ t.reports ∨ .lost g.id ∈ t.reports

end Sys2Proof.Claims

/-- R428, R422: SAVE. Unprivileged it traps PRIV, an area off a page boundary ALIGN. gD gets 1 where no such gang is resident, 2 where it is being saved, 3
for the issuer's own gang, 4 for a malformed page list; else the gang halts at this instruction and the word stalls until its seal, and
then gD gets 0.
What the model keeps of an area is deduced (log 9). -/
def Sys2Proof.Claims.SaveResults : Prop :=
  ∀ (s : State) (o : OpsDABC) (launch inst va : Word) (G : Gang),
    let id : GangId := ⟨launch.toNat, inst.toNat % 2 ^ 24⟩
    let resident := s.gangs.find? (fun g => g.id == id && g.dom == s.curCore.domain.toNat)
    (Passes o.g s → Holds s o.a launch → Holds s o.b inst → Holds s o.c va → s.curSlot.priv = false →
      Traps (exec (.save o) s) s .priv 0 (wordOfInstr (.save o))) ∧
    (SavesArea s o launch inst va → s.curSlot.prog = .idle →
      (va.toNat % 2 ^ 16 ≠ 0 → Traps (exec (.save o) s) s .align 0 va) ∧
      (va.toNat % 2 ^ 16 = 0 →
        (resident = none → WroteReg (exec (.save o) s) s o.d 1) ∧
        (resident = some G → G.job.isSome = true → WroteReg (exec (.save o) s) s o.d 2) ∧
        (resident = some G → G.job = none → s.curSlot.gang = some id → WroteReg (exec (.save o) s) s o.d 3) ∧
        (resident = some G → G.job = none → s.curSlot.gang ≠ some id →
          (∀ e, s.areaCheck s.cloakIssuer va.toNat G.members.length = .error e → exec (.save o) s = .next (s.takeTrap e)) ∧
          (∀ key, s.areaCheck s.cloakIssuer va.toNat G.members.length = .ok () → s.areaKey s.cloakIssuer va.toNat = .ok key →
            ((∃ e ∈ G.members.zipIdx, s.pageList s.cloakIssuer (va.toNat + memberOff e.2) e.1 G.dom = none) →
              WroteReg (exec (.save o) s) s o.d 4) ∧
            ((∀ e ∈ G.members.zipIdx, s.pageList s.cloakIssuer (va.toNat + memberOff e.2) e.1 G.dom ≠ none) →
              ∃ t, exec (.save o) s = .next t ∧ t.stalled = true ∧ SameMemory s t ∧ t.curSlot.prog = .saving id ∧
                t.curSlot.pc = s.curSlot.pc ∧ t.frozen (some id) = true ∧
                HaltedFor t id ⟨0, va.toNat, key, s.cur.core, s.cur.slot⟩))))) ∧
    (SavesArea s o launch inst va → s.curSlot.prog = .saving G.id →
      (s.gangs.find? (fun g => g.id == G.id) = some G → G.job.isSome = true → Stalls (exec (.save o) s) s) ∧
      (s.gangs.find? (fun g => g.id == G.id) = none → WroteReg (exec (.save o) s) s o.d 0)) ∧
    (SavesArea s o launch inst va → s.curSlot.prog = .sealed → WroteReg (exec (.save o) s) s o.d 0)

/-- R424 to R426, R428, R430, Table 21-3: when no logged access of a halted gang is still to be waited for, LOG_SEAL frees the gang's tasks, channels,
regions, commands and tokens on every member and keeps them with its records, counters and clasps as a save; until then what its units have begun
sets out and nothing else changes.
The header that it writes at the area's first byte, as translations then stand, holds what Table 21-3 lists, and the slot that waits in SAVE is
told. What the model keeps of an area, and where, is deduced (logs 9 and 36). -/
def Sys2Proof.Claims.SealsLogs : Prop :=
  ∀ (s : State) (G : Gang) (job : SaveJob), s.gangs.find? (fun g => g.id == G.id) = some G → G.job = some job →
    (s.sealable G = false → ∃ t, exec (.logSeal ⟨G.id.launch, G.id.inst⟩) s = .next t ∧ SameMemory s t ∧ t.gangs = s.gangs ∧ t.saves = s.saves ∧
      ∀ c n, { (t.core c).slot n with spec := none } = { (s.core c).slot n with spec := none }) ∧
    (s.sealable G = true → G.members.Nodup → ∃ t ms, exec (.logSeal ⟨G.id.launch, G.id.inst⟩) s = .next t ∧ (∀ x ∈ t.gangs, x.id ≠ G.id) ∧
      ⟨{ G with job := none }, job.why, job.key, job.va, ms, s.fresh⟩ ∈ t.saves ∧ ms.length ≤ G.members.length ∧
      (∀ c ∈ G.members, ∀ info, (s.core c).gangInfo? G.id = some info →
        (∃ m ∈ ms, m.core = c ∧ KeptOf (s.core c) G.id info m) ∧
        (∀ n, ((t.core c).slot n).gang ≠ some G.id) ∧ (∀ n, ((t.core c).chan n).gang ≠ some G.id) ∧
        (∀ e ∈ (t.core c).regions, e.2.gang ≠ G.id) ∧ (∀ e ∈ (t.core c).xus, e.2.gang ≠ some G.id) ∧
        (∀ x ∈ (t.core c).mxq, x.gang ≠ some G.id) ∧ (∀ e ∈ (t.core c).conts, e.2.gang ≠ some G.id) ∧
        (∀ e ∈ (t.core c).scfgs, e.2.gang ≠ some G.id)) ∧
      (∀ c, c ∉ G.members → c ≠ job.core → t.core c = s.core c) ∧
      (job.core ∉ G.members → ((s.core job.core).slot job.slot).prog = .saving G.id →
        (t.core job.core).slot job.slot = { (s.core job.core).slot job.slot with prog := .sealed }) ∧
      (∀ key c rest info, (slotsWritten s G job).areaKey (s.saveIssuer G job) job.va = .ok key → G.members = c :: rest →
        (s.core c).gangInfo? G.id = some info → s.areaHeader G job info.level < 2 ^ 512 →
        t.load key 64 = s.areaHeader G job info.level)) ∧
    (∀ level, G.id.launch < 2 ^ 64 → G.id.inst < 2 ^ 24 → 0 < G.members.length → G.members.length ≤ 512 → level < 8 → G.dom < 16 → job.why < 4 →
      let h := s.areaHeader G job level
      bits h 0 0 = 1 ∧ bits h 2 1 = job.why ∧ bits h 127 64 = s.stitch.toNat ∧ bits h 143 140 = G.dom ∧ bits h 146 144 = level ∧
        bits h 155 147 + 1 = G.members.length ∧ bits h 191 168 = G.id.inst ∧ bits h 255 192 = G.id.launch)

/-- R428, R429: RESTORE. Unprivileged it traps PRIV, an area off a page boundary ALIGN. gD gets 1 for an area not valid or of another domain, 3 when the
launch is no more; where every member finds its place the gang stands on its cores again under its own id, no save of it is left, and gD
gets 0; until the accesses to the pages that move are performed the word stalls.
That RESTORE is one step is the model's (log 9). -/
def Sys2Proof.Claims.RestoreResults : Prop :=
  ∀ (s u : State) (o : OpsDA) (va : Word) (key : Nat), Passes o.g s → Holds s o.a va →
    let h := s.load key 64
    (s.curSlot.priv = false → Traps (exec (.restore o) s) s .priv 0 (wordOfInstr (.restore o))) ∧
    (s.curSlot.priv = true → s.curSlot.spec = none → Free s o.d →
      (va.toNat % 2 ^ 16 ≠ 0 → Traps (exec (.restore o) s) s .align 0 va) ∧
      (va.toNat % 2 ^ 16 = 0 → s.areaKey s.cloakIssuer va.toNat = .ok key →
        ((h % 2 = 0 ∨ bits h 143 140 ≠ s.curCore.domain.toNat) → WroteReg (exec (.restore o) s) s o.d 1) ∧
        (h % 2 = 1 → bits h 143 140 = s.curCore.domain.toNat → (∀ l ∈ s.launches, l.id ≠ bits h 255 192) →
          WroteReg (exec (.restore o) s) s o.d 3) ∧
        (h % 2 = 1 → bits h 143 140 = s.curCore.domain.toNat → (∃ l ∈ s.launches, l.id = bits h 255 192) →
          (∀ v ∈ s.saves, v.key = key → v.gang.id ≠ ⟨bits h 255 192, bits h 191 168⟩) → WroteReg (exec (.restore o) s) s o.d 4) ∧
        (s.restoreArea s.cloakIssuer va.toNat = .status 2 → WroteReg (exec (.restore o) s) s o.d 2) ∧
        (s.restoreArea s.cloakIssuer va.toNat = .waits → Stalls (exec (.restore o) s) s) ∧
        (s.restoreArea s.cloakIssuer va.toNat = .resumed u → ∃ t, exec (.restore o) s = .next t ∧ SameMemory u t ∧
          t.gangs = u.gangs ∧ t.saves = u.saves ∧ t.curSlot.cell o.d = (if o.d = 0 then RegCell.zero else ⟨0, false, none⟩) ∧
          ∀ c, c ≠ u.cur.core → t.core c = u.core c))) ∧
    (∀ (i : Issuer) (a : Nat), s.restoreArea i a = .resumed u → (∀ v ∈ s.saves, ∀ m ∈ v.members, m.frecs = [] ∧ m.posts = []) →
      ∃ v ∈ s.saves, ∃ G ∈ u.gangs, G = { v.gang with members := G.members, placedAt := G.placedAt } ∧
        G.members.length = v.members.length ∧ G.members.Nodup ∧ G.placedAt = s.stitch ∧ (∀ x ∈ u.saves, x.gang.id ≠ v.gang.id) ∧
        u.launches = s.launches)

/-- R421, R432: the management plane's request, and the scheduler's where its domain enables it and an eligible queue cannot place its head, halt a gang for
a save into the pool; with no free area they change nothing. The scheduler puts back a gang that it saved when its cores are free. After
20 ms of HOLD every resident gang is saved or lost, with a report. Which of several gangs the scheduler takes is free (log 2).
The area taken is the first free one (log 9). -/
def Sys2Proof.Claims.Preemption : Prop :=
  ∀ (s u : State) (id : GangId) (G : Gang) (l : Launch) (q n : Nat) (e : Nat × Nat) (v : Saved),
    (s.gangs.find? (fun g => g.id == id) = some G → G.job = none →
      (s.freeArea G.dom G.members.length = some e → ∃ t, exec (.mgmtPreempt ⟨id.launch, id.inst⟩) s = .next t ∧ SameMemory s t ∧
        HaltedFor t id ⟨2, e.1, e.2, 0, 0⟩) ∧
      (s.freeArea G.dom G.members.length = none → exec (.mgmtPreempt ⟨id.launch, id.inst⟩) s = .next s)) ∧
    (s.eligibleQueue q = true → s.decision = none → s.headLaunch q = some l →
      let prio := min (s.queue q).prio.toNat (lrPrio l.record)
      ((s.slices l.dom).enabled = false → exec (.schedulerPreempt ⟨q⟩) s = .next s) ∧
      ((s.slices l.dom).enabled = true → (s.tryPlace l (Decision.fresh [] [])).isFailed = true →
        (∃ g ∈ s.gangs, g.dom = l.dom ∧ s.preemptible prio g = true) →
        (∀ g ∈ s.gangs, (s.freeArea g.dom g.members.length).isSome = true) →
        ∃ t, ∃ g ∈ s.gangs, exec (.schedulerPreempt ⟨q⟩) s = .next t ∧ SameMemory s t ∧ g.dom = l.dom ∧ g.prio < prio ∧
          (s.slices l.dom).slice < (s.stitch - g.placedAt).toNat ∧ ∃ job, HaltedFor t g.id job ∧ job.why = 1)) ∧
    (s.saves.find? (fun v => v.gang.id == id && v.why == 1) = some v →
      ((∀ m ∈ v.members, (s.core m.core).gangs = []) → s.restoreArea (s.hemIssuer 0 v.gang.dom) v.va = .resumed u →
        exec (.schedulerRestore ⟨id.launch, id.inst⟩) s = .next u) ∧
      ((∃ m ∈ v.members, (s.core m.core).gangs ≠ []) → exec (.schedulerRestore ⟨id.launch, id.inst⟩) s = .next s)) ∧
    (s.power = .hold n false → (n < 2000000 → exec .emergencySave s = .next s) ∧
      (2000000 ≤ n → ∃ t, exec .emergencySave s = .next t ∧ t.power = .hold n true ∧ AllRescued s t)) ∧
    (s.power = .on ∨ s.power = .hold n true → exec .emergencySave s = .next s)

namespace Sys2Proof.Claims

open Sys2Proof.Machine

/-- The module is as before but for what the management plane records. -/
def Recorded (s t : State) : Prop :=
  SameMemory s t ∧ t.cores = s.cores ∧ t.queues = s.queues ∧ t.gangs = s.gangs ∧ t.launches = s.launches ∧ t.saves = s.saves ∧
    t.stitch = s.stitch

/-- R439, R441: a trip: every resident gang has been saved or lost, every rail is off, and the host is told which die tripped. -/
def Tripped (s t : State) (die : Nat) : Prop := t.power = .off ∧ (∀ n, t.rails.get 0 n = 0) ∧ AllRescued s t ∧ .tripped die ∈ t.reports

end Sys2Proof.Claims

/-- R419, R420: while a link retrains its traffic is held; then it goes on, and a failure is a repair of a seam's lanes or makes a node unreachable, as
the loss of a node does: each core with requests outstanding to the node has one LINK report with the node's number, on c63. -/
def Sys2Proof.Claims.LinksAndNodes : Prop :=
  ∀ (s : State) (n link : Nat),
    (∃ t, exec (.linkRetrain ⟨link⟩) s = .next t ∧ Recorded s t ∧ ∀ x, x ∈ t.retraining ↔ x = link ∨ x ∈ s.retraining) ∧
    (link ∈ s.retraining → ∃ t, exec (.retrainingComplete ⟨link, true, n⟩) s = .next t ∧ Recorded s t ∧
      ∀ x, x ∈ t.retraining ↔ x ≠ link ∧ x ∈ s.retraining) ∧
    (link ∈ s.retraining → link < 26 → ∃ t, exec (.retrainingComplete ⟨link, false, n⟩) s = .next t ∧ Recorded s t ∧
      t.repaired.get 0 link = s.repaired.get 0 link + 1 ∧ link ∉ t.retraining) ∧
    (26 ≤ link → link ∈ s.retraining → ∃ t, exec (.retrainingComplete ⟨link, false, n⟩) s = .next t ∧ SameMemory s t ∧
      n ∈ t.unreachable ∧ link ∉ t.retraining) ∧
    (link ∉ s.retraining → ∀ ok, exec (.retrainingComplete ⟨link, ok, n⟩) s = .next s) ∧
    (n ∈ s.unreachable → exec (.nodeUnreachable ⟨n⟩) s = .next s) ∧
    (n ∉ s.unreachable → ∃ t, exec (.nodeUnreachable ⟨n⟩) s = .next t ∧ SameMemory s t ∧ t.unreachable = s.unreachable ++ [n] ∧
      ((s.cores.map fun e => e.1).Nodup → ∀ c k ix r, (c, k) ∈ s.cores → r ∈ k.reqs → r.dest = .node n → (∀ b, r.phase ≠ .back b) →
        k.heldReports = [] → k.freeFrec = some ix → (k.chan 63).valid = true → ∃ f, (t.core c).frecs.find? ix = some f ∧ f.cause = .link ∧
          f.subject = .report ∧ f.info1 = BitVec.ofNat 64 n ∧ (t.core c).chan 63 = (k.chan 63).post (f.msg ix)))

/-- R417, R312, Table 20-8: a word that the patrol scrub finds clean is left; one with a single-bit error is corrected and counted for its die; one that
cannot be corrected is poisoned, in memory, in a tile, in a frame bank or in an image, and its bytes are as they were; a line of the instruction buffer
is dropped, to be fetched again. A tile's check copy counts as its element (log 37). -/
def Sys2Proof.Claims.ScrubPoisons : Prop :=
  ∀ (s : State) (w : ScrubWord) (c : Nat),
    exec (.patrolScrub ⟨w, .clean⟩) s = .next s ∧
    exec (.patrolScrub ⟨w, .corrected⟩) s = .next { s with corrected := s.corrected.upd 0 (ScrubWord.die w) fun n => n + 1 } ∧
    (∀ n e, w = .tile c n e → (ScrubWord.die w) = dieOf c) ∧
    (∃ t, exec (.patrolScrub ⟨w, .uncorrectable⟩) s = .next t ∧ SameMemory s t ∧ t.corrected = s.corrected ∧
      (∀ pa, w = .memory pa → pa / 8 ∈ t.poisoned ∧ (∀ x ∈ s.poisoned, x ∈ t.poisoned) ∧ t.cores = s.cores) ∧
      (∀ n e, w = .tile c n e → e ∈ ((t.core c).tile n).poisoned ∧ ∀ m, m ≠ n → (t.core c).tile m = (s.core c).tile m) ∧
      (∀ n e, w = .check c n e → ((s.core c).tile n).check.isSome = true → e ∈ ((t.core c).tile n).poisoned) ∧
      (∀ p ix h g b, w = .frame c p false ix → (s.core c).regions.find? h = some g → g.base ≤ p → p < g.base + g.len →
        g.active.find? (p - g.base) = some b → ix < b.frames.length → ∃ g' b', (t.core c).regions.find? h = some g' ∧
          g'.active.find? (p - g.base) = some b' ∧ ix ∈ b'.poisoned ∧ b'.frames = b.frames) ∧
      (∀ dom line, w = .line c dom line → (∀ l ∈ (t.core c).ibuf, l.dom = dom → l.line ≠ line) ∧
        ∀ l ∈ (s.core c).ibuf, l.dom ≠ dom ∨ l.line ≠ line → l ∈ (t.core c).ibuf) ∧
      (∀ dom page, w = .store c dom page → ∀ m ∈ (t.core c).store, m.dom = dom → m.page = page → m.poisoned = true))

/-- R444, R445: the input falls below 40 V: HOLD; it recovers: work resumes; it is lost in HOLD: the module is off. -/
def Sys2Proof.Claims.SupplyEvents : Prop :=
  ∀ (s : State) (n : Nat) (b : Bool),
    (s.power = .on → exec .holdEntry s = .next { s with power := .hold 0 false } ∧ exec .holdRecovery s = .next s ∧
      exec .powerLoss s = .next s) ∧
    (s.power = .hold n b → exec .holdEntry s = .next s ∧ exec .holdRecovery s = .next { s with power := .on } ∧
      exec .powerLoss s = .next { s with power := .off })

/-- R438: PERMITS and BUDGET of a core as the management plane writes them of itself. R438 to R442, R34, Table 23-1: the power level of each window of 1 ms, and the trip after two windows above 12 kW or ten above 10 kW; a die's thermal
level with its hysteresis, changed at most once in 200 µs, and the trip at 115 °C; a rail set in 5 mV steps from 0.50 V to 0.90 V.
A setting out of range is ignored (log 40). -/
def Sys2Proof.Claims.PowerAndHeat : Prop :=
  ∀ (s : State) (w die rail mv : Nat) (deci : Int),
    let over10 := if 10000 < w then s.over10 + 1 else 0
    let over12 := if 12000 < w then s.over12 + 1 else 0
    let level := (s.thermal.get ⟨0, none⟩ die).level
    (over12 < 2 → over10 < 10 → ∃ t, exec (.powerWindow ⟨w⟩) s = .next t ∧ Recorded s t ∧ t.power = s.power ∧ t.over10 = over10 ∧
      t.over12 = over12 ∧ (12000 < w → t.powerLevel = 7) ∧ (10000 < w → w ≤ 12000 → t.powerLevel = min 7 (s.powerLevel + 1)) ∧
      (9500 ≤ w → w ≤ 10000 → t.powerLevel = s.powerLevel) ∧ (w < 9500 → t.powerLevel = s.powerLevel - 1)) ∧
    ((2 ≤ over12 ∨ 10 ≤ over10) → ∃ t, exec (.powerWindow ⟨w⟩) s = .next t ∧ Tripped s t 16) ∧
    (∃ t, exec (.thermalChange ⟨die, deci⟩) s = .next t ∧ Recorded s t ∧
      ((∀ x, (s.thermal.get ⟨0, none⟩ die).since = some x → 20000 ≤ (s.tick - x).toNat) →
        let new := (t.thermal.get ⟨0, none⟩ die).level
        (1050 ≤ deci → new = 7) ∧ (deci ≤ 920 → new = 0) ∧
        (920 < deci → deci < 1050 → level = 7 → new = if deci ≤ 1020 then 1 else 7) ∧
        (920 < deci → deci < 950 → level ≠ 7 → new = level) ∧ (950 ≤ deci → deci < 1050 → level ≠ 7 → new = 1)) ∧
      (∀ x, (s.thermal.get ⟨0, none⟩ die).since = some x → (s.tick - x).toNat < 20000 → t = s) ∧
      ∀ d, d ≠ die → t.thermal.get ⟨0, none⟩ d = s.thermal.get ⟨0, none⟩ d) ∧
    (1150 ≤ deci → ∃ t, exec (.thermalTrip ⟨die, deci⟩) s = .next t ∧ Tripped s t die) ∧
    (deci < 1150 → exec (.thermalTrip ⟨die, deci⟩) s = .next s) ∧
    (500 ≤ mv → mv ≤ 900 → mv % 5 = 0 → ∃ t, exec (.railSet ⟨die, rail, mv⟩) s = .next t ∧ Recorded s t ∧
      t.rails.get 0 (8 * die + rail) = mv ∧ ∀ x, x ≠ 8 * die + rail → t.rails.get 0 x = s.rails.get 0 x) ∧
    ((mv < 500 ∨ 900 < mv ∨ mv % 5 ≠ 0) → exec (.railSet ⟨die, rail, mv⟩) s = .next s) ∧
    ∀ c v rest, s.power = .on → coreOk c = true →
      (s.agenda = .manage (.permits c v) :: rest → ∃ t, step s = .next t ∧ SameMemory s t ∧ t.agenda = rest ∧ (t.core c).permits = v ∧
        (t.core c).budget = (s.core c).budget ∧ ∀ x, x ≠ c → t.core x = s.core x) ∧
      (s.agenda = .manage (.budget c v) :: rest → ∃ t, step s = .next t ∧ SameMemory s t ∧ t.agenda = rest ∧ (t.core c).budget = v.setWidth 32 ∧
        (t.core c).budgetHeld = 0 ∧ (t.core c).permits = (s.core c).permits ∧ ∀ x, x ≠ c → t.core x = s.core x)

/-- R35, R445, R446, R46, R453: cold reset. Unless every firmware image is signed under the vendor's key nothing is brought up. Else STITCH is 0, no gang
is left, every core has the number and table base of its domain, c62 and c63 of every core are bound to privileged handlers, and the
measurement is that of the firmware image and the later boot stages in order (R453). Memory that kept its power keeps what no table overwrites, and
with it the saves and their launches (the model's choice, log 38). -/
def Sys2Proof.Claims.ColdResetResults : Prop :=
  ∀ (s : State) (o : BringUp), ∃ t, exec (.coldReset o) s = .next t ∧ t.power = .on ∧ t.stitch = 0 ∧ t.tick = 0 ∧ t.gangs = [] ∧
    t.tlb = [] ∧ .firmware (bootImage o).isSome ∈ t.reports ∧
    t.saves = (if o.kept then s.saves else []) ∧ t.launches = (if o.kept then s.launches.filterMap s.survivor else []) ∧
    t.repaired = s.repaired ∧ (s.shockSinceTest = false → t.test = s.test ∧ t.shocks = s.shocks ∧ ∀ c < 384, (t.core c).withheld = (s.core c).withheld) ∧
    (∀ a, (∀ d ∈ o.domains, ∀ e ∈ d.tables, e.1 ≠ a) → readByte t.mem a = if s.survives o a then readByte s.mem a else readByte [] a) ∧
    (bootImage o = none → t.opened = false ∧ (∀ c, t.core c = { Core.reset with withheld := (s.core c).withheld }) ∧ t.queues = [] ∧
      ∀ a, readByte t.mem a = if s.survives o a then readByte s.mem a else readByte [] a) ∧
    (∀ image, bootImage o = some image → t.opened = true ∧
      t.meas = measure (image :: o.management.image :: o.cloak :: o.hems.map fun x => x.image) ∧ t.resendLimit = o.resend.getD 5000 ∧ t.node = o.node ∧
      (∃ x ∈ [o.firmware, o.h1Firmware], x.image = image ∧ edVerify Config.firmwareKey.toList (shake256 64 x.image) x.sig = true) ∧
      (∀ x ∈ o.management :: o.hems, edVerify Config.firmwareKey.toList (shake256 64 x.image) x.sig = true) ∧
      (∀ c < 384, ∀ d, o.domains.find? (fun d => d.cores.contains c) = some d → (t.core c).domain = BitVec.ofNat 4 d.dom ∧
        (t.core c).ptbase = BitVec.ofNat 64 (d.base / 2 ^ 16 * 2 ^ 16 + 1)) ∧
      (∀ c < 384, (∀ d ∈ o.domains, c ∉ d.cores) → (t.core c).domain = BitVec.ofNat 4 o.unassigned ∧ (t.core c).ptbase = 0) ∧
      (∀ c < 384, ∀ h, h = (o.handlers.find? c).getD o.handler → ((t.core c).chan 63).valid = true ∧ ((t.core c).chan 63).priv = true ∧
        ((t.core c).chan 63).src = 6 ∧ ((t.core c).chan 63).entry = BitVec.ofNat 49 (h.entry63 / 8) ∧
        ((t.core c).chan 62).valid = true ∧ ((t.core c).chan 62).priv = true ∧
        ((t.core c).chan 62).entry = BitVec.ofNat 49 (h.entry62 / 8)) ∧
      ∀ c < 384, (t.core c).wdog = 0x2710 ∧ (t.core c).memto = 0xF4240 ∧ ∀ n, ((t.core c).slot n).status = .free)

/-- R447: opening a domain builds its tables, sets its table register at the hem dies and its COMMAND queue (R156), and reports to its host where the
tables are mapped; a plan whose tables do not map step 2's pages opens nothing (the model's choice, log 38). A cold reset opens the domains of the plan
in order; the table base of a domain that the management plane changes later holds at once on its cores and at the hem dies, and no
translation of the domain is left. -/
def Sys2Proof.Claims.DomainsOpen : Prop :=
  ∀ (s : State) (d : DomainPlan),
    (let built : State := { s with mem := d.tables.foldl (fun m e => writeByte m e.1 e.2) s.mem };
      (built.planOk d = false → s.openDomain d = s) ∧
      (built.planOk d = true → let t := s.openDomain d;
        t.mem = built.mem ∧ t.tables.get 0 d.dom = BitVec.ofNat 64 (d.base / 2 ^ 16 * 2 ^ 16 + 1) ∧
        (∀ e, e ≠ d.dom → t.tables.get 0 e = s.tables.get 0 e ∧ t.queue e = s.queue e) ∧
        (t.queue d.dom).type = 2 ∧ (t.queue d.dom).dom = BitVec.ofNat 4 d.dom ∧ (t.queue d.dom).ring = (queueOf d.command.toNat).ring ∧
        (t.queue d.dom).ctl = (queueOf d.command.toNat).ctl ∧ .tables d.dom d.tableVa ∈ t.reports ∧ t.cores = s.cores ∧ t.gangs = s.gangs)) ∧
    (∀ (o : BringUp) image before after, bootImage o = some image → o.domains = before ++ d :: after → (∀ e ∈ before ++ after, e.dom ≠ d.dom) →
      let r := before.foldl State.openDomain (s.setUp o image)
      ∃ t, exec (.coldReset o) s = .next t ∧ t.queue d.dom = (r.openDomain d).queue d.dom ∧
        t.tables.get 0 d.dom = (r.openDomain d).tables.get 0 d.dom ∧ ∀ x ∈ (r.openDomain d).reports, x ∈ t.reports) ∧
    ∀ dom base rest, s.power = .on → s.agenda = .manage (.tables dom base) :: rest → dom < 16 →
      ∃ t, step s = .next t ∧ SameMemory s t ∧ t.agenda = rest ∧ t.tables.get 0 dom = BitVec.ofNat 64 (base / 2 ^ 16 * 2 ^ 16 + 1) ∧
        (∀ e, e ≠ dom → t.tables.get 0 e = s.tables.get 0 e) ∧ (∀ e ∈ t.tlb, e.dom ≠ dom) ∧
        (∀ c k, (c, k) ∈ t.cores → k.domain.toNat = dom → k.ptbase = BitVec.ofNat 64 (base / 2 ^ 16 * 2 ^ 16 + 1) ∧ k.tlb = []) ∧
        ∀ c, (s.core c).domain.toNat ≠ dom → (t.core c).ptbase = (s.core c).ptbase

/-- R448, R449, R452: warm reset ends every gang uncounted and returns every core to its reset values but for DOMAIN and PTBASE, STITCH and TICK; H1 takes
the generator over at its own count; a shock above 50 g is counted.
What a warm reset keeps beyond the registers that R448 names, and the ticks of a takeover, are deduced (logs 20, 10 and 6). -/
def Sys2Proof.Claims.ResetsAndTakeover : Prop :=
  ∀ (s : State) (ticks hem accel : Nat),
    (∃ t, exec .warmReset s = .next t ∧ SameMemory s t ∧ t.stitch = s.stitch ∧ t.tick = s.tick ∧ t.gangs = [] ∧ t.queues = s.queues ∧
      t.saves = s.saves ∧ (∀ g ∈ s.gangs, (∀ v ∈ s.saves, v.gang.id.launch ≠ g.id.launch) →
        ∀ l ∈ t.launches, l.id = g.id.launch → l.placed = false ∧ l.uncounted = true) ∧
      ∀ c, (t.core c).domain = (s.core c).domain ∧ (t.core c).ptbase = (s.core c).ptbase ∧ (t.core c).permits = 0 ∧
        (t.core c).budget = 0 ∧ (t.core c).wdog = 0x2710 ∧ (t.core c).memto = 0xF4240 ∧ (t.core c).regions = [] ∧
        (t.core c).sgate = false ∧ .slice ∉ (t.core c).gated ∧ (t.core c).frecs = [] ∧ (t.core c).conts = [] ∧ (t.core c).mxq = [] ∧ (t.core c).xus = [] ∧
        (∀ n, ((t.core c).slot n).status = .free) ∧ (∀ n, (t.core c).record n = 0) ∧ (∀ n < 64, ((t.core c).chan n).valid = false) ∧
        ∀ r ∈ (t.core c).reqs, r.live = false) ∧
    (s.h1 = false → s.stitch.toNat < ticks / 8 + 1 → ticks / 8 + 1 < 2 ^ 61 →
      s.tick.toNat ≤ 8 * (ticks / 8 + 1) → ∃ t, exec (.h1Takeover ⟨ticks⟩) s = .next t ∧
      SameMemory s t ∧ t.h1 = true ∧ t.stitch = BitVec.ofNat 64 (ticks / 8 + 1) ∧ t.tick.toNat = 8 * (ticks / 8 + 1) ∧
      ((∀ m b, s.power ≠ .hold m b) → t.power = s.power) ∧ .takeover ∈ t.reports) ∧
    (50 < accel → exec (.shockEvent ⟨hem, accel⟩) s = .next { s with shocks := s.shocks + 1, shockSinceTest := true }) ∧
    (accel ≤ 50 → exec (.shockEvent ⟨hem, accel⟩) s = .next s)

/-! ### Statements of several parts -/

/-- The decoder answers a well-formed instruction whose words are the word read, and refuses every other word. Each part names its rules. -/
def Obligations.DecodingIsExact : Prop :=
  Claims.DecodeEncode ∧ Claims.RefusedWords

/-- What reset leaves; its memory is in canonical form. Each part names its rules. -/
def Obligations.ResetState : Prop :=
  Claims.ResetValues ∧ Claims.ResetMemoryOk

/-- Counting words and field words. Each part names its rules. -/
def Obligations.BitFields : Prop :=
  Claims.BitCounts ∧ Claims.FieldResults

/-- Words with an immediate, MAD and SEL. Each part names its rules. -/
def Obligations.ImmediatesAndSelects : Prop :=
  Claims.ImmediateResults ∧ Claims.MadSelResults

/-- Compares and predicate words. Each part names its rules. -/
def Obligations.ComparesAndPredicates : Prop :=
  Claims.CompareResults ∧ Claims.PredicateResults

/-- Branches, jumps, loops, and where the pc goes. Each part names its rules. -/
def Obligations.ControlFlow : Prop :=
  Claims.TransferResults ∧ Claims.LoopResults ∧ Claims.EndProcessing

/-- END, SEND and WAIT. Each part names its rules. -/
def Obligations.TasksAndMessages : Prop :=
  Claims.EndResults ∧ Claims.SendResults ∧ Claims.WaitResults

/-- POP and PUSH. Each part names its rules. -/
def Obligations.QueueWords : Prop :=
  Claims.PopResults ∧ Claims.PushResults

/-- Dispatch, and a continuation that is posted. Each part names its rules. -/
def Obligations.DispatchAndPost : Prop :=
  Claims.DispatchResults ∧ Claims.ContinuationResults

/-- An access through a record. Each part names its rules. -/
def Obligations.AddressAndBounds : Prop :=
  Claims.AccessAddress ∧ Claims.BoundsModes

/-- Loads, stores and record words. Each part names its rules. -/
def Obligations.LoadsStoresRecords : Prop :=
  Claims.LoadsIssue ∧ Claims.StoresIssue ∧ Claims.RecordWords

/-- Atomics at issue, and their values. Each part names its rules. -/
def Obligations.Atomics : Prop :=
  Claims.AtomicsIssue ∧ Claims.AtomicValues

/-- Fences, and barrier words at issue. Each part names its rules. -/
def Obligations.FencesAndBarrierWords : Prop :=
  Claims.FenceResults ∧ Claims.BarrierIssue

/-- Barrier words at their home, and a phase that completes. Each part names its rules. -/
def Obligations.BarriersAtHome : Prop :=
  Claims.BarrierAtHome ∧ Claims.PhaseCompletion

/-- MFS and MTS. Each part names its rules. -/
def Obligations.SpecialRegisters : Prop :=
  Claims.MfsResults ∧ Claims.MtsResults

/-- Clasps and channel bindings. Each part names its rules. -/
def Obligations.BindingsAndClasps : Prop :=
  Claims.ClaspResults ∧ Claims.BindingResults

/-- ERET, TLBINV and SBAR. Each part names its rules. -/
def Obligations.ReturnsAndInvalidations : Prop :=
  Claims.EretResults ∧ Claims.ResolvesUnits ∧ Claims.TlbinvSbarResults

/-- Commands of the transfer unit. Each part names its rules. -/
def Obligations.TransferCommands : Prop :=
  Claims.CommandsIssue ∧ Claims.SectorWrite ∧ Claims.CommandsComplete

/-- A configuration step, and the loads of its frames. Each part names its rules. -/
def Obligations.ConfigurationSteps : Prop :=
  Claims.ConfigStepResults ∧ Claims.ConfigLoads

/-- A stage that fires on data, and one that passes a marker on. Each part names its rules. -/
def Obligations.StagesFire : Prop :=
  Claims.StageFires ∧ Claims.StagePassesMarkers

/-- Cells on integers, lanes and hold registers. Each part names its rules. -/
def Obligations.CellOperations : Prop :=
  Claims.IntegerCells ∧ Claims.LaneAndHoldCells

/-- Rounding, and the corners of floating point. Each part names its rules. -/
def Obligations.FloatingPoint : Prop :=
  Claims.RoundOnce ∧ Claims.FloatCorners

/-- The operators of a control tile. Each part names its rules. -/
def Obligations.ControlOperators : Prop :=
  Claims.SelectingOperators ∧ Claims.CountingOperators ∧ Claims.ControllingOperators

/-- Address generators. Each part names its rules. -/
def Obligations.Streams : Prop :=
  Claims.AddressGeneratorsRead ∧ Claims.AddressGeneratorsWrite ∧ Claims.IndexedWalks ∧ Claims.AffineWalks

/-- Memory units and converters. Each part names its rules. -/
def Obligations.MemoryUnitsAndConverters : Prop :=
  Claims.FifoAndTable ∧ Claims.WindowsAndReads ∧ Claims.Converters ∧ Claims.DbConverters

/-- Matrix tokens and steps. Each part names its rules. -/
def Obligations.MatrixEngine : Prop :=
  Claims.MatrixTokens ∧ Claims.MatrixSteps ∧ Claims.MatrixDrains

/-- The commands of a COMMAND queue. Each part names its rules. -/
def Obligations.Commands : Prop :=
  Claims.QueueCommands ∧ Claims.ReportCommands

/-- The mesh, and requests that fail. Each part names its rules. -/
def Obligations.MeshAndLostRequests : Prop :=
  Claims.RouterRounds ∧ Claims.DrainMovesPackets ∧ Claims.RequestsThatFail

/-- The heartbeat, timers and rates. Each part names its rules. -/
def Obligations.Heartbeat : Prop :=
  Claims.StitchHeartbeat ∧ Claims.TimersFire ∧ Claims.RatesPerStitch

/-- The cloak. Each part names its rules. -/
def Obligations.SaveAndRestore : Prop :=
  Claims.SaveResults ∧ Claims.SealsLogs ∧ Claims.RestoreResults ∧ Claims.Preemption

/-- Links, nodes and the scrub. Each part names its rules. -/
def Obligations.FaultManagement : Prop :=
  Claims.LinksAndNodes ∧ Claims.ScrubPoisons

/-- Supply, power and heat. Each part names its rules. -/
def Obligations.PowerManagement : Prop :=
  Claims.SupplyEvents ∧ Claims.PowerAndHeat

/-- Resets, takeover and shocks. Each part names its rules. -/
def Obligations.Resets : Prop :=
  Claims.ColdResetResults ∧ Claims.DomainsOpen ∧ Claims.ResetsAndTakeover
end

