-- ==== Sys2Proof/Laws/Decode.lean ====
section
/-! SUPPORT. Laws of the fields of a word: a field of a word built from fields is the field that was put there, and two words
with the same fields are equal. With them, a round trip is one `simp` per row. -/

namespace Sys2Proof

theorem getLsbD_fld (w : Word) (lo n i : Nat) : (fld w lo n).getLsbD i = (decide (i < n) && w.getLsbD (lo + i)) := by
  simp [fld]

theorem getLsbD_put {n : Nat} (lo i : Nat) (v : BitVec n) :
    (put lo v).getLsbD i = (decide (i < 64) && !decide (i < lo) && decide (i - lo < 64) && v.getLsbD (i - lo)) := by
  simp [put, BitVec.getLsbD_setWidth, Bool.and_assoc]

/-- A field of a union of words. -/
theorem fld_or (x y : Word) (lo n : Nat) : fld (x ||| y) lo n = fld x lo n ||| fld y lo n := by
  apply BitVec.eq_of_getLsbD_eq
  intro i hi
  simp only [getLsbD_fld, BitVec.getLsbD_or, hi, decide_true, Bool.true_and]

/-- A field away from the place where the only value was put. -/
theorem fld_put_away {m : Nat} (p lo n : Nat) (v : BitVec m) (h : lo + n ≤ p ∨ p + m ≤ lo) : fld (put p v) lo n = 0 := by
  apply BitVec.eq_of_getLsbD_eq
  intro i hi
  rw [getLsbD_fld, getLsbD_put]
  rcases h with h | h
  · simp [show lo + i < p by omega]
  · simp [BitVec.getLsbD_of_ge v (lo + i - p) (by omega)]

/-- The field at the place where a value was put. -/
theorem fld_put_here {n : Nat} (p : Nat) (v : BitVec n) (h : p + n ≤ 64) : fld (put p v) p n = v := by
  apply BitVec.eq_of_getLsbD_eq
  intro i hi
  rw [getLsbD_fld, getLsbD_put]
  simp [hi, show p + i < 64 by omega, show i < 64 by omega]

/-- A field inside a value that was put. -/
theorem fld_put_inside {m : Nat} (p lo n : Nat) (v : BitVec m) (h1 : p ≤ lo) (h2 : lo + n ≤ 64) :
    fld (put p v) lo n = v.extractLsb' (lo - p) n := by
  apply BitVec.eq_of_getLsbD_eq
  intro i hi
  rw [getLsbD_fld, getLsbD_put]
  simp [hi, show lo + i < 64 by omega, show ¬ (lo + i < p) by omega, show lo + i - p < 64 by omega,
    show lo - p + i = lo + i - p by omega]

theorem b1_eq_one (b : Bool) : (b1 b == 1#1) = b := by cases b <;> rfl

theorem b1_fld (w : Word) (lo : Nat) : b1 (fld w lo 1 == 1) = fld w lo 1 := by
  have h : fld w lo 1 = 0 ∨ fld w lo 1 = 1 := by
    have := (fld w lo 1).isLt
    rcases (by omega : (fld w lo 1).toNat = 0 ∨ (fld w lo 1).toNat = 1) with h | h
    · exact Or.inl (BitVec.eq_of_toNat_eq (by simpa using h))
    · exact Or.inr (BitVec.eq_of_toNat_eq (by simpa using h))
  rcases h with h | h <;> rw [h] <;> rfl

/-- Two fields of a word side by side are one field. -/
theorem fld_append (w : Word) (lo n m : Nat) : fld w (lo + n) m ++ fld w lo n = fld w lo (m + n) := by
  apply BitVec.eq_of_getLsbD_eq
  intro i hi
  rw [BitVec.getLsbD_append]
  simp only [getLsbD_fld]
  by_cases h : i < n
  · simp [h, show i < m + n by omega]
  · simp [h, show lo + n + (i - n) = lo + i by omega, show (i - n < m) = (i < m + n) by apply propext; omega]

/-- The opcode and the guard of a head (R115). -/
theorem fld_head_op (op : BitVec 8) (g : Guard) : fld (head op g) 56 8 = op := by
  simp [head, fld_or, fld_put_here, fld_put_away]

theorem fld_head_neg (op : BitVec 8) (g : Guard) : fld (head op g) 55 1 = b1 g.neg := by
  simp [head, fld_or, fld_put_here, fld_put_away]

theorem fld_head_p (op : BitVec 8) (g : Guard) : fld (head op g) 52 3 = g.p := by
  simp [head, fld_or, fld_put_here, fld_put_away]

theorem fld_head_low (op : BitVec 8) (g : Guard) (lo n : Nat) (h : lo + n ≤ 52) : fld (head op g) lo n = 0 := by
  simp [head, fld_or, fld_put_away, show lo + n ≤ 56 by omega, show lo + n ≤ 55 by omega, h]

/-- What `accept` accepts. -/
theorem accept_ok {w : Word} {zs : List (Nat × Nat)} {i j : Instr} :
    accept w zs i = .ok j ↔ (guardOf w).wf = true ∧ zeroFields w zs = true ∧ i.wf = true ∧ i = j := by
  unfold accept
  split_ifs with h1 h2 h3 <;> simp_all

/-- Two words whose fields agree on a list that covers every bit are equal. -/
theorem word_ext (l : List (Nat × Nat)) (cover : ∀ k < 64, ∃ z ∈ l, z.1 ≤ k ∧ k < z.1 + z.2) {w x : Word}
    (h : ∀ z ∈ l, fld w z.1 z.2 = fld x z.1 z.2) : w = x := by
  apply BitVec.eq_of_getLsbD_eq
  intro k hk
  obtain ⟨z, hz, h1, h2⟩ := cover k hk
  have e := congrArg (fun v => v.getLsbD (k - z.1)) (h z hz)
  simpa only [getLsbD_fld, show k - z.1 < z.2 by omega, show z.1 + (k - z.1) = k by omega, decide_true, Bool.true_and] using e

end Sys2Proof
end

