-- ==== Sys2Proof/Laws/Tab.lean ====
section
/-! SUPPORT. Laws of the sparse table: what a read finds after a write or an erasure, and that an ascending table stays ascending. -/

namespace Sys2Proof.Tab

variable {α : Type}

@[simp] theorem get_nil (d : α) (k : Nat) : get d [] k = d := rfl

@[simp] theorem get_set_same (d v : α) (t : Tab α) (k : Nat) : get d (set t k v) k = v := by
  induction t with
  | nil => simp [set, get]
  | cons e t ih =>
    obtain ⟨j, w⟩ := e
    simp only [set]
    split_ifs <;> simp_all [get]

theorem get_set_other (d v : α) (t : Tab α) {k j : Nat} (h : j ≠ k) : get d (set t k v) j = get d t j := by
  induction t with
  | nil => simp [set, get, h]
  | cons e t ih =>
    obtain ⟨i, w⟩ := e
    simp only [set]
    split_ifs <;> simp_all [get]

/-- A read after a write: the written value at its key, what was there before elsewhere. -/
theorem get_set (d v : α) (t : Tab α) (k j : Nat) : get d (set t k v) j = if j = k then v else get d t j := by
  split_ifs with h
  · subst h; exact get_set_same d v t j
  · exact get_set_other d v t h

theorem set_set (v w : α) (t : Tab α) (k : Nat) : set (set t k v) k w = set t k w := by
  induction t with
  | nil => simp [set]
  | cons e t ih =>
    obtain ⟨j, u⟩ := e
    simp only [set]
    split_ifs <;> simp_all [set]

@[simp] theorem get_erase_same (d : α) (t : Tab α) (k : Nat) : get d (erase t k) k = d := by
  induction t with
  | nil => rfl
  | cons e t ih =>
    obtain ⟨j, w⟩ := e
    simp only [erase]
    split_ifs <;> simp_all [get]

theorem get_erase_other (d : α) (t : Tab α) {k j : Nat} (h : j ≠ k) : get d (erase t k) j = get d t j := by
  induction t with
  | nil => rfl
  | cons e t ih =>
    obtain ⟨i, w⟩ := e
    simp only [erase]
    split_ifs with hi
    · subst hi; simp [get, h, ih]
    · simp [get, ih]

@[simp] theorem find_set_same (v : α) (t : Tab α) (k : Nat) : find? (set t k v) k = some v := by
  induction t with
  | nil => simp [set, find?]
  | cons e t ih =>
    obtain ⟨j, w⟩ := e
    simp only [set]
    split_ifs <;> simp_all [find?]

theorem find_set_other (v : α) (t : Tab α) {k j : Nat} (h : j ≠ k) : find? (set t k v) j = find? t j := by
  induction t with
  | nil => simp [set, find?, h]
  | cons e t ih =>
    obtain ⟨i, w⟩ := e
    simp only [set]
    split_ifs <;> simp_all [find?]

@[simp] theorem find_erase_same (t : Tab α) (k : Nat) : find? (erase t k) k = none := by
  induction t with
  | nil => rfl
  | cons e t ih =>
    obtain ⟨j, w⟩ := e
    simp only [erase]
    split_ifs <;> simp_all [find?]

theorem find_erase_other (t : Tab α) {k j : Nat} (h : j ≠ k) : find? (erase t k) j = find? t j := by
  induction t with
  | nil => rfl
  | cons e t ih =>
    obtain ⟨i, w⟩ := e
    simp only [erase]
    split_ifs with hi
    · subst hi; simp [find?, h, ih]
    · simp [find?, ih]

/-- What a listed key reads is what it holds. -/
theorem get_of_find (d v : α) (t : Tab α) (k : Nat) (h : find? t k = some v) : get d t k = v := by
  induction t with
  | nil => simp [find?] at h
  | cons e t ih =>
    obtain ⟨j, w⟩ := e
    simp only [find?] at h
    simp only [get]
    split_ifs at h ⊢
    · simpa using h
    · exact ih h

end Sys2Proof.Tab
end

