-- ==== Sys2Proof/Laws/Memory.lean ====
section
/-! SUPPORT. Laws of memory: a read after a write, and that every memory operation keeps the canonical form. -/

namespace Sys2Proof.Machine

/-! ### A read after a write -/

@[simp] theorem readByte_nil (a : Nat) : readByte [] a = memDefault := rfl

theorem readByte_writeByte (m : List Host.Cell) (a b : Nat) (v : Byte) :
    readByte (writeByte m a v) b = if b = a then v else readByte m b := by
  unfold readByte writeByte
  by_cases hv : v = memDefault <;> by_cases hb : b = a
  · subst hb; simp [hv]
  · simp [hv, hb, Tab.get_erase_other _ _ hb]
  · subst hb; simp [hv]
  · simp [hv, hb, Tab.get_set_other _ _ _ hb]

@[simp] theorem readByte_writeByte_same (m : List Host.Cell) (a : Nat) (v : Byte) : readByte (writeByte m a v) a = v := by
  simp [readByte_writeByte]

theorem readByte_writeByte_other (m : List Host.Cell) {a b : Nat} (v : Byte) (h : b ≠ a) :
    readByte (writeByte m a v) b = readByte m b := by simp [readByte_writeByte, h]

/-- A byte after a run of bytes was written: the run's own byte inside it, what was there before outside it. -/
theorem readByte_writeBytes (bs : List Byte) (m : List Host.Cell) (a b : Nat) :
    readByte (writeBytes m a bs) b = if a ≤ b then (bs[b - a]?).getD (readByte m b) else readByte m b := by
  induction bs generalizing m a with
  | nil => simp [writeBytes]
  | cons v vs ih =>
    simp only [writeBytes, ih, readByte_writeByte]
    by_cases h1 : a + 1 ≤ b
    · have e : b - a = (b - (a + 1)) + 1 := by omega
      simp [h1, show a ≤ b by omega, show b ≠ a by omega, e]
    · by_cases h2 : b = a
      · subst h2; simp
      · simp [h1, h2, show ¬ a ≤ b by omega]

theorem readByte_writeBytes_outside (bs : List Byte) (m : List Host.Cell) {a b : Nat} (h : b < a ∨ a + bs.length ≤ b) :
    readByte (writeBytes m a bs) b = readByte m b := by
  rw [readByte_writeBytes]
  split_ifs with hab
  · rw [List.getElem?_eq_none (by omega)]; rfl
  · rfl

theorem readBytes_length (m : List Host.Cell) (a n : Nat) : (readBytes m a n).length = n := by
  induction n generalizing a with
  | zero => rfl
  | succ n ih => simp [readBytes, ih]

theorem readBytes_congr {m m' : List Host.Cell} {a n : Nat} (h : ∀ b, a ≤ b → b < a + n → readByte m b = readByte m' b) :
    readBytes m a n = readBytes m' a n := by
  induction n generalizing a with
  | zero => rfl
  | succ n ih =>
    simp only [readBytes]
    rw [h a (by omega) (by omega), ih fun b hb hb' => h b (by omega) (by omega)]

/-- Reading back what was just written. -/
@[simp] theorem readBytes_writeBytes (bs : List Byte) (m : List Host.Cell) (a : Nat) :
    readBytes (writeBytes m a bs) a bs.length = bs := by
  induction bs generalizing m a with
  | nil => rfl
  | cons v vs ih =>
    simp only [writeBytes, List.length_cons, readBytes, ih]
    rw [readByte_writeBytes_outside _ _ (by omega)]
    simp

/-- A read away from a write. -/
theorem readBytes_writeBytes_outside (bs : List Byte) (m : List Host.Cell) {a b n : Nat} (h : b + n ≤ a ∨ a + bs.length ≤ b) :
    readBytes (writeBytes m a bs) b n = readBytes m b n :=
  readBytes_congr fun c h1 h2 => readByte_writeBytes_outside bs m (by omega)

/-! ### Byte order (R7) -/

@[simp] theorem leBytes_length (n v : Nat) : (leBytes n v).length = n := by
  induction n generalizing v with
  | zero => rfl
  | succ n ih => simp [leBytes, ih]

@[simp] theorem leNat_leBytes (n v : Nat) : leNat (leBytes n v) = v % 256 ^ n := by
  induction n generalizing v with
  | zero => simp [leBytes, leNat, Nat.mod_one]
  | succ n ih =>
    simp only [leBytes, leNat, ih, BitVec.toNat_ofNat, pow_succ']
    exact (Nat.mod_mul (a := 256)).symm

theorem leNat_lt (bs : List Byte) : leNat bs < 256 ^ bs.length := by
  induction bs with
  | nil => simp [leNat]
  | cons b bs ih =>
    simp only [leNat, List.length_cons, pow_succ']
    have := b.isLt
    omega

@[simp] theorem leBytes_leNat (bs : List Byte) : leBytes bs.length (leNat bs) = bs := by
  induction bs with
  | nil => rfl
  | cons b bs ih =>
    have hb := b.isLt
    have h1 : (b.toNat + 256 * leNat bs) / 256 = leNat bs := by omega
    simp only [leNat, List.length_cons, leBytes, h1, ih]
    congr 1
    apply BitVec.eq_of_toNat_eq
    simp only [BitVec.toNat_ofNat]
    omega

/-! ### The canonical form -/

/-- Keys strictly rising. -/
def Rising : List Host.Cell → Prop
  | [] => True
  | e :: t => (∀ x ∈ t, e.1 < x.1) ∧ Rising t

/-- The canonical form, said of each entry and of the order. -/
theorem Memory.wf_iff (m : List Host.Cell) : Memory.wf m = true ↔ (∀ e ∈ m, e.2 ≠ memDefault) ∧ Rising m := by
  induction m with
  | nil => simp [Memory.wf, Rising]
  | cons e t ih =>
    obtain ⟨a, v⟩ := e
    cases t with
    | nil => simp [Memory.wf, Rising]
    | cons f u =>
      obtain ⟨b, w⟩ := f
      simp only [Memory.wf, Bool.and_eq_true, ih, Rising, bne_iff_ne, ne_eq, decide_eq_true_eq, List.mem_cons]
      constructor
      · rintro ⟨⟨hv, hab⟩, hd, hr, hs⟩
        refine ⟨?_, ?_, hr, hs⟩
        · rintro x (rfl | hx)
          · exact hv
          · exact hd x hx
        · rintro x (rfl | hx)
          · exact hab
          · exact lt_trans hab (hr x hx)
      · rintro ⟨hd, hr, hs⟩
        exact ⟨⟨hd _ (Or.inl rfl), hr _ (Or.inl rfl)⟩, fun x hx => hd x (Or.inr hx), hs⟩

theorem mem_erase {m : List Host.Cell} {k : Nat} {e : Host.Cell} (h : e ∈ Tab.erase m k) : e ∈ m := by
  induction m with
  | nil => exact h
  | cons f t ih =>
    obtain ⟨j, w⟩ := f
    simp only [Tab.erase] at h
    split_ifs at h
    · exact List.mem_cons_of_mem _ (ih h)
    · rcases List.mem_cons.mp h with rfl | h
      · exact List.mem_cons_self ..
      · exact List.mem_cons_of_mem _ (ih h)

theorem mem_set {m : List Host.Cell} {k : Nat} {v : Byte} {e : Host.Cell} (h : e ∈ Tab.set m k v) : e = (k, v) ∨ e ∈ m := by
  induction m with
  | nil => exact Or.inl (by simpa [Tab.set] using h)
  | cons f t ih =>
    obtain ⟨j, w⟩ := f
    simp only [Tab.set] at h
    split_ifs at h
    · simpa using h
    · rcases List.mem_cons.mp h with rfl | h
      · exact Or.inl rfl
      · exact Or.inr (List.mem_cons_of_mem _ h)
    · rcases List.mem_cons.mp h with rfl | h
      · exact Or.inr (List.mem_cons_self ..)
      · rcases ih h with rfl | h
        · exact Or.inl rfl
        · exact Or.inr (List.mem_cons_of_mem _ h)

theorem rising_erase {m : List Host.Cell} (h : Rising m) (k : Nat) : Rising (Tab.erase m k) := by
  induction m with
  | nil => exact h
  | cons f t ih =>
    obtain ⟨j, w⟩ := f
    simp only [Tab.erase]
    split_ifs
    · exact ih h.2
    · exact ⟨fun x hx => h.1 x (mem_erase hx), ih h.2⟩

theorem rising_set {m : List Host.Cell} (h : Rising m) (k : Nat) (v : Byte) : Rising (Tab.set m k v) := by
  induction m with
  | nil => exact ⟨by simp, trivial⟩
  | cons f t ih =>
    obtain ⟨j, w⟩ := f
    simp only [Tab.set]
    split_ifs with h1 h2
    · refine ⟨?_, h⟩
      rintro x hx
      rcases List.mem_cons.mp hx with rfl | hx
      · exact h1
      · exact lt_trans h1 (h.1 x hx)
    · subst h2; exact ⟨h.1, h.2⟩
    · refine ⟨fun x hx => ?_, ih h.2⟩
      rcases mem_set hx with rfl | hx
      · show j < k; omega
      · exact h.1 x hx

/-- Writing a byte keeps the canonical form. -/
theorem Memory.wf_writeByte {m : List Host.Cell} (h : Memory.wf m = true) (a : Nat) (v : Byte) :
    Memory.wf (writeByte m a v) = true := by
  rw [Memory.wf_iff] at h ⊢
  unfold writeByte
  split_ifs with hv
  · exact ⟨fun e he => h.1 e (mem_erase he), rising_erase h.2 a⟩
  · refine ⟨fun e he => ?_, rising_set h.2 a v⟩
    rcases mem_set he with rfl | he
    · exact hv
    · exact h.1 e he

/-- Writing a run of bytes keeps the canonical form. -/
theorem Memory.wf_writeBytes (bs : List Byte) {m : List Host.Cell} (h : Memory.wf m = true) (a : Nat) :
    Memory.wf (writeBytes m a bs) = true := by
  induction bs generalizing m a with
  | nil => exact h
  | cons v vs ih => exact ih (Memory.wf_writeByte h a v) (a + 1)

/-- Storing bytes keeps the canonical form. -/
theorem Memory.wf_storeBytes {s : State} (h : Memory.wf s.mem = true) (a : Nat) (bs : List Byte) :
    Memory.wf (s.storeBytes a bs).mem = true := Memory.wf_writeBytes bs h a

theorem rising_filter {m : List Host.Cell} (h : Rising m) (p : Host.Cell → Bool) : Rising (m.filter p) := by
  induction m with
  | nil => exact h
  | cons f t ih =>
    simp only [List.filter_cons]
    split_ifs
    · exact ⟨fun x hx => h.1 x (List.mem_of_mem_filter hx), ih h.2⟩
    · exact ih h.2

theorem mem_cellsOf {bs : List Byte} {a : Nat} {e : Host.Cell} (h : e ∈ cellsOf a bs) :
    e.2 ≠ memDefault ∧ a ≤ e.1 ∧ e.1 < a + bs.length := by
  induction bs generalizing a with
  | nil => simp [cellsOf] at h
  | cons v vs ih =>
    simp only [cellsOf] at h
    split_ifs at h with hv
    · have := ih h; simp only [List.length_cons]; exact ⟨this.1, by omega, by omega⟩
    · rcases List.mem_cons.mp h with rfl | h
      · simp [hv]
      · have := ih h; simp only [List.length_cons]; exact ⟨this.1, by omega, by omega⟩

theorem rising_cellsOf (bs : List Byte) (a : Nat) : Rising (cellsOf a bs) := by
  induction bs generalizing a with
  | nil => trivial
  | cons v vs ih =>
    simp only [cellsOf]
    split_ifs
    · exact ih _
    · exact ⟨fun x hx => by have := (mem_cellsOf hx).2.1; show a < x.1; omega, ih _⟩

theorem rising_append {l m : List Host.Cell} (hl : Rising l) (hm : Rising m) (h : ∀ x ∈ l, ∀ y ∈ m, x.1 < y.1) : Rising (l ++ m) := by
  induction l with
  | nil => exact hm
  | cons e t ih =>
    refine ⟨fun x hx => ?_, ih hl.2 fun x hx y hy => h x (List.mem_cons_of_mem _ hx) y hy⟩
    rcases List.mem_append.mp hx with hx | hx
    · exact hl.1 x hx
    · exact h e (List.mem_cons_self ..) x hx

/-- Writing a long run of bytes keeps the canonical form. -/
theorem Memory.wf_writeBlock (bs : List Byte) {m : List Host.Cell} (h : Memory.wf m = true) (a : Nat) :
    Memory.wf (writeBlock m a bs) = true := by
  rw [Memory.wf_iff] at h ⊢
  have lo : ∀ x ∈ m.filter (fun e => decide (e.1 < a)), x.1 < a := fun x hx => by simpa using (List.mem_filter.mp hx).2
  have hi : ∀ x ∈ m.filter (fun e => decide (a + bs.length ≤ e.1)), a + bs.length ≤ x.1 := fun x hx => by simpa using (List.mem_filter.mp hx).2
  refine ⟨fun e he => ?_, rising_append (rising_append (rising_filter h.2 _) (rising_cellsOf bs a) fun x hx y hy => ?_) (rising_filter h.2 _)
    fun x hx y hy => ?_⟩
  · simp only [writeBlock, List.mem_append] at he
    rcases he with (he | he) | he
    · exact h.1 e (List.mem_of_mem_filter he)
    · exact (mem_cellsOf he).1
    · exact h.1 e (List.mem_of_mem_filter he)
  · exact lt_of_lt_of_le (lo x hx) (mem_cellsOf hy).2.1
  · rcases List.mem_append.mp hx with hx | hx
    · have := lo x hx; have := hi y hy; omega
    · have := (mem_cellsOf hx).2.2; have := hi y hy; omega

theorem Memory.wf_storeBlock {s : State} (h : Memory.wf s.mem = true) (a : Nat) (bs : List Byte) :
    Memory.wf (s.storeBlock a bs).mem = true := Memory.wf_writeBlock bs h a

theorem readByte_filter (p : Nat → Bool) (m : List Host.Cell) (b : Nat) :
    readByte (m.filter fun e => p e.1) b = if p b then readByte m b else memDefault := by
  induction m with
  | nil => simp
  | cons e t ih =>
    obtain ⟨j, w⟩ := e
    simp only [List.filter_cons]
    by_cases hb : b = j
    · subst hb
      by_cases hp : p b
      · simp [hp, readByte, Tab.get]
      · simp [hp, ih]
    · by_cases hj : p j
      · have : readByte ((j, w) :: t) b = readByte t b := by simp [readByte, Tab.get, hb]
        have h2 : readByte ((j, w) :: t.filter fun e => p e.1) b = readByte (t.filter fun e => p e.1) b := by simp [readByte, Tab.get, hb]
        simp [hj, h2, this, ih]
      · have : readByte ((j, w) :: t) b = readByte t b := by simp [readByte, Tab.get, hb]
        simp [hj, ih, this]

theorem readByte_append_left {l m : List Host.Cell} {b : Nat} (h : ∀ e ∈ l, e.1 ≠ b) : readByte (l ++ m) b = readByte m b := by
  induction l with
  | nil => rfl
  | cons e t ih =>
    obtain ⟨j, w⟩ := e
    have hj : b ≠ j := fun hb => h (j, w) (List.mem_cons_self ..) hb.symm
    simpa [readByte, Tab.get, hj] using ih fun e he => h e (List.mem_cons_of_mem _ he)

theorem readByte_append_right {l m : List Host.Cell} {b : Nat} (h : ∀ e ∈ m, e.1 ≠ b) : readByte (l ++ m) b = readByte l b := by
  induction l with
  | nil =>
    induction m with
    | nil => rfl
    | cons e t ih =>
      obtain ⟨j, w⟩ := e
      have hj : b ≠ j := fun hb => h (j, w) (List.mem_cons_self ..) hb.symm
      simpa [readByte, Tab.get, hj] using ih fun e he => h e (List.mem_cons_of_mem _ he)
  | cons e t ih =>
    obtain ⟨j, w⟩ := e
    by_cases hb : b = j
    · subst hb; simp [readByte, Tab.get]
    · simpa [readByte, Tab.get, hb] using ih

theorem readByte_cellsOf (bs : List Byte) (a b : Nat) : readByte (cellsOf a bs) b = if a ≤ b then (bs[b - a]?).getD memDefault else memDefault := by
  induction bs generalizing a with
  | nil => simp [cellsOf]
  | cons v vs ih =>
    simp only [cellsOf]
    by_cases hb : b = a
    · subst hb
      have none_ : readByte (cellsOf (b + 1) vs) b = memDefault := by rw [ih]; simp
      by_cases hv : v = memDefault
      · rw [if_pos hv, none_]; simp [hv]
      · rw [if_neg hv]; simp [readByte, Tab.get]
    · have step : readByte ((a, v) :: cellsOf (a + 1) vs) b = readByte (cellsOf (a + 1) vs) b := by simp [readByte, Tab.get, hb]
      have goal : readByte (cellsOf (a + 1) vs) b = if a ≤ b then ((v :: vs)[b - a]?).getD memDefault else memDefault := by
        rw [ih]
        by_cases h1 : a + 1 ≤ b
        · have e : b - a = (b - (a + 1)) + 1 := by omega
          simp [h1, show a ≤ b by omega, e]
        · simp [h1, show ¬ a ≤ b by omega]
      split_ifs with hv <;> simp_all

/-- A byte after a long run of bytes was written. -/
theorem readByte_writeBlock (bs : List Byte) (m : List Host.Cell) (a b : Nat) :
    readByte (writeBlock m a bs) b = if a ≤ b ∧ b < a + bs.length then (bs[b - a]?).getD memDefault else readByte m b := by
  unfold writeBlock
  by_cases h1 : b < a
  · rw [List.append_assoc, readByte_append_right, readByte_filter (fun x => decide (x < a))]
    · simp [h1]
    · intro e he
      rcases List.mem_append.mp he with he | he
      · have := (mem_cellsOf he).2.1; omega
      · have := (List.mem_filter.mp he).2; simp at this; omega
  · rw [List.append_assoc, readByte_append_left fun e he => by have := (List.mem_filter.mp he).2; simp at this; omega]
    by_cases h2 : b < a + bs.length
    · rw [readByte_append_right fun e he => by have := (List.mem_filter.mp he).2; simp at this; omega, readByte_cellsOf]
      simp [show a ≤ b by omega, h2]
    · rw [readByte_append_left fun e he => by have := (mem_cellsOf he).2.2; omega, readByte_filter (fun x => decide (a + bs.length ≤ x))]
      simp [h2, show a + bs.length ≤ b by omega]

/-- Dropping entries (a slice that loses its power, R177) keeps the canonical form. -/
theorem Memory.wf_filter {m : List Host.Cell} (h : Memory.wf m = true) (p : Host.Cell → Bool) :
    Memory.wf (m.filter p) = true := by
  rw [Memory.wf_iff] at h ⊢
  exact ⟨fun e he => h.1 e (List.mem_of_mem_filter he), rising_filter h.2 p⟩

/-- A run of single writes keeps the canonical form. -/
theorem Memory.wf_foldl_writeByte {β : Type} (l : List β) (f : β → Nat) (g : β → Byte) {m : List Host.Cell}
    (h : Memory.wf m = true) : Memory.wf (l.foldl (fun m e => writeByte m (f e) (g e)) m) = true := by
  induction l generalizing m with
  | nil => exact h
  | cons e t ih => exact ih (Memory.wf_writeByte h (f e) (g e))

/-- Memory after reset is in its canonical form. -/
theorem Memory.wf_reset : Memory.wf State.reset.mem = true := rfl

/-- Two memories in canonical form that read alike are equal. -/
theorem Memory.ext {m m' : List Host.Cell} (h : Memory.wf m = true) (h' : Memory.wf m' = true)
    (e : ∀ a, readByte m a = readByte m' a) : m = m' := by
  rw [Memory.wf_iff] at h h'
  obtain ⟨hd, hr⟩ := h
  obtain ⟨hd', hr'⟩ := h'
  have low : ∀ (l : List Host.Cell) (k : Nat), (∀ x ∈ l, k < x.1) → readByte l k = memDefault := by
    intro l k hl
    induction l with
    | nil => rfl
    | cons x t ih =>
      obtain ⟨j, w⟩ := x
      have hj : k < j := hl (j, w) (List.mem_cons_self ..)
      have : k ≠ j := by omega
      simp only [readByte, Tab.get, this, if_false]
      exact ih fun y hy => hl y (List.mem_cons_of_mem _ hy)
  induction m generalizing m' with
  | nil =>
    cases m' with
    | nil => rfl
    | cons x t =>
      obtain ⟨k, v⟩ := x
      have := e k
      simp [readByte, Tab.get] at this
      exact absurd this.symm (hd' (k, v) (List.mem_cons_self ..))
  | cons x t ih =>
    obtain ⟨k, v⟩ := x
    cases m' with
    | nil =>
      have := e k
      simp [readByte, Tab.get] at this
      exact absurd this (hd (k, v) (List.mem_cons_self ..))
    | cons y u =>
      obtain ⟨j, w⟩ := y
      have hv : v ≠ memDefault := hd (k, v) (List.mem_cons_self ..)
      have hw : w ≠ memDefault := hd' (j, w) (List.mem_cons_self ..)
      have hkj : k = j := by
        rcases Nat.lt_trichotomy k j with h1 | h1 | h1
        · exfalso
          have h2 := e k
          rw [low ((j, w) :: u) k] at h2
          · simp [readByte, Tab.get] at h2; exact hv h2
          · intro x hx
            rcases List.mem_cons.mp hx with rfl | hx
            · exact h1
            · exact lt_trans h1 (hr'.1 x hx)
        · exact h1
        · exfalso
          have h2 := e j
          rw [low ((k, v) :: t) j] at h2
          · simp [readByte, Tab.get] at h2; exact hw h2.symm
          · intro x hx
            rcases List.mem_cons.mp hx with rfl | hx
            · exact h1
            · exact lt_trans h1 (hr.1 x hx)
      subst hkj
      have hvw : v = w := by have := e k; simpa [readByte, Tab.get] using this
      subst hvw
      congr 1
      refine ih (fun a => ?_) (fun x hx => hd x (List.mem_cons_of_mem _ hx)) hr.2
        (fun x hx => hd' x (List.mem_cons_of_mem _ hx)) hr'.2
      by_cases hak : a = k
      · subst hak; rw [low t a hr.1, low u a hr'.1]
      · have := e a
        simpa [readByte, Tab.get, hak] using this

/-- A long run of bytes written in one pass is written byte by byte. -/
theorem writeBlock_eq (bs : List Byte) {m : List Host.Cell} (h : Memory.wf m = true) (a : Nat) : writeBlock m a bs = writeBytes m a bs :=
  Memory.ext (Memory.wf_writeBlock bs h a) (Memory.wf_writeBytes bs h a) fun b => by
    rw [readByte_writeBlock, readByte_writeBytes]
    by_cases h1 : a ≤ b
    · by_cases h2 : b < a + bs.length
      · have : b - a < bs.length := by omega
        simp [h1, h2, this]
      · have : bs.length ≤ b - a := by omega
        simp [h1, h2, List.getElem?_eq_none this]
    · simp [h1]

theorem takeBlock_eq {m : List Host.Cell} (h : Rising m) {a n : Nat} (low : ∀ e ∈ m, a ≤ e.1) : takeBlock a n m = readBytes m a n := by
  induction n generalizing m a with
  | zero => cases m <;> rfl
  | succ n ih =>
    cases m with
    | nil =>
      simp only [takeBlock, readBytes, readByte_nil]
      rw [ih (m := []) (a := a + 1) trivial (by simp)]
    | cons e t =>
      obtain ⟨j, w⟩ := e
      simp only [takeBlock, readBytes]
      by_cases hj : j = a
      · subst hj
        rw [if_pos rfl, ih h.2 fun e he => h.1 e he]
        congr 1
        · simp [readByte, Tab.get]
        · refine readBytes_congr fun b hb _ => ?_
          simp [readByte, Tab.get, show b ≠ j by omega]
      · have hlt : a < j := lt_of_le_of_ne (low (j, w) (List.mem_cons_self ..)) (Ne.symm hj)
        rw [if_neg hj, ih h fun e he => ?_]
        · congr 1
          symm
          have : ∀ e ∈ ((j, w) :: t : List Host.Cell), e.1 ≠ a := fun e he => by
            rcases List.mem_cons.mp he with rfl | he
            · exact hj
            · have := h.1 e he; simp at this; omega
          simpa using readByte_append_left (m := []) this
        · rcases List.mem_cons.mp he with rfl | he
          · exact hlt
          · have := h.1 e he; simp at this; omega

/-- A long run of bytes read in one pass is read byte by byte. -/
theorem readBlock_eq {m : List Host.Cell} (h : Memory.wf m = true) (a n : Nat) : readBlock m a n = readBytes m a n := by
  rw [Memory.wf_iff] at h
  unfold readBlock
  rw [takeBlock_eq (rising_filter h.2 _) fun e he => by simpa using (List.mem_filter.mp he).2]
  refine readBytes_congr fun b hb _ => ?_
  rw [readByte_filter (fun x => decide (a ≤ x))]
  simp [hb]

theorem takeBlock_length (m : List Host.Cell) (a n : Nat) : (takeBlock a n m).length = n := by
  induction n generalizing m a with
  | zero => cases m <;> rfl
  | succ n ih =>
    cases m with
    | nil => simp [takeBlock, ih]
    | cons e t =>
      simp only [takeBlock]
      split <;> simp [ih]

@[simp] theorem readBlock_length (m : List Host.Cell) (a n : Nat) : (readBlock m a n).length = n := takeBlock_length _ a n

/-- A block that is copied shows the bytes of its source at its destination, and every other byte is as it was. -/
theorem State.readByte_copyBlock (s : State) (src dst n b : Nat) :
    readByte (s.copyBlock src dst n).mem b =
      if dst ≤ b ∧ b < dst + n then ((readBlock s.mem src n)[b - dst]?).getD memDefault else readByte s.mem b := by
  simp only [State.copyBlock, State.storeBlock, readByte_writeBlock, readBlock_length]

/-- A copied block keeps the canonical form. -/
theorem Memory.wf_copyBlock {s : State} (h : Memory.wf s.mem = true) (src dst n : Nat) :
    Memory.wf (s.copyBlock src dst n).mem = true := Memory.wf_writeBlock _ h dst

end Sys2Proof.Machine
end

