-- ==== Sys2Proof/Laws/State.lean ====
section
/-! SUPPORT. What each update of the state leaves as it is, field by field, and what it writes. -/

namespace Sys2Proof.Machine

/-! A core replaced. -/

@[simp] theorem State.setCore_agenda (x : State) (c : Nat) (k : Core) : (x.setCore c k).agenda = x.agenda := rfl
@[simp] theorem State.setCore_fresh (x : State) (c : Nat) (k : Core) : (x.setCore c k).fresh = x.fresh := rfl
@[simp] theorem State.setCore_cur (x : State) (c : Nat) (k : Core) : (x.setCore c k).cur = x.cur := rfl
@[simp] theorem State.setCore_stalled (x : State) (c : Nat) (k : Core) : (x.setCore c k).stalled = x.stalled := rfl
@[simp] theorem State.setCore_stitch (x : State) (c : Nat) (k : Core) : (x.setCore c k).stitch = x.stitch := rfl
@[simp] theorem State.setCore_tick (x : State) (c : Nat) (k : Core) : (x.setCore c k).tick = x.tick := rfl
@[simp] theorem State.setCore_mem (x : State) (c : Nat) (k : Core) : (x.setCore c k).mem = x.mem := rfl
@[simp] theorem State.setCore_poisoned (x : State) (c : Nat) (k : Core) : (x.setCore c k).poisoned = x.poisoned := rfl
@[simp] theorem State.setCore_coreWords (x : State) (c : Nat) (k : Core) : (x.setCore c k).coreWords = x.coreWords := rfl
@[simp] theorem State.setCore_completing (x : State) (c : Nat) (k : Core) : (x.setCore c k).completing = x.completing := rfl
@[simp] theorem State.setCore_queues (x : State) (c : Nat) (k : Core) : (x.setCore c k).queues = x.queues := rfl
@[simp] theorem State.setCore_lastQueue (x : State) (c : Nat) (k : Core) : (x.setCore c k).lastQueue = x.lastQueue := rfl
@[simp] theorem State.setCore_launches (x : State) (c : Nat) (k : Core) : (x.setCore c k).launches = x.launches := rfl
@[simp] theorem State.setCore_decision (x : State) (c : Nat) (k : Core) : (x.setCore c k).decision = x.decision := rfl
@[simp] theorem State.setCore_gangs (x : State) (c : Nat) (k : Core) : (x.setCore c k).gangs = x.gangs := rfl
@[simp] theorem State.setCore_saves (x : State) (c : Nat) (k : Core) : (x.setCore c k).saves = x.saves := rfl
@[simp] theorem State.setCore_marks (x : State) (c : Nat) (k : Core) : (x.setCore c k).marks = x.marks := rfl
@[simp] theorem State.setCore_errorLog (x : State) (c : Nat) (k : Core) : (x.setCore c k).errorLog = x.errorLog := rfl
@[simp] theorem State.setCore_linings (x : State) (c : Nat) (k : Core) : (x.setCore c k).linings = x.linings := rfl
@[simp] theorem State.setCore_tlb (x : State) (c : Nat) (k : Core) : (x.setCore c k).tlb = x.tlb := rfl
@[simp] theorem State.setCore_walks (x : State) (c : Nat) (k : Core) : (x.setCore c k).walks = x.walks := rfl
@[simp] theorem State.setCore_arrivals (x : State) (c : Nat) (k : Core) : (x.setCore c k).arrivals = x.arrivals := rfl
@[simp] theorem State.setCore_tables (x : State) (c : Nat) (k : Core) : (x.setCore c k).tables = x.tables := rfl
@[simp] theorem State.setCore_node (x : State) (c : Nat) (k : Core) : (x.setCore c k).node = x.node := rfl
@[simp] theorem State.setCore_unreachable (x : State) (c : Nat) (k : Core) : (x.setCore c k).unreachable = x.unreachable := rfl
@[simp] theorem State.setCore_remoteSeq (x : State) (c : Nat) (k : Core) : (x.setCore c k).remoteSeq = x.remoteSeq := rfl
@[simp] theorem State.setCore_cmaps (x : State) (c : Nat) (k : Core) : (x.setCore c k).cmaps = x.cmaps := rfl
@[simp] theorem State.setCore_cmapsNow (x : State) (c : Nat) (k : Core) : (x.setCore c k).cmapsNow = x.cmapsNow := rfl
@[simp] theorem State.setCore_rails (x : State) (c : Nat) (k : Core) : (x.setCore c k).rails = x.rails := rfl
@[simp] theorem State.setCore_slicing (x : State) (c : Nat) (k : Core) : (x.setCore c k).slicing = x.slicing := rfl
@[simp] theorem State.setCore_powerLevel (x : State) (c : Nat) (k : Core) : (x.setCore c k).powerLevel = x.powerLevel := rfl
@[simp] theorem State.setCore_over10 (x : State) (c : Nat) (k : Core) : (x.setCore c k).over10 = x.over10 := rfl
@[simp] theorem State.setCore_over12 (x : State) (c : Nat) (k : Core) : (x.setCore c k).over12 = x.over12 := rfl
@[simp] theorem State.setCore_thermal (x : State) (c : Nat) (k : Core) : (x.setCore c k).thermal = x.thermal := rfl
@[simp] theorem State.setCore_power (x : State) (c : Nat) (k : Core) : (x.setCore c k).power = x.power := rfl
@[simp] theorem State.setCore_retraining (x : State) (c : Nat) (k : Core) : (x.setCore c k).retraining = x.retraining := rfl
@[simp] theorem State.setCore_repaired (x : State) (c : Nat) (k : Core) : (x.setCore c k).repaired = x.repaired := rfl
@[simp] theorem State.setCore_resendLimit (x : State) (c : Nat) (k : Core) : (x.setCore c k).resendLimit = x.resendLimit := rfl
@[simp] theorem State.setCore_reports (x : State) (c : Nat) (k : Core) : (x.setCore c k).reports = x.reports := rfl
@[simp] theorem State.setCore_answers (x : State) (c : Nat) (k : Core) : (x.setCore c k).answers = x.answers := rfl
@[simp] theorem State.setCore_corrected (x : State) (c : Nat) (k : Core) : (x.setCore c k).corrected = x.corrected := rfl
@[simp] theorem State.setCore_shocks (x : State) (c : Nat) (k : Core) : (x.setCore c k).shocks = x.shocks := rfl
@[simp] theorem State.setCore_shockSinceTest (x : State) (c : Nat) (k : Core) : (x.setCore c k).shockSinceTest = x.shockSinceTest := rfl
@[simp] theorem State.setCore_test (x : State) (c : Nat) (k : Core) : (x.setCore c k).test = x.test := rfl
@[simp] theorem State.setCore_meas (x : State) (c : Nat) (k : Core) : (x.setCore c k).meas = x.meas := rfl
@[simp] theorem State.setCore_h1 (x : State) (c : Nat) (k : Core) : (x.setCore c k).h1 = x.h1 := rfl
@[simp] theorem State.setCore_drains (x : State) (c : Nat) (k : Core) : (x.setCore c k).drains = x.drains := rfl
@[simp] theorem State.setCore_opened (x : State) (c : Nat) (k : Core) : (x.setCore c k).opened = x.opened := rfl

/-! A core changed. -/

@[simp] theorem State.onCore_agenda (x : State) (c : Nat) (f : Core → Core) : (x.onCore c f).agenda = x.agenda := rfl
@[simp] theorem State.onCore_fresh (x : State) (c : Nat) (f : Core → Core) : (x.onCore c f).fresh = x.fresh := rfl
@[simp] theorem State.onCore_cur (x : State) (c : Nat) (f : Core → Core) : (x.onCore c f).cur = x.cur := rfl
@[simp] theorem State.onCore_stalled (x : State) (c : Nat) (f : Core → Core) : (x.onCore c f).stalled = x.stalled := rfl
@[simp] theorem State.onCore_stitch (x : State) (c : Nat) (f : Core → Core) : (x.onCore c f).stitch = x.stitch := rfl
@[simp] theorem State.onCore_tick (x : State) (c : Nat) (f : Core → Core) : (x.onCore c f).tick = x.tick := rfl
@[simp] theorem State.onCore_mem (x : State) (c : Nat) (f : Core → Core) : (x.onCore c f).mem = x.mem := rfl
@[simp] theorem State.onCore_poisoned (x : State) (c : Nat) (f : Core → Core) : (x.onCore c f).poisoned = x.poisoned := rfl
@[simp] theorem State.onCore_coreWords (x : State) (c : Nat) (f : Core → Core) : (x.onCore c f).coreWords = x.coreWords := rfl
@[simp] theorem State.onCore_completing (x : State) (c : Nat) (f : Core → Core) : (x.onCore c f).completing = x.completing := rfl
@[simp] theorem State.onCore_queues (x : State) (c : Nat) (f : Core → Core) : (x.onCore c f).queues = x.queues := rfl
@[simp] theorem State.onCore_lastQueue (x : State) (c : Nat) (f : Core → Core) : (x.onCore c f).lastQueue = x.lastQueue := rfl
@[simp] theorem State.onCore_launches (x : State) (c : Nat) (f : Core → Core) : (x.onCore c f).launches = x.launches := rfl
@[simp] theorem State.onCore_decision (x : State) (c : Nat) (f : Core → Core) : (x.onCore c f).decision = x.decision := rfl
@[simp] theorem State.onCore_gangs (x : State) (c : Nat) (f : Core → Core) : (x.onCore c f).gangs = x.gangs := rfl
@[simp] theorem State.onCore_saves (x : State) (c : Nat) (f : Core → Core) : (x.onCore c f).saves = x.saves := rfl
@[simp] theorem State.onCore_marks (x : State) (c : Nat) (f : Core → Core) : (x.onCore c f).marks = x.marks := rfl
@[simp] theorem State.onCore_errorLog (x : State) (c : Nat) (f : Core → Core) : (x.onCore c f).errorLog = x.errorLog := rfl
@[simp] theorem State.onCore_linings (x : State) (c : Nat) (f : Core → Core) : (x.onCore c f).linings = x.linings := rfl
@[simp] theorem State.onCore_tlb (x : State) (c : Nat) (f : Core → Core) : (x.onCore c f).tlb = x.tlb := rfl
@[simp] theorem State.onCore_walks (x : State) (c : Nat) (f : Core → Core) : (x.onCore c f).walks = x.walks := rfl
@[simp] theorem State.onCore_arrivals (x : State) (c : Nat) (f : Core → Core) : (x.onCore c f).arrivals = x.arrivals := rfl
@[simp] theorem State.onCore_tables (x : State) (c : Nat) (f : Core → Core) : (x.onCore c f).tables = x.tables := rfl
@[simp] theorem State.onCore_node (x : State) (c : Nat) (f : Core → Core) : (x.onCore c f).node = x.node := rfl
@[simp] theorem State.onCore_unreachable (x : State) (c : Nat) (f : Core → Core) : (x.onCore c f).unreachable = x.unreachable := rfl
@[simp] theorem State.onCore_remoteSeq (x : State) (c : Nat) (f : Core → Core) : (x.onCore c f).remoteSeq = x.remoteSeq := rfl
@[simp] theorem State.onCore_cmaps (x : State) (c : Nat) (f : Core → Core) : (x.onCore c f).cmaps = x.cmaps := rfl
@[simp] theorem State.onCore_cmapsNow (x : State) (c : Nat) (f : Core → Core) : (x.onCore c f).cmapsNow = x.cmapsNow := rfl
@[simp] theorem State.onCore_rails (x : State) (c : Nat) (f : Core → Core) : (x.onCore c f).rails = x.rails := rfl
@[simp] theorem State.onCore_slicing (x : State) (c : Nat) (f : Core → Core) : (x.onCore c f).slicing = x.slicing := rfl
@[simp] theorem State.onCore_powerLevel (x : State) (c : Nat) (f : Core → Core) : (x.onCore c f).powerLevel = x.powerLevel := rfl
@[simp] theorem State.onCore_over10 (x : State) (c : Nat) (f : Core → Core) : (x.onCore c f).over10 = x.over10 := rfl
@[simp] theorem State.onCore_over12 (x : State) (c : Nat) (f : Core → Core) : (x.onCore c f).over12 = x.over12 := rfl
@[simp] theorem State.onCore_thermal (x : State) (c : Nat) (f : Core → Core) : (x.onCore c f).thermal = x.thermal := rfl
@[simp] theorem State.onCore_power (x : State) (c : Nat) (f : Core → Core) : (x.onCore c f).power = x.power := rfl
@[simp] theorem State.onCore_retraining (x : State) (c : Nat) (f : Core → Core) : (x.onCore c f).retraining = x.retraining := rfl
@[simp] theorem State.onCore_repaired (x : State) (c : Nat) (f : Core → Core) : (x.onCore c f).repaired = x.repaired := rfl
@[simp] theorem State.onCore_resendLimit (x : State) (c : Nat) (f : Core → Core) : (x.onCore c f).resendLimit = x.resendLimit := rfl
@[simp] theorem State.onCore_reports (x : State) (c : Nat) (f : Core → Core) : (x.onCore c f).reports = x.reports := rfl
@[simp] theorem State.onCore_answers (x : State) (c : Nat) (f : Core → Core) : (x.onCore c f).answers = x.answers := rfl
@[simp] theorem State.onCore_corrected (x : State) (c : Nat) (f : Core → Core) : (x.onCore c f).corrected = x.corrected := rfl
@[simp] theorem State.onCore_shocks (x : State) (c : Nat) (f : Core → Core) : (x.onCore c f).shocks = x.shocks := rfl
@[simp] theorem State.onCore_shockSinceTest (x : State) (c : Nat) (f : Core → Core) : (x.onCore c f).shockSinceTest = x.shockSinceTest := rfl
@[simp] theorem State.onCore_test (x : State) (c : Nat) (f : Core → Core) : (x.onCore c f).test = x.test := rfl
@[simp] theorem State.onCore_meas (x : State) (c : Nat) (f : Core → Core) : (x.onCore c f).meas = x.meas := rfl
@[simp] theorem State.onCore_h1 (x : State) (c : Nat) (f : Core → Core) : (x.onCore c f).h1 = x.h1 := rfl
@[simp] theorem State.onCore_drains (x : State) (c : Nat) (f : Core → Core) : (x.onCore c f).drains = x.drains := rfl
@[simp] theorem State.onCore_opened (x : State) (c : Nat) (f : Core → Core) : (x.onCore c f).opened = x.opened := rfl

/-! The running core replaced. -/

@[simp] theorem State.setCurCore_agenda (x : State) (k : Core) : (x.setCurCore k).agenda = x.agenda := rfl
@[simp] theorem State.setCurCore_fresh (x : State) (k : Core) : (x.setCurCore k).fresh = x.fresh := rfl
@[simp] theorem State.setCurCore_cur (x : State) (k : Core) : (x.setCurCore k).cur = x.cur := rfl
@[simp] theorem State.setCurCore_stalled (x : State) (k : Core) : (x.setCurCore k).stalled = x.stalled := rfl
@[simp] theorem State.setCurCore_stitch (x : State) (k : Core) : (x.setCurCore k).stitch = x.stitch := rfl
@[simp] theorem State.setCurCore_tick (x : State) (k : Core) : (x.setCurCore k).tick = x.tick := rfl
@[simp] theorem State.setCurCore_mem (x : State) (k : Core) : (x.setCurCore k).mem = x.mem := rfl
@[simp] theorem State.setCurCore_poisoned (x : State) (k : Core) : (x.setCurCore k).poisoned = x.poisoned := rfl
@[simp] theorem State.setCurCore_coreWords (x : State) (k : Core) : (x.setCurCore k).coreWords = x.coreWords := rfl
@[simp] theorem State.setCurCore_completing (x : State) (k : Core) : (x.setCurCore k).completing = x.completing := rfl
@[simp] theorem State.setCurCore_queues (x : State) (k : Core) : (x.setCurCore k).queues = x.queues := rfl
@[simp] theorem State.setCurCore_lastQueue (x : State) (k : Core) : (x.setCurCore k).lastQueue = x.lastQueue := rfl
@[simp] theorem State.setCurCore_launches (x : State) (k : Core) : (x.setCurCore k).launches = x.launches := rfl
@[simp] theorem State.setCurCore_decision (x : State) (k : Core) : (x.setCurCore k).decision = x.decision := rfl
@[simp] theorem State.setCurCore_gangs (x : State) (k : Core) : (x.setCurCore k).gangs = x.gangs := rfl
@[simp] theorem State.setCurCore_saves (x : State) (k : Core) : (x.setCurCore k).saves = x.saves := rfl
@[simp] theorem State.setCurCore_marks (x : State) (k : Core) : (x.setCurCore k).marks = x.marks := rfl
@[simp] theorem State.setCurCore_errorLog (x : State) (k : Core) : (x.setCurCore k).errorLog = x.errorLog := rfl
@[simp] theorem State.setCurCore_linings (x : State) (k : Core) : (x.setCurCore k).linings = x.linings := rfl
@[simp] theorem State.setCurCore_tlb (x : State) (k : Core) : (x.setCurCore k).tlb = x.tlb := rfl
@[simp] theorem State.setCurCore_walks (x : State) (k : Core) : (x.setCurCore k).walks = x.walks := rfl
@[simp] theorem State.setCurCore_arrivals (x : State) (k : Core) : (x.setCurCore k).arrivals = x.arrivals := rfl
@[simp] theorem State.setCurCore_tables (x : State) (k : Core) : (x.setCurCore k).tables = x.tables := rfl
@[simp] theorem State.setCurCore_node (x : State) (k : Core) : (x.setCurCore k).node = x.node := rfl
@[simp] theorem State.setCurCore_unreachable (x : State) (k : Core) : (x.setCurCore k).unreachable = x.unreachable := rfl
@[simp] theorem State.setCurCore_remoteSeq (x : State) (k : Core) : (x.setCurCore k).remoteSeq = x.remoteSeq := rfl
@[simp] theorem State.setCurCore_cmaps (x : State) (k : Core) : (x.setCurCore k).cmaps = x.cmaps := rfl
@[simp] theorem State.setCurCore_cmapsNow (x : State) (k : Core) : (x.setCurCore k).cmapsNow = x.cmapsNow := rfl
@[simp] theorem State.setCurCore_rails (x : State) (k : Core) : (x.setCurCore k).rails = x.rails := rfl
@[simp] theorem State.setCurCore_slicing (x : State) (k : Core) : (x.setCurCore k).slicing = x.slicing := rfl
@[simp] theorem State.setCurCore_powerLevel (x : State) (k : Core) : (x.setCurCore k).powerLevel = x.powerLevel := rfl
@[simp] theorem State.setCurCore_over10 (x : State) (k : Core) : (x.setCurCore k).over10 = x.over10 := rfl
@[simp] theorem State.setCurCore_over12 (x : State) (k : Core) : (x.setCurCore k).over12 = x.over12 := rfl
@[simp] theorem State.setCurCore_thermal (x : State) (k : Core) : (x.setCurCore k).thermal = x.thermal := rfl
@[simp] theorem State.setCurCore_power (x : State) (k : Core) : (x.setCurCore k).power = x.power := rfl
@[simp] theorem State.setCurCore_retraining (x : State) (k : Core) : (x.setCurCore k).retraining = x.retraining := rfl
@[simp] theorem State.setCurCore_repaired (x : State) (k : Core) : (x.setCurCore k).repaired = x.repaired := rfl
@[simp] theorem State.setCurCore_resendLimit (x : State) (k : Core) : (x.setCurCore k).resendLimit = x.resendLimit := rfl
@[simp] theorem State.setCurCore_reports (x : State) (k : Core) : (x.setCurCore k).reports = x.reports := rfl
@[simp] theorem State.setCurCore_answers (x : State) (k : Core) : (x.setCurCore k).answers = x.answers := rfl
@[simp] theorem State.setCurCore_corrected (x : State) (k : Core) : (x.setCurCore k).corrected = x.corrected := rfl
@[simp] theorem State.setCurCore_shocks (x : State) (k : Core) : (x.setCurCore k).shocks = x.shocks := rfl
@[simp] theorem State.setCurCore_shockSinceTest (x : State) (k : Core) : (x.setCurCore k).shockSinceTest = x.shockSinceTest := rfl
@[simp] theorem State.setCurCore_test (x : State) (k : Core) : (x.setCurCore k).test = x.test := rfl
@[simp] theorem State.setCurCore_meas (x : State) (k : Core) : (x.setCurCore k).meas = x.meas := rfl
@[simp] theorem State.setCurCore_h1 (x : State) (k : Core) : (x.setCurCore k).h1 = x.h1 := rfl
@[simp] theorem State.setCurCore_drains (x : State) (k : Core) : (x.setCurCore k).drains = x.drains := rfl
@[simp] theorem State.setCurCore_opened (x : State) (k : Core) : (x.setCurCore k).opened = x.opened := rfl

/-! The running slot replaced. -/

@[simp] theorem State.setCurSlot_agenda (x : State) (sl : Slot) : (x.setCurSlot sl).agenda = x.agenda := rfl
@[simp] theorem State.setCurSlot_fresh (x : State) (sl : Slot) : (x.setCurSlot sl).fresh = x.fresh := rfl
@[simp] theorem State.setCurSlot_cur (x : State) (sl : Slot) : (x.setCurSlot sl).cur = x.cur := rfl
@[simp] theorem State.setCurSlot_stalled (x : State) (sl : Slot) : (x.setCurSlot sl).stalled = x.stalled := rfl
@[simp] theorem State.setCurSlot_stitch (x : State) (sl : Slot) : (x.setCurSlot sl).stitch = x.stitch := rfl
@[simp] theorem State.setCurSlot_tick (x : State) (sl : Slot) : (x.setCurSlot sl).tick = x.tick := rfl
@[simp] theorem State.setCurSlot_mem (x : State) (sl : Slot) : (x.setCurSlot sl).mem = x.mem := rfl
@[simp] theorem State.setCurSlot_poisoned (x : State) (sl : Slot) : (x.setCurSlot sl).poisoned = x.poisoned := rfl
@[simp] theorem State.setCurSlot_coreWords (x : State) (sl : Slot) : (x.setCurSlot sl).coreWords = x.coreWords := rfl
@[simp] theorem State.setCurSlot_completing (x : State) (sl : Slot) : (x.setCurSlot sl).completing = x.completing := rfl
@[simp] theorem State.setCurSlot_queues (x : State) (sl : Slot) : (x.setCurSlot sl).queues = x.queues := rfl
@[simp] theorem State.setCurSlot_lastQueue (x : State) (sl : Slot) : (x.setCurSlot sl).lastQueue = x.lastQueue := rfl
@[simp] theorem State.setCurSlot_launches (x : State) (sl : Slot) : (x.setCurSlot sl).launches = x.launches := rfl
@[simp] theorem State.setCurSlot_decision (x : State) (sl : Slot) : (x.setCurSlot sl).decision = x.decision := rfl
@[simp] theorem State.setCurSlot_gangs (x : State) (sl : Slot) : (x.setCurSlot sl).gangs = x.gangs := rfl
@[simp] theorem State.setCurSlot_saves (x : State) (sl : Slot) : (x.setCurSlot sl).saves = x.saves := rfl
@[simp] theorem State.setCurSlot_marks (x : State) (sl : Slot) : (x.setCurSlot sl).marks = x.marks := rfl
@[simp] theorem State.setCurSlot_errorLog (x : State) (sl : Slot) : (x.setCurSlot sl).errorLog = x.errorLog := rfl
@[simp] theorem State.setCurSlot_linings (x : State) (sl : Slot) : (x.setCurSlot sl).linings = x.linings := rfl
@[simp] theorem State.setCurSlot_tlb (x : State) (sl : Slot) : (x.setCurSlot sl).tlb = x.tlb := rfl
@[simp] theorem State.setCurSlot_walks (x : State) (sl : Slot) : (x.setCurSlot sl).walks = x.walks := rfl
@[simp] theorem State.setCurSlot_arrivals (x : State) (sl : Slot) : (x.setCurSlot sl).arrivals = x.arrivals := rfl
@[simp] theorem State.setCurSlot_tables (x : State) (sl : Slot) : (x.setCurSlot sl).tables = x.tables := rfl
@[simp] theorem State.setCurSlot_node (x : State) (sl : Slot) : (x.setCurSlot sl).node = x.node := rfl
@[simp] theorem State.setCurSlot_unreachable (x : State) (sl : Slot) : (x.setCurSlot sl).unreachable = x.unreachable := rfl
@[simp] theorem State.setCurSlot_remoteSeq (x : State) (sl : Slot) : (x.setCurSlot sl).remoteSeq = x.remoteSeq := rfl
@[simp] theorem State.setCurSlot_cmaps (x : State) (sl : Slot) : (x.setCurSlot sl).cmaps = x.cmaps := rfl
@[simp] theorem State.setCurSlot_cmapsNow (x : State) (sl : Slot) : (x.setCurSlot sl).cmapsNow = x.cmapsNow := rfl
@[simp] theorem State.setCurSlot_rails (x : State) (sl : Slot) : (x.setCurSlot sl).rails = x.rails := rfl
@[simp] theorem State.setCurSlot_slicing (x : State) (sl : Slot) : (x.setCurSlot sl).slicing = x.slicing := rfl
@[simp] theorem State.setCurSlot_powerLevel (x : State) (sl : Slot) : (x.setCurSlot sl).powerLevel = x.powerLevel := rfl
@[simp] theorem State.setCurSlot_over10 (x : State) (sl : Slot) : (x.setCurSlot sl).over10 = x.over10 := rfl
@[simp] theorem State.setCurSlot_over12 (x : State) (sl : Slot) : (x.setCurSlot sl).over12 = x.over12 := rfl
@[simp] theorem State.setCurSlot_thermal (x : State) (sl : Slot) : (x.setCurSlot sl).thermal = x.thermal := rfl
@[simp] theorem State.setCurSlot_power (x : State) (sl : Slot) : (x.setCurSlot sl).power = x.power := rfl
@[simp] theorem State.setCurSlot_retraining (x : State) (sl : Slot) : (x.setCurSlot sl).retraining = x.retraining := rfl
@[simp] theorem State.setCurSlot_repaired (x : State) (sl : Slot) : (x.setCurSlot sl).repaired = x.repaired := rfl
@[simp] theorem State.setCurSlot_resendLimit (x : State) (sl : Slot) : (x.setCurSlot sl).resendLimit = x.resendLimit := rfl
@[simp] theorem State.setCurSlot_reports (x : State) (sl : Slot) : (x.setCurSlot sl).reports = x.reports := rfl
@[simp] theorem State.setCurSlot_answers (x : State) (sl : Slot) : (x.setCurSlot sl).answers = x.answers := rfl
@[simp] theorem State.setCurSlot_corrected (x : State) (sl : Slot) : (x.setCurSlot sl).corrected = x.corrected := rfl
@[simp] theorem State.setCurSlot_shocks (x : State) (sl : Slot) : (x.setCurSlot sl).shocks = x.shocks := rfl
@[simp] theorem State.setCurSlot_shockSinceTest (x : State) (sl : Slot) : (x.setCurSlot sl).shockSinceTest = x.shockSinceTest := rfl
@[simp] theorem State.setCurSlot_test (x : State) (sl : Slot) : (x.setCurSlot sl).test = x.test := rfl
@[simp] theorem State.setCurSlot_meas (x : State) (sl : Slot) : (x.setCurSlot sl).meas = x.meas := rfl
@[simp] theorem State.setCurSlot_h1 (x : State) (sl : Slot) : (x.setCurSlot sl).h1 = x.h1 := rfl
@[simp] theorem State.setCurSlot_drains (x : State) (sl : Slot) : (x.setCurSlot sl).drains = x.drains := rfl
@[simp] theorem State.setCurSlot_opened (x : State) (sl : Slot) : (x.setCurSlot sl).opened = x.opened := rfl

/-! A queue replaced. -/

@[simp] theorem State.setQueue_agenda (x : State) (q : Nat) (y : Queue) : (x.setQueue q y).agenda = x.agenda := rfl
@[simp] theorem State.setQueue_fresh (x : State) (q : Nat) (y : Queue) : (x.setQueue q y).fresh = x.fresh := rfl
@[simp] theorem State.setQueue_cur (x : State) (q : Nat) (y : Queue) : (x.setQueue q y).cur = x.cur := rfl
@[simp] theorem State.setQueue_stalled (x : State) (q : Nat) (y : Queue) : (x.setQueue q y).stalled = x.stalled := rfl
@[simp] theorem State.setQueue_stitch (x : State) (q : Nat) (y : Queue) : (x.setQueue q y).stitch = x.stitch := rfl
@[simp] theorem State.setQueue_tick (x : State) (q : Nat) (y : Queue) : (x.setQueue q y).tick = x.tick := rfl
@[simp] theorem State.setQueue_mem (x : State) (q : Nat) (y : Queue) : (x.setQueue q y).mem = x.mem := rfl
@[simp] theorem State.setQueue_poisoned (x : State) (q : Nat) (y : Queue) : (x.setQueue q y).poisoned = x.poisoned := rfl
@[simp] theorem State.setQueue_coreWords (x : State) (q : Nat) (y : Queue) : (x.setQueue q y).coreWords = x.coreWords := rfl
@[simp] theorem State.setQueue_completing (x : State) (q : Nat) (y : Queue) : (x.setQueue q y).completing = x.completing := rfl
@[simp] theorem State.setQueue_cores (x : State) (q : Nat) (y : Queue) : (x.setQueue q y).cores = x.cores := rfl
@[simp] theorem State.setQueue_lastQueue (x : State) (q : Nat) (y : Queue) : (x.setQueue q y).lastQueue = x.lastQueue := rfl
@[simp] theorem State.setQueue_launches (x : State) (q : Nat) (y : Queue) : (x.setQueue q y).launches = x.launches := rfl
@[simp] theorem State.setQueue_decision (x : State) (q : Nat) (y : Queue) : (x.setQueue q y).decision = x.decision := rfl
@[simp] theorem State.setQueue_gangs (x : State) (q : Nat) (y : Queue) : (x.setQueue q y).gangs = x.gangs := rfl
@[simp] theorem State.setQueue_saves (x : State) (q : Nat) (y : Queue) : (x.setQueue q y).saves = x.saves := rfl
@[simp] theorem State.setQueue_marks (x : State) (q : Nat) (y : Queue) : (x.setQueue q y).marks = x.marks := rfl
@[simp] theorem State.setQueue_errorLog (x : State) (q : Nat) (y : Queue) : (x.setQueue q y).errorLog = x.errorLog := rfl
@[simp] theorem State.setQueue_linings (x : State) (q : Nat) (y : Queue) : (x.setQueue q y).linings = x.linings := rfl
@[simp] theorem State.setQueue_tlb (x : State) (q : Nat) (y : Queue) : (x.setQueue q y).tlb = x.tlb := rfl
@[simp] theorem State.setQueue_walks (x : State) (q : Nat) (y : Queue) : (x.setQueue q y).walks = x.walks := rfl
@[simp] theorem State.setQueue_arrivals (x : State) (q : Nat) (y : Queue) : (x.setQueue q y).arrivals = x.arrivals := rfl
@[simp] theorem State.setQueue_tables (x : State) (q : Nat) (y : Queue) : (x.setQueue q y).tables = x.tables := rfl
@[simp] theorem State.setQueue_node (x : State) (q : Nat) (y : Queue) : (x.setQueue q y).node = x.node := rfl
@[simp] theorem State.setQueue_unreachable (x : State) (q : Nat) (y : Queue) : (x.setQueue q y).unreachable = x.unreachable := rfl
@[simp] theorem State.setQueue_remoteSeq (x : State) (q : Nat) (y : Queue) : (x.setQueue q y).remoteSeq = x.remoteSeq := rfl
@[simp] theorem State.setQueue_cmaps (x : State) (q : Nat) (y : Queue) : (x.setQueue q y).cmaps = x.cmaps := rfl
@[simp] theorem State.setQueue_cmapsNow (x : State) (q : Nat) (y : Queue) : (x.setQueue q y).cmapsNow = x.cmapsNow := rfl
@[simp] theorem State.setQueue_rails (x : State) (q : Nat) (y : Queue) : (x.setQueue q y).rails = x.rails := rfl
@[simp] theorem State.setQueue_slicing (x : State) (q : Nat) (y : Queue) : (x.setQueue q y).slicing = x.slicing := rfl
@[simp] theorem State.setQueue_powerLevel (x : State) (q : Nat) (y : Queue) : (x.setQueue q y).powerLevel = x.powerLevel := rfl
@[simp] theorem State.setQueue_over10 (x : State) (q : Nat) (y : Queue) : (x.setQueue q y).over10 = x.over10 := rfl
@[simp] theorem State.setQueue_over12 (x : State) (q : Nat) (y : Queue) : (x.setQueue q y).over12 = x.over12 := rfl
@[simp] theorem State.setQueue_thermal (x : State) (q : Nat) (y : Queue) : (x.setQueue q y).thermal = x.thermal := rfl
@[simp] theorem State.setQueue_power (x : State) (q : Nat) (y : Queue) : (x.setQueue q y).power = x.power := rfl
@[simp] theorem State.setQueue_retraining (x : State) (q : Nat) (y : Queue) : (x.setQueue q y).retraining = x.retraining := rfl
@[simp] theorem State.setQueue_repaired (x : State) (q : Nat) (y : Queue) : (x.setQueue q y).repaired = x.repaired := rfl
@[simp] theorem State.setQueue_resendLimit (x : State) (q : Nat) (y : Queue) : (x.setQueue q y).resendLimit = x.resendLimit := rfl
@[simp] theorem State.setQueue_reports (x : State) (q : Nat) (y : Queue) : (x.setQueue q y).reports = x.reports := rfl
@[simp] theorem State.setQueue_answers (x : State) (q : Nat) (y : Queue) : (x.setQueue q y).answers = x.answers := rfl
@[simp] theorem State.setQueue_corrected (x : State) (q : Nat) (y : Queue) : (x.setQueue q y).corrected = x.corrected := rfl
@[simp] theorem State.setQueue_shocks (x : State) (q : Nat) (y : Queue) : (x.setQueue q y).shocks = x.shocks := rfl
@[simp] theorem State.setQueue_shockSinceTest (x : State) (q : Nat) (y : Queue) : (x.setQueue q y).shockSinceTest = x.shockSinceTest := rfl
@[simp] theorem State.setQueue_test (x : State) (q : Nat) (y : Queue) : (x.setQueue q y).test = x.test := rfl
@[simp] theorem State.setQueue_meas (x : State) (q : Nat) (y : Queue) : (x.setQueue q y).meas = x.meas := rfl
@[simp] theorem State.setQueue_h1 (x : State) (q : Nat) (y : Queue) : (x.setQueue q y).h1 = x.h1 := rfl
@[simp] theorem State.setQueue_drains (x : State) (q : Nat) (y : Queue) : (x.setQueue q y).drains = x.drains := rfl
@[simp] theorem State.setQueue_opened (x : State) (q : Nat) (y : Queue) : (x.setQueue q y).opened = x.opened := rfl

/-! Bytes stored. -/

@[simp] theorem State.storeBytes_agenda (x : State) (a : Nat) (bs : List Byte) : (x.storeBytes a bs).agenda = x.agenda := rfl
@[simp] theorem State.storeBytes_fresh (x : State) (a : Nat) (bs : List Byte) : (x.storeBytes a bs).fresh = x.fresh := rfl
@[simp] theorem State.storeBytes_cur (x : State) (a : Nat) (bs : List Byte) : (x.storeBytes a bs).cur = x.cur := rfl
@[simp] theorem State.storeBytes_stalled (x : State) (a : Nat) (bs : List Byte) : (x.storeBytes a bs).stalled = x.stalled := rfl
@[simp] theorem State.storeBytes_stitch (x : State) (a : Nat) (bs : List Byte) : (x.storeBytes a bs).stitch = x.stitch := rfl
@[simp] theorem State.storeBytes_tick (x : State) (a : Nat) (bs : List Byte) : (x.storeBytes a bs).tick = x.tick := rfl
@[simp] theorem State.storeBytes_coreWords (x : State) (a : Nat) (bs : List Byte) : (x.storeBytes a bs).coreWords = x.coreWords := rfl
@[simp] theorem State.storeBytes_completing (x : State) (a : Nat) (bs : List Byte) : (x.storeBytes a bs).completing = x.completing := rfl
@[simp] theorem State.storeBytes_cores (x : State) (a : Nat) (bs : List Byte) : (x.storeBytes a bs).cores = x.cores := rfl
@[simp] theorem State.storeBytes_queues (x : State) (a : Nat) (bs : List Byte) : (x.storeBytes a bs).queues = x.queues := rfl
@[simp] theorem State.storeBytes_lastQueue (x : State) (a : Nat) (bs : List Byte) : (x.storeBytes a bs).lastQueue = x.lastQueue := rfl
@[simp] theorem State.storeBytes_launches (x : State) (a : Nat) (bs : List Byte) : (x.storeBytes a bs).launches = x.launches := rfl
@[simp] theorem State.storeBytes_decision (x : State) (a : Nat) (bs : List Byte) : (x.storeBytes a bs).decision = x.decision := rfl
@[simp] theorem State.storeBytes_gangs (x : State) (a : Nat) (bs : List Byte) : (x.storeBytes a bs).gangs = x.gangs := rfl
@[simp] theorem State.storeBytes_saves (x : State) (a : Nat) (bs : List Byte) : (x.storeBytes a bs).saves = x.saves := rfl
@[simp] theorem State.storeBytes_marks (x : State) (a : Nat) (bs : List Byte) : (x.storeBytes a bs).marks = x.marks := rfl
@[simp] theorem State.storeBytes_errorLog (x : State) (a : Nat) (bs : List Byte) : (x.storeBytes a bs).errorLog = x.errorLog := rfl
@[simp] theorem State.storeBytes_linings (x : State) (a : Nat) (bs : List Byte) : (x.storeBytes a bs).linings = x.linings := rfl
@[simp] theorem State.storeBytes_tlb (x : State) (a : Nat) (bs : List Byte) : (x.storeBytes a bs).tlb = x.tlb := rfl
@[simp] theorem State.storeBytes_walks (x : State) (a : Nat) (bs : List Byte) : (x.storeBytes a bs).walks = x.walks := rfl
@[simp] theorem State.storeBytes_arrivals (x : State) (a : Nat) (bs : List Byte) : (x.storeBytes a bs).arrivals = x.arrivals := rfl
@[simp] theorem State.storeBytes_tables (x : State) (a : Nat) (bs : List Byte) : (x.storeBytes a bs).tables = x.tables := rfl
@[simp] theorem State.storeBytes_node (x : State) (a : Nat) (bs : List Byte) : (x.storeBytes a bs).node = x.node := rfl
@[simp] theorem State.storeBytes_unreachable (x : State) (a : Nat) (bs : List Byte) : (x.storeBytes a bs).unreachable = x.unreachable := rfl
@[simp] theorem State.storeBytes_remoteSeq (x : State) (a : Nat) (bs : List Byte) : (x.storeBytes a bs).remoteSeq = x.remoteSeq := rfl
@[simp] theorem State.storeBytes_cmaps (x : State) (a : Nat) (bs : List Byte) : (x.storeBytes a bs).cmaps = x.cmaps := rfl
@[simp] theorem State.storeBytes_cmapsNow (x : State) (a : Nat) (bs : List Byte) : (x.storeBytes a bs).cmapsNow = x.cmapsNow := rfl
@[simp] theorem State.storeBytes_rails (x : State) (a : Nat) (bs : List Byte) : (x.storeBytes a bs).rails = x.rails := rfl
@[simp] theorem State.storeBytes_slicing (x : State) (a : Nat) (bs : List Byte) : (x.storeBytes a bs).slicing = x.slicing := rfl
@[simp] theorem State.storeBytes_powerLevel (x : State) (a : Nat) (bs : List Byte) : (x.storeBytes a bs).powerLevel = x.powerLevel := rfl
@[simp] theorem State.storeBytes_over10 (x : State) (a : Nat) (bs : List Byte) : (x.storeBytes a bs).over10 = x.over10 := rfl
@[simp] theorem State.storeBytes_over12 (x : State) (a : Nat) (bs : List Byte) : (x.storeBytes a bs).over12 = x.over12 := rfl
@[simp] theorem State.storeBytes_thermal (x : State) (a : Nat) (bs : List Byte) : (x.storeBytes a bs).thermal = x.thermal := rfl
@[simp] theorem State.storeBytes_power (x : State) (a : Nat) (bs : List Byte) : (x.storeBytes a bs).power = x.power := rfl
@[simp] theorem State.storeBytes_retraining (x : State) (a : Nat) (bs : List Byte) : (x.storeBytes a bs).retraining = x.retraining := rfl
@[simp] theorem State.storeBytes_repaired (x : State) (a : Nat) (bs : List Byte) : (x.storeBytes a bs).repaired = x.repaired := rfl
@[simp] theorem State.storeBytes_resendLimit (x : State) (a : Nat) (bs : List Byte) : (x.storeBytes a bs).resendLimit = x.resendLimit := rfl
@[simp] theorem State.storeBytes_reports (x : State) (a : Nat) (bs : List Byte) : (x.storeBytes a bs).reports = x.reports := rfl
@[simp] theorem State.storeBytes_answers (x : State) (a : Nat) (bs : List Byte) : (x.storeBytes a bs).answers = x.answers := rfl
@[simp] theorem State.storeBytes_corrected (x : State) (a : Nat) (bs : List Byte) : (x.storeBytes a bs).corrected = x.corrected := rfl
@[simp] theorem State.storeBytes_shocks (x : State) (a : Nat) (bs : List Byte) : (x.storeBytes a bs).shocks = x.shocks := rfl
@[simp] theorem State.storeBytes_shockSinceTest (x : State) (a : Nat) (bs : List Byte) : (x.storeBytes a bs).shockSinceTest = x.shockSinceTest := rfl
@[simp] theorem State.storeBytes_test (x : State) (a : Nat) (bs : List Byte) : (x.storeBytes a bs).test = x.test := rfl
@[simp] theorem State.storeBytes_meas (x : State) (a : Nat) (bs : List Byte) : (x.storeBytes a bs).meas = x.meas := rfl
@[simp] theorem State.storeBytes_h1 (x : State) (a : Nat) (bs : List Byte) : (x.storeBytes a bs).h1 = x.h1 := rfl
@[simp] theorem State.storeBytes_drains (x : State) (a : Nat) (bs : List Byte) : (x.storeBytes a bs).drains = x.drains := rfl
@[simp] theorem State.storeBytes_opened (x : State) (a : Nat) (bs : List Byte) : (x.storeBytes a bs).opened = x.opened := rfl

/-! A slot replaced. -/

@[simp] theorem Core.setSlot_domain (x : Core) (n : Nat) (sl : Slot) : (x.setSlot n sl).domain = x.domain := rfl
@[simp] theorem Core.setSlot_ptbase (x : Core) (n : Nat) (sl : Slot) : (x.setSlot n sl).ptbase = x.ptbase := rfl
@[simp] theorem Core.setSlot_wdog (x : Core) (n : Nat) (sl : Slot) : (x.setSlot n sl).wdog = x.wdog := rfl
@[simp] theorem Core.setSlot_memto (x : Core) (n : Nat) (sl : Slot) : (x.setSlot n sl).memto = x.memto := rfl
@[simp] theorem Core.setSlot_sgate (x : Core) (n : Nat) (sl : Slot) : (x.setSlot n sl).sgate = x.sgate := rfl
@[simp] theorem Core.setSlot_mxr (x : Core) (n : Nat) (sl : Slot) : (x.setSlot n sl).mxr = x.mxr := rfl
@[simp] theorem Core.setSlot_cpr (x : Core) (n : Nat) (sl : Slot) : (x.setSlot n sl).cpr = x.cpr := rfl
@[simp] theorem Core.setSlot_mxRail (x : Core) (n : Nat) (sl : Slot) : (x.setSlot n sl).mxRail = x.mxRail := rfl
@[simp] theorem Core.setSlot_cpRail (x : Core) (n : Nat) (sl : Slot) : (x.setSlot n sl).cpRail = x.cpRail := rfl
@[simp] theorem Core.setSlot_permits (x : Core) (n : Nat) (sl : Slot) : (x.setSlot n sl).permits = x.permits := rfl
@[simp] theorem Core.setSlot_permitsNow (x : Core) (n : Nat) (sl : Slot) : (x.setSlot n sl).permitsNow = x.permitsNow := rfl
@[simp] theorem Core.setSlot_budget (x : Core) (n : Nat) (sl : Slot) : (x.setSlot n sl).budget = x.budget := rfl
@[simp] theorem Core.setSlot_budgetNow (x : Core) (n : Nat) (sl : Slot) : (x.setSlot n sl).budgetNow = x.budgetNow := rfl
@[simp] theorem Core.setSlot_budgetHeld (x : Core) (n : Nat) (sl : Slot) : (x.setSlot n sl).budgetHeld = x.budgetHeld := rfl
@[simp] theorem Core.setSlot_heldNow (x : Core) (n : Nat) (sl : Slot) : (x.setSlot n sl).heldNow = x.heldNow := rfl
@[simp] theorem Core.setSlot_budgetLeft (x : Core) (n : Nat) (sl : Slot) : (x.setSlot n sl).budgetLeft = x.budgetLeft := rfl
@[simp] theorem Core.setSlot_mxLeft (x : Core) (n : Nat) (sl : Slot) : (x.setSlot n sl).mxLeft = x.mxLeft := rfl
@[simp] theorem Core.setSlot_refilled (x : Core) (n : Nat) (sl : Slot) : (x.setSlot n sl).refilled = x.refilled := rfl
@[simp] theorem Core.setSlot_reloaded (x : Core) (n : Nat) (sl : Slot) : (x.setSlot n sl).reloaded = x.reloaded := rfl
@[simp] theorem Core.setSlot_clasps (x : Core) (n : Nat) (sl : Slot) : (x.setSlot n sl).clasps = x.clasps := rfl
@[simp] theorem Core.setSlot_lastSlot (x : Core) (n : Nat) (sl : Slot) : (x.setSlot n sl).lastSlot = x.lastSlot := rfl
@[simp] theorem Core.setSlot_chans (x : Core) (n : Nat) (sl : Slot) : (x.setSlot n sl).chans = x.chans := rfl
@[simp] theorem Core.setSlot_lastChan (x : Core) (n : Nat) (sl : Slot) : (x.setSlot n sl).lastChan = x.lastChan := rfl
@[simp] theorem Core.setSlot_serial (x : Core) (n : Nat) (sl : Slot) : (x.setSlot n sl).serial = x.serial := rfl
@[simp] theorem Core.setSlot_conts (x : Core) (n : Nat) (sl : Slot) : (x.setSlot n sl).conts = x.conts := rfl
@[simp] theorem Core.setSlot_frecs (x : Core) (n : Nat) (sl : Slot) : (x.setSlot n sl).frecs = x.frecs := rfl
@[simp] theorem Core.setSlot_heldReports (x : Core) (n : Nat) (sl : Slot) : (x.setSlot n sl).heldReports = x.heldReports := rfl
@[simp] theorem Core.setSlot_records (x : Core) (n : Nat) (sl : Slot) : (x.setSlot n sl).records = x.records := rfl
@[simp] theorem Core.setSlot_badRecords (x : Core) (n : Nat) (sl : Slot) : (x.setSlot n sl).badRecords = x.badRecords := rfl
@[simp] theorem Core.setSlot_sbs (x : Core) (n : Nat) (sl : Slot) : (x.setSlot n sl).sbs = x.sbs := rfl
@[simp] theorem Core.setSlot_cvPriv (x : Core) (n : Nat) (sl : Slot) : (x.setSlot n sl).cvPriv = x.cvPriv := rfl
@[simp] theorem Core.setSlot_gangs (x : Core) (n : Nat) (sl : Slot) : (x.setSlot n sl).gangs = x.gangs := rfl
@[simp] theorem Core.setSlot_ibuf (x : Core) (n : Nat) (sl : Slot) : (x.setSlot n sl).ibuf = x.ibuf := rfl
@[simp] theorem Core.setSlot_store (x : Core) (n : Nat) (sl : Slot) : (x.setSlot n sl).store = x.store := rfl
@[simp] theorem Core.setSlot_fetches (x : Core) (n : Nat) (sl : Slot) : (x.setSlot n sl).fetches = x.fetches := rfl
@[simp] theorem Core.setSlot_reqs (x : Core) (n : Nat) (sl : Slot) : (x.setSlot n sl).reqs = x.reqs := rfl
@[simp] theorem Core.setSlot_nextReq (x : Core) (n : Nat) (sl : Slot) : (x.setSlot n sl).nextReq = x.nextReq := rfl
@[simp] theorem Core.setSlot_xus (x : Core) (n : Nat) (sl : Slot) : (x.setSlot n sl).xus = x.xus := rfl
@[simp] theorem Core.setSlot_scfgs (x : Core) (n : Nat) (sl : Slot) : (x.setSlot n sl).scfgs = x.scfgs := rfl
@[simp] theorem Core.setSlot_regions (x : Core) (n : Nat) (sl : Slot) : (x.setSlot n sl).regions = x.regions := rfl
@[simp] theorem Core.setSlot_tiles (x : Core) (n : Nat) (sl : Slot) : (x.setSlot n sl).tiles = x.tiles := rfl
@[simp] theorem Core.setSlot_mxq (x : Core) (n : Nat) (sl : Slot) : (x.setSlot n sl).mxq = x.mxq := rfl
@[simp] theorem Core.setSlot_nextTok (x : Core) (n : Nat) (sl : Slot) : (x.setSlot n sl).nextTok = x.nextTok := rfl
@[simp] theorem Core.setSlot_mxLast (x : Core) (n : Nat) (sl : Slot) : (x.setSlot n sl).mxLast = x.mxLast := rfl
@[simp] theorem Core.setSlot_router (x : Core) (n : Nat) (sl : Slot) : (x.setSlot n sl).router = x.router := rfl
@[simp] theorem Core.setSlot_gated (x : Core) (n : Nat) (sl : Slot) : (x.setSlot n sl).gated = x.gated := rfl
@[simp] theorem Core.setSlot_idle (x : Core) (n : Nat) (sl : Slot) : (x.setSlot n sl).idle = x.idle := rfl
@[simp] theorem Core.setSlot_patchRails (x : Core) (n : Nat) (sl : Slot) : (x.setSlot n sl).patchRails = x.patchRails := rfl
@[simp] theorem Core.setSlot_withheld (x : Core) (n : Nat) (sl : Slot) : (x.setSlot n sl).withheld = x.withheld := rfl
@[simp] theorem Core.setSlot_tlb (x : Core) (n : Nat) (sl : Slot) : (x.setSlot n sl).tlb = x.tlb := rfl

/-! A channel replaced. -/

@[simp] theorem Core.setChan_domain (x : Core) (n : Nat) (c : Chan) : (x.setChan n c).domain = x.domain := rfl
@[simp] theorem Core.setChan_ptbase (x : Core) (n : Nat) (c : Chan) : (x.setChan n c).ptbase = x.ptbase := rfl
@[simp] theorem Core.setChan_wdog (x : Core) (n : Nat) (c : Chan) : (x.setChan n c).wdog = x.wdog := rfl
@[simp] theorem Core.setChan_memto (x : Core) (n : Nat) (c : Chan) : (x.setChan n c).memto = x.memto := rfl
@[simp] theorem Core.setChan_sgate (x : Core) (n : Nat) (c : Chan) : (x.setChan n c).sgate = x.sgate := rfl
@[simp] theorem Core.setChan_mxr (x : Core) (n : Nat) (c : Chan) : (x.setChan n c).mxr = x.mxr := rfl
@[simp] theorem Core.setChan_cpr (x : Core) (n : Nat) (c : Chan) : (x.setChan n c).cpr = x.cpr := rfl
@[simp] theorem Core.setChan_mxRail (x : Core) (n : Nat) (c : Chan) : (x.setChan n c).mxRail = x.mxRail := rfl
@[simp] theorem Core.setChan_cpRail (x : Core) (n : Nat) (c : Chan) : (x.setChan n c).cpRail = x.cpRail := rfl
@[simp] theorem Core.setChan_permits (x : Core) (n : Nat) (c : Chan) : (x.setChan n c).permits = x.permits := rfl
@[simp] theorem Core.setChan_permitsNow (x : Core) (n : Nat) (c : Chan) : (x.setChan n c).permitsNow = x.permitsNow := rfl
@[simp] theorem Core.setChan_budget (x : Core) (n : Nat) (c : Chan) : (x.setChan n c).budget = x.budget := rfl
@[simp] theorem Core.setChan_budgetNow (x : Core) (n : Nat) (c : Chan) : (x.setChan n c).budgetNow = x.budgetNow := rfl
@[simp] theorem Core.setChan_budgetHeld (x : Core) (n : Nat) (c : Chan) : (x.setChan n c).budgetHeld = x.budgetHeld := rfl
@[simp] theorem Core.setChan_heldNow (x : Core) (n : Nat) (c : Chan) : (x.setChan n c).heldNow = x.heldNow := rfl
@[simp] theorem Core.setChan_budgetLeft (x : Core) (n : Nat) (c : Chan) : (x.setChan n c).budgetLeft = x.budgetLeft := rfl
@[simp] theorem Core.setChan_mxLeft (x : Core) (n : Nat) (c : Chan) : (x.setChan n c).mxLeft = x.mxLeft := rfl
@[simp] theorem Core.setChan_refilled (x : Core) (n : Nat) (c : Chan) : (x.setChan n c).refilled = x.refilled := rfl
@[simp] theorem Core.setChan_reloaded (x : Core) (n : Nat) (c : Chan) : (x.setChan n c).reloaded = x.reloaded := rfl
@[simp] theorem Core.setChan_clasps (x : Core) (n : Nat) (c : Chan) : (x.setChan n c).clasps = x.clasps := rfl
@[simp] theorem Core.setChan_slots (x : Core) (n : Nat) (c : Chan) : (x.setChan n c).slots = x.slots := rfl
@[simp] theorem Core.setChan_lastSlot (x : Core) (n : Nat) (c : Chan) : (x.setChan n c).lastSlot = x.lastSlot := rfl
@[simp] theorem Core.setChan_lastChan (x : Core) (n : Nat) (c : Chan) : (x.setChan n c).lastChan = x.lastChan := rfl
@[simp] theorem Core.setChan_serial (x : Core) (n : Nat) (c : Chan) : (x.setChan n c).serial = x.serial := rfl
@[simp] theorem Core.setChan_conts (x : Core) (n : Nat) (c : Chan) : (x.setChan n c).conts = x.conts := rfl
@[simp] theorem Core.setChan_frecs (x : Core) (n : Nat) (c : Chan) : (x.setChan n c).frecs = x.frecs := rfl
@[simp] theorem Core.setChan_heldReports (x : Core) (n : Nat) (c : Chan) : (x.setChan n c).heldReports = x.heldReports := rfl
@[simp] theorem Core.setChan_records (x : Core) (n : Nat) (c : Chan) : (x.setChan n c).records = x.records := rfl
@[simp] theorem Core.setChan_badRecords (x : Core) (n : Nat) (c : Chan) : (x.setChan n c).badRecords = x.badRecords := rfl
@[simp] theorem Core.setChan_sbs (x : Core) (n : Nat) (c : Chan) : (x.setChan n c).sbs = x.sbs := rfl
@[simp] theorem Core.setChan_cvPriv (x : Core) (n : Nat) (c : Chan) : (x.setChan n c).cvPriv = x.cvPriv := rfl
@[simp] theorem Core.setChan_gangs (x : Core) (n : Nat) (c : Chan) : (x.setChan n c).gangs = x.gangs := rfl
@[simp] theorem Core.setChan_ibuf (x : Core) (n : Nat) (c : Chan) : (x.setChan n c).ibuf = x.ibuf := rfl
@[simp] theorem Core.setChan_store (x : Core) (n : Nat) (c : Chan) : (x.setChan n c).store = x.store := rfl
@[simp] theorem Core.setChan_fetches (x : Core) (n : Nat) (c : Chan) : (x.setChan n c).fetches = x.fetches := rfl
@[simp] theorem Core.setChan_reqs (x : Core) (n : Nat) (c : Chan) : (x.setChan n c).reqs = x.reqs := rfl
@[simp] theorem Core.setChan_nextReq (x : Core) (n : Nat) (c : Chan) : (x.setChan n c).nextReq = x.nextReq := rfl
@[simp] theorem Core.setChan_xus (x : Core) (n : Nat) (c : Chan) : (x.setChan n c).xus = x.xus := rfl
@[simp] theorem Core.setChan_scfgs (x : Core) (n : Nat) (c : Chan) : (x.setChan n c).scfgs = x.scfgs := rfl
@[simp] theorem Core.setChan_regions (x : Core) (n : Nat) (c : Chan) : (x.setChan n c).regions = x.regions := rfl
@[simp] theorem Core.setChan_tiles (x : Core) (n : Nat) (c : Chan) : (x.setChan n c).tiles = x.tiles := rfl
@[simp] theorem Core.setChan_mxq (x : Core) (n : Nat) (c : Chan) : (x.setChan n c).mxq = x.mxq := rfl
@[simp] theorem Core.setChan_nextTok (x : Core) (n : Nat) (c : Chan) : (x.setChan n c).nextTok = x.nextTok := rfl
@[simp] theorem Core.setChan_mxLast (x : Core) (n : Nat) (c : Chan) : (x.setChan n c).mxLast = x.mxLast := rfl
@[simp] theorem Core.setChan_router (x : Core) (n : Nat) (c : Chan) : (x.setChan n c).router = x.router := rfl
@[simp] theorem Core.setChan_gated (x : Core) (n : Nat) (c : Chan) : (x.setChan n c).gated = x.gated := rfl
@[simp] theorem Core.setChan_idle (x : Core) (n : Nat) (c : Chan) : (x.setChan n c).idle = x.idle := rfl
@[simp] theorem Core.setChan_patchRails (x : Core) (n : Nat) (c : Chan) : (x.setChan n c).patchRails = x.patchRails := rfl
@[simp] theorem Core.setChan_withheld (x : Core) (n : Nat) (c : Chan) : (x.setChan n c).withheld = x.withheld := rfl
@[simp] theorem Core.setChan_tlb (x : Core) (n : Nat) (c : Chan) : (x.setChan n c).tlb = x.tlb := rfl

/-! A counter raised. -/

@[simp] theorem Core.sbInc_domain (x : Core) (n : Nat) : (x.sbInc n).domain = x.domain := rfl
@[simp] theorem Core.sbInc_ptbase (x : Core) (n : Nat) : (x.sbInc n).ptbase = x.ptbase := rfl
@[simp] theorem Core.sbInc_wdog (x : Core) (n : Nat) : (x.sbInc n).wdog = x.wdog := rfl
@[simp] theorem Core.sbInc_memto (x : Core) (n : Nat) : (x.sbInc n).memto = x.memto := rfl
@[simp] theorem Core.sbInc_sgate (x : Core) (n : Nat) : (x.sbInc n).sgate = x.sgate := rfl
@[simp] theorem Core.sbInc_mxr (x : Core) (n : Nat) : (x.sbInc n).mxr = x.mxr := rfl
@[simp] theorem Core.sbInc_cpr (x : Core) (n : Nat) : (x.sbInc n).cpr = x.cpr := rfl
@[simp] theorem Core.sbInc_mxRail (x : Core) (n : Nat) : (x.sbInc n).mxRail = x.mxRail := rfl
@[simp] theorem Core.sbInc_cpRail (x : Core) (n : Nat) : (x.sbInc n).cpRail = x.cpRail := rfl
@[simp] theorem Core.sbInc_permits (x : Core) (n : Nat) : (x.sbInc n).permits = x.permits := rfl
@[simp] theorem Core.sbInc_permitsNow (x : Core) (n : Nat) : (x.sbInc n).permitsNow = x.permitsNow := rfl
@[simp] theorem Core.sbInc_budget (x : Core) (n : Nat) : (x.sbInc n).budget = x.budget := rfl
@[simp] theorem Core.sbInc_budgetNow (x : Core) (n : Nat) : (x.sbInc n).budgetNow = x.budgetNow := rfl
@[simp] theorem Core.sbInc_budgetHeld (x : Core) (n : Nat) : (x.sbInc n).budgetHeld = x.budgetHeld := rfl
@[simp] theorem Core.sbInc_heldNow (x : Core) (n : Nat) : (x.sbInc n).heldNow = x.heldNow := rfl
@[simp] theorem Core.sbInc_budgetLeft (x : Core) (n : Nat) : (x.sbInc n).budgetLeft = x.budgetLeft := rfl
@[simp] theorem Core.sbInc_mxLeft (x : Core) (n : Nat) : (x.sbInc n).mxLeft = x.mxLeft := rfl
@[simp] theorem Core.sbInc_refilled (x : Core) (n : Nat) : (x.sbInc n).refilled = x.refilled := rfl
@[simp] theorem Core.sbInc_reloaded (x : Core) (n : Nat) : (x.sbInc n).reloaded = x.reloaded := rfl
@[simp] theorem Core.sbInc_clasps (x : Core) (n : Nat) : (x.sbInc n).clasps = x.clasps := rfl
@[simp] theorem Core.sbInc_slots (x : Core) (n : Nat) : (x.sbInc n).slots = x.slots := rfl
@[simp] theorem Core.sbInc_lastSlot (x : Core) (n : Nat) : (x.sbInc n).lastSlot = x.lastSlot := rfl
@[simp] theorem Core.sbInc_chans (x : Core) (n : Nat) : (x.sbInc n).chans = x.chans := rfl
@[simp] theorem Core.sbInc_lastChan (x : Core) (n : Nat) : (x.sbInc n).lastChan = x.lastChan := rfl
@[simp] theorem Core.sbInc_serial (x : Core) (n : Nat) : (x.sbInc n).serial = x.serial := rfl
@[simp] theorem Core.sbInc_conts (x : Core) (n : Nat) : (x.sbInc n).conts = x.conts := rfl
@[simp] theorem Core.sbInc_frecs (x : Core) (n : Nat) : (x.sbInc n).frecs = x.frecs := rfl
@[simp] theorem Core.sbInc_heldReports (x : Core) (n : Nat) : (x.sbInc n).heldReports = x.heldReports := rfl
@[simp] theorem Core.sbInc_records (x : Core) (n : Nat) : (x.sbInc n).records = x.records := rfl
@[simp] theorem Core.sbInc_badRecords (x : Core) (n : Nat) : (x.sbInc n).badRecords = x.badRecords := rfl
@[simp] theorem Core.sbInc_cvPriv (x : Core) (n : Nat) : (x.sbInc n).cvPriv = x.cvPriv := rfl
@[simp] theorem Core.sbInc_gangs (x : Core) (n : Nat) : (x.sbInc n).gangs = x.gangs := rfl
@[simp] theorem Core.sbInc_ibuf (x : Core) (n : Nat) : (x.sbInc n).ibuf = x.ibuf := rfl
@[simp] theorem Core.sbInc_store (x : Core) (n : Nat) : (x.sbInc n).store = x.store := rfl
@[simp] theorem Core.sbInc_fetches (x : Core) (n : Nat) : (x.sbInc n).fetches = x.fetches := rfl
@[simp] theorem Core.sbInc_reqs (x : Core) (n : Nat) : (x.sbInc n).reqs = x.reqs := rfl
@[simp] theorem Core.sbInc_nextReq (x : Core) (n : Nat) : (x.sbInc n).nextReq = x.nextReq := rfl
@[simp] theorem Core.sbInc_xus (x : Core) (n : Nat) : (x.sbInc n).xus = x.xus := rfl
@[simp] theorem Core.sbInc_scfgs (x : Core) (n : Nat) : (x.sbInc n).scfgs = x.scfgs := rfl
@[simp] theorem Core.sbInc_regions (x : Core) (n : Nat) : (x.sbInc n).regions = x.regions := rfl
@[simp] theorem Core.sbInc_tiles (x : Core) (n : Nat) : (x.sbInc n).tiles = x.tiles := rfl
@[simp] theorem Core.sbInc_mxq (x : Core) (n : Nat) : (x.sbInc n).mxq = x.mxq := rfl
@[simp] theorem Core.sbInc_nextTok (x : Core) (n : Nat) : (x.sbInc n).nextTok = x.nextTok := rfl
@[simp] theorem Core.sbInc_mxLast (x : Core) (n : Nat) : (x.sbInc n).mxLast = x.mxLast := rfl
@[simp] theorem Core.sbInc_router (x : Core) (n : Nat) : (x.sbInc n).router = x.router := rfl
@[simp] theorem Core.sbInc_gated (x : Core) (n : Nat) : (x.sbInc n).gated = x.gated := rfl
@[simp] theorem Core.sbInc_idle (x : Core) (n : Nat) : (x.sbInc n).idle = x.idle := rfl
@[simp] theorem Core.sbInc_patchRails (x : Core) (n : Nat) : (x.sbInc n).patchRails = x.patchRails := rfl
@[simp] theorem Core.sbInc_withheld (x : Core) (n : Nat) : (x.sbInc n).withheld = x.withheld := rfl
@[simp] theorem Core.sbInc_tlb (x : Core) (n : Nat) : (x.sbInc n).tlb = x.tlb := rfl

/-! A counter lowered. -/

@[simp] theorem Core.sbDec_domain (x : Core) (n : Nat) : (x.sbDec n).domain = x.domain := rfl
@[simp] theorem Core.sbDec_ptbase (x : Core) (n : Nat) : (x.sbDec n).ptbase = x.ptbase := rfl
@[simp] theorem Core.sbDec_wdog (x : Core) (n : Nat) : (x.sbDec n).wdog = x.wdog := rfl
@[simp] theorem Core.sbDec_memto (x : Core) (n : Nat) : (x.sbDec n).memto = x.memto := rfl
@[simp] theorem Core.sbDec_sgate (x : Core) (n : Nat) : (x.sbDec n).sgate = x.sgate := rfl
@[simp] theorem Core.sbDec_mxr (x : Core) (n : Nat) : (x.sbDec n).mxr = x.mxr := rfl
@[simp] theorem Core.sbDec_cpr (x : Core) (n : Nat) : (x.sbDec n).cpr = x.cpr := rfl
@[simp] theorem Core.sbDec_mxRail (x : Core) (n : Nat) : (x.sbDec n).mxRail = x.mxRail := rfl
@[simp] theorem Core.sbDec_cpRail (x : Core) (n : Nat) : (x.sbDec n).cpRail = x.cpRail := rfl
@[simp] theorem Core.sbDec_permits (x : Core) (n : Nat) : (x.sbDec n).permits = x.permits := rfl
@[simp] theorem Core.sbDec_permitsNow (x : Core) (n : Nat) : (x.sbDec n).permitsNow = x.permitsNow := rfl
@[simp] theorem Core.sbDec_budget (x : Core) (n : Nat) : (x.sbDec n).budget = x.budget := rfl
@[simp] theorem Core.sbDec_budgetNow (x : Core) (n : Nat) : (x.sbDec n).budgetNow = x.budgetNow := rfl
@[simp] theorem Core.sbDec_budgetHeld (x : Core) (n : Nat) : (x.sbDec n).budgetHeld = x.budgetHeld := rfl
@[simp] theorem Core.sbDec_heldNow (x : Core) (n : Nat) : (x.sbDec n).heldNow = x.heldNow := rfl
@[simp] theorem Core.sbDec_budgetLeft (x : Core) (n : Nat) : (x.sbDec n).budgetLeft = x.budgetLeft := rfl
@[simp] theorem Core.sbDec_mxLeft (x : Core) (n : Nat) : (x.sbDec n).mxLeft = x.mxLeft := rfl
@[simp] theorem Core.sbDec_refilled (x : Core) (n : Nat) : (x.sbDec n).refilled = x.refilled := rfl
@[simp] theorem Core.sbDec_reloaded (x : Core) (n : Nat) : (x.sbDec n).reloaded = x.reloaded := rfl
@[simp] theorem Core.sbDec_clasps (x : Core) (n : Nat) : (x.sbDec n).clasps = x.clasps := rfl
@[simp] theorem Core.sbDec_slots (x : Core) (n : Nat) : (x.sbDec n).slots = x.slots := rfl
@[simp] theorem Core.sbDec_lastSlot (x : Core) (n : Nat) : (x.sbDec n).lastSlot = x.lastSlot := rfl
@[simp] theorem Core.sbDec_chans (x : Core) (n : Nat) : (x.sbDec n).chans = x.chans := rfl
@[simp] theorem Core.sbDec_lastChan (x : Core) (n : Nat) : (x.sbDec n).lastChan = x.lastChan := rfl
@[simp] theorem Core.sbDec_serial (x : Core) (n : Nat) : (x.sbDec n).serial = x.serial := rfl
@[simp] theorem Core.sbDec_conts (x : Core) (n : Nat) : (x.sbDec n).conts = x.conts := rfl
@[simp] theorem Core.sbDec_frecs (x : Core) (n : Nat) : (x.sbDec n).frecs = x.frecs := rfl
@[simp] theorem Core.sbDec_heldReports (x : Core) (n : Nat) : (x.sbDec n).heldReports = x.heldReports := rfl
@[simp] theorem Core.sbDec_records (x : Core) (n : Nat) : (x.sbDec n).records = x.records := rfl
@[simp] theorem Core.sbDec_badRecords (x : Core) (n : Nat) : (x.sbDec n).badRecords = x.badRecords := rfl
@[simp] theorem Core.sbDec_cvPriv (x : Core) (n : Nat) : (x.sbDec n).cvPriv = x.cvPriv := rfl
@[simp] theorem Core.sbDec_gangs (x : Core) (n : Nat) : (x.sbDec n).gangs = x.gangs := rfl
@[simp] theorem Core.sbDec_ibuf (x : Core) (n : Nat) : (x.sbDec n).ibuf = x.ibuf := rfl
@[simp] theorem Core.sbDec_store (x : Core) (n : Nat) : (x.sbDec n).store = x.store := rfl
@[simp] theorem Core.sbDec_fetches (x : Core) (n : Nat) : (x.sbDec n).fetches = x.fetches := rfl
@[simp] theorem Core.sbDec_reqs (x : Core) (n : Nat) : (x.sbDec n).reqs = x.reqs := rfl
@[simp] theorem Core.sbDec_nextReq (x : Core) (n : Nat) : (x.sbDec n).nextReq = x.nextReq := rfl
@[simp] theorem Core.sbDec_xus (x : Core) (n : Nat) : (x.sbDec n).xus = x.xus := rfl
@[simp] theorem Core.sbDec_scfgs (x : Core) (n : Nat) : (x.sbDec n).scfgs = x.scfgs := rfl
@[simp] theorem Core.sbDec_regions (x : Core) (n : Nat) : (x.sbDec n).regions = x.regions := rfl
@[simp] theorem Core.sbDec_tiles (x : Core) (n : Nat) : (x.sbDec n).tiles = x.tiles := rfl
@[simp] theorem Core.sbDec_mxq (x : Core) (n : Nat) : (x.sbDec n).mxq = x.mxq := rfl
@[simp] theorem Core.sbDec_nextTok (x : Core) (n : Nat) : (x.sbDec n).nextTok = x.nextTok := rfl
@[simp] theorem Core.sbDec_mxLast (x : Core) (n : Nat) : (x.sbDec n).mxLast = x.mxLast := rfl
@[simp] theorem Core.sbDec_router (x : Core) (n : Nat) : (x.sbDec n).router = x.router := rfl
@[simp] theorem Core.sbDec_gated (x : Core) (n : Nat) : (x.sbDec n).gated = x.gated := rfl
@[simp] theorem Core.sbDec_idle (x : Core) (n : Nat) : (x.sbDec n).idle = x.idle := rfl
@[simp] theorem Core.sbDec_patchRails (x : Core) (n : Nat) : (x.sbDec n).patchRails = x.patchRails := rfl
@[simp] theorem Core.sbDec_withheld (x : Core) (n : Nat) : (x.sbDec n).withheld = x.withheld := rfl
@[simp] theorem Core.sbDec_tlb (x : Core) (n : Nat) : (x.sbDec n).tlb = x.tlb := rfl

/-! A request changed. -/

@[simp] theorem Core.onReq_domain (x : Core) (n : Nat) (f : Req → Req) : (x.onReq n f).domain = x.domain := rfl
@[simp] theorem Core.onReq_ptbase (x : Core) (n : Nat) (f : Req → Req) : (x.onReq n f).ptbase = x.ptbase := rfl
@[simp] theorem Core.onReq_wdog (x : Core) (n : Nat) (f : Req → Req) : (x.onReq n f).wdog = x.wdog := rfl
@[simp] theorem Core.onReq_memto (x : Core) (n : Nat) (f : Req → Req) : (x.onReq n f).memto = x.memto := rfl
@[simp] theorem Core.onReq_sgate (x : Core) (n : Nat) (f : Req → Req) : (x.onReq n f).sgate = x.sgate := rfl
@[simp] theorem Core.onReq_mxr (x : Core) (n : Nat) (f : Req → Req) : (x.onReq n f).mxr = x.mxr := rfl
@[simp] theorem Core.onReq_cpr (x : Core) (n : Nat) (f : Req → Req) : (x.onReq n f).cpr = x.cpr := rfl
@[simp] theorem Core.onReq_mxRail (x : Core) (n : Nat) (f : Req → Req) : (x.onReq n f).mxRail = x.mxRail := rfl
@[simp] theorem Core.onReq_cpRail (x : Core) (n : Nat) (f : Req → Req) : (x.onReq n f).cpRail = x.cpRail := rfl
@[simp] theorem Core.onReq_permits (x : Core) (n : Nat) (f : Req → Req) : (x.onReq n f).permits = x.permits := rfl
@[simp] theorem Core.onReq_permitsNow (x : Core) (n : Nat) (f : Req → Req) : (x.onReq n f).permitsNow = x.permitsNow := rfl
@[simp] theorem Core.onReq_budget (x : Core) (n : Nat) (f : Req → Req) : (x.onReq n f).budget = x.budget := rfl
@[simp] theorem Core.onReq_budgetNow (x : Core) (n : Nat) (f : Req → Req) : (x.onReq n f).budgetNow = x.budgetNow := rfl
@[simp] theorem Core.onReq_budgetHeld (x : Core) (n : Nat) (f : Req → Req) : (x.onReq n f).budgetHeld = x.budgetHeld := rfl
@[simp] theorem Core.onReq_heldNow (x : Core) (n : Nat) (f : Req → Req) : (x.onReq n f).heldNow = x.heldNow := rfl
@[simp] theorem Core.onReq_budgetLeft (x : Core) (n : Nat) (f : Req → Req) : (x.onReq n f).budgetLeft = x.budgetLeft := rfl
@[simp] theorem Core.onReq_mxLeft (x : Core) (n : Nat) (f : Req → Req) : (x.onReq n f).mxLeft = x.mxLeft := rfl
@[simp] theorem Core.onReq_refilled (x : Core) (n : Nat) (f : Req → Req) : (x.onReq n f).refilled = x.refilled := rfl
@[simp] theorem Core.onReq_reloaded (x : Core) (n : Nat) (f : Req → Req) : (x.onReq n f).reloaded = x.reloaded := rfl
@[simp] theorem Core.onReq_clasps (x : Core) (n : Nat) (f : Req → Req) : (x.onReq n f).clasps = x.clasps := rfl
@[simp] theorem Core.onReq_slots (x : Core) (n : Nat) (f : Req → Req) : (x.onReq n f).slots = x.slots := rfl
@[simp] theorem Core.onReq_lastSlot (x : Core) (n : Nat) (f : Req → Req) : (x.onReq n f).lastSlot = x.lastSlot := rfl
@[simp] theorem Core.onReq_chans (x : Core) (n : Nat) (f : Req → Req) : (x.onReq n f).chans = x.chans := rfl
@[simp] theorem Core.onReq_lastChan (x : Core) (n : Nat) (f : Req → Req) : (x.onReq n f).lastChan = x.lastChan := rfl
@[simp] theorem Core.onReq_serial (x : Core) (n : Nat) (f : Req → Req) : (x.onReq n f).serial = x.serial := rfl
@[simp] theorem Core.onReq_conts (x : Core) (n : Nat) (f : Req → Req) : (x.onReq n f).conts = x.conts := rfl
@[simp] theorem Core.onReq_frecs (x : Core) (n : Nat) (f : Req → Req) : (x.onReq n f).frecs = x.frecs := rfl
@[simp] theorem Core.onReq_heldReports (x : Core) (n : Nat) (f : Req → Req) : (x.onReq n f).heldReports = x.heldReports := rfl
@[simp] theorem Core.onReq_records (x : Core) (n : Nat) (f : Req → Req) : (x.onReq n f).records = x.records := rfl
@[simp] theorem Core.onReq_badRecords (x : Core) (n : Nat) (f : Req → Req) : (x.onReq n f).badRecords = x.badRecords := rfl
@[simp] theorem Core.onReq_sbs (x : Core) (n : Nat) (f : Req → Req) : (x.onReq n f).sbs = x.sbs := rfl
@[simp] theorem Core.onReq_cvPriv (x : Core) (n : Nat) (f : Req → Req) : (x.onReq n f).cvPriv = x.cvPriv := rfl
@[simp] theorem Core.onReq_gangs (x : Core) (n : Nat) (f : Req → Req) : (x.onReq n f).gangs = x.gangs := rfl
@[simp] theorem Core.onReq_ibuf (x : Core) (n : Nat) (f : Req → Req) : (x.onReq n f).ibuf = x.ibuf := rfl
@[simp] theorem Core.onReq_store (x : Core) (n : Nat) (f : Req → Req) : (x.onReq n f).store = x.store := rfl
@[simp] theorem Core.onReq_fetches (x : Core) (n : Nat) (f : Req → Req) : (x.onReq n f).fetches = x.fetches := rfl
@[simp] theorem Core.onReq_nextReq (x : Core) (n : Nat) (f : Req → Req) : (x.onReq n f).nextReq = x.nextReq := rfl
@[simp] theorem Core.onReq_xus (x : Core) (n : Nat) (f : Req → Req) : (x.onReq n f).xus = x.xus := rfl
@[simp] theorem Core.onReq_scfgs (x : Core) (n : Nat) (f : Req → Req) : (x.onReq n f).scfgs = x.scfgs := rfl
@[simp] theorem Core.onReq_regions (x : Core) (n : Nat) (f : Req → Req) : (x.onReq n f).regions = x.regions := rfl
@[simp] theorem Core.onReq_tiles (x : Core) (n : Nat) (f : Req → Req) : (x.onReq n f).tiles = x.tiles := rfl
@[simp] theorem Core.onReq_mxq (x : Core) (n : Nat) (f : Req → Req) : (x.onReq n f).mxq = x.mxq := rfl
@[simp] theorem Core.onReq_nextTok (x : Core) (n : Nat) (f : Req → Req) : (x.onReq n f).nextTok = x.nextTok := rfl
@[simp] theorem Core.onReq_mxLast (x : Core) (n : Nat) (f : Req → Req) : (x.onReq n f).mxLast = x.mxLast := rfl
@[simp] theorem Core.onReq_router (x : Core) (n : Nat) (f : Req → Req) : (x.onReq n f).router = x.router := rfl
@[simp] theorem Core.onReq_gated (x : Core) (n : Nat) (f : Req → Req) : (x.onReq n f).gated = x.gated := rfl
@[simp] theorem Core.onReq_idle (x : Core) (n : Nat) (f : Req → Req) : (x.onReq n f).idle = x.idle := rfl
@[simp] theorem Core.onReq_patchRails (x : Core) (n : Nat) (f : Req → Req) : (x.onReq n f).patchRails = x.patchRails := rfl
@[simp] theorem Core.onReq_withheld (x : Core) (n : Nat) (f : Req → Req) : (x.onReq n f).withheld = x.withheld := rfl
@[simp] theorem Core.onReq_tlb (x : Core) (n : Nat) (f : Req → Req) : (x.onReq n f).tlb = x.tlb := rfl

/-! A register cell replaced. -/

@[simp] theorem Slot.setCell_status (x : Slot) (r : Reg) (c : RegCell) : (x.setCell r c).status = x.status := by unfold Slot.setCell; split <;> rfl
@[simp] theorem Slot.setCell_pc (x : Slot) (r : Reg) (c : RegCell) : (x.setCell r c).pc = x.pc := by unfold Slot.setCell; split <;> rfl
@[simp] theorem Slot.setCell_preds (x : Slot) (r : Reg) (c : RegCell) : (x.setCell r c).preds = x.preds := by unfold Slot.setCell; split <;> rfl
@[simp] theorem Slot.setCell_loops (x : Slot) (r : Reg) (c : RegCell) : (x.setCell r c).loops = x.loops := by unfold Slot.setCell; split <;> rfl
@[simp] theorem Slot.setCell_spec (x : Slot) (r : Reg) (c : RegCell) : (x.setCell r c).spec = x.spec := by unfold Slot.setCell; split <;> rfl
@[simp] theorem Slot.setCell_serial (x : Slot) (r : Reg) (c : RegCell) : (x.setCell r c).serial = x.serial := by unfold Slot.setCell; split <;> rfl
@[simp] theorem Slot.setCell_chan (x : Slot) (r : Reg) (c : RegCell) : (x.setCell r c).chan = x.chan := by unfold Slot.setCell; split <;> rfl
@[simp] theorem Slot.setCell_priv (x : Slot) (r : Reg) (c : RegCell) : (x.setCell r c).priv = x.priv := by unfold Slot.setCell; split <;> rfl
@[simp] theorem Slot.setCell_handler (x : Slot) (r : Reg) (c : RegCell) : (x.setCell r c).handler = x.handler := by unfold Slot.setCell; split <;> rfl
@[simp] theorem Slot.setCell_gang (x : Slot) (r : Reg) (c : RegCell) : (x.setCell r c).gang = x.gang := by unfold Slot.setCell; split <;> rfl
@[simp] theorem Slot.setCell_prog (x : Slot) (r : Reg) (c : RegCell) : (x.setCell r c).prog = x.prog := by unfold Slot.setCell; split <;> rfl
@[simp] theorem Slot.setCell_fromQueue (x : Slot) (r : Reg) (c : RegCell) : (x.setCell r c).fromQueue = x.fromQueue := by unfold Slot.setCell; split <;> rfl

/-! A register written. -/

@[simp] theorem Slot.write_status (x : Slot) (r : Reg) (v : Word) : (x.write r v).status = x.status := Slot.setCell_status ..
@[simp] theorem Slot.write_pc (x : Slot) (r : Reg) (v : Word) : (x.write r v).pc = x.pc := Slot.setCell_pc ..
@[simp] theorem Slot.write_preds (x : Slot) (r : Reg) (v : Word) : (x.write r v).preds = x.preds := Slot.setCell_preds ..
@[simp] theorem Slot.write_loops (x : Slot) (r : Reg) (v : Word) : (x.write r v).loops = x.loops := Slot.setCell_loops ..
@[simp] theorem Slot.write_spec (x : Slot) (r : Reg) (v : Word) : (x.write r v).spec = x.spec := Slot.setCell_spec ..
@[simp] theorem Slot.write_serial (x : Slot) (r : Reg) (v : Word) : (x.write r v).serial = x.serial := Slot.setCell_serial ..
@[simp] theorem Slot.write_chan (x : Slot) (r : Reg) (v : Word) : (x.write r v).chan = x.chan := Slot.setCell_chan ..
@[simp] theorem Slot.write_priv (x : Slot) (r : Reg) (v : Word) : (x.write r v).priv = x.priv := Slot.setCell_priv ..
@[simp] theorem Slot.write_handler (x : Slot) (r : Reg) (v : Word) : (x.write r v).handler = x.handler := Slot.setCell_handler ..
@[simp] theorem Slot.write_gang (x : Slot) (r : Reg) (v : Word) : (x.write r v).gang = x.gang := Slot.setCell_gang ..
@[simp] theorem Slot.write_prog (x : Slot) (r : Reg) (v : Word) : (x.write r v).prog = x.prog := Slot.setCell_prog ..
@[simp] theorem Slot.write_fromQueue (x : Slot) (r : Reg) (v : Word) : (x.write r v).fromQueue = x.fromQueue := Slot.setCell_fromQueue ..

/-! A register marked empty. -/

@[simp] theorem Slot.markEmpty_status (x : Slot) (r : Reg) : (x.markEmpty r).status = x.status := Slot.setCell_status ..
@[simp] theorem Slot.markEmpty_pc (x : Slot) (r : Reg) : (x.markEmpty r).pc = x.pc := Slot.setCell_pc ..
@[simp] theorem Slot.markEmpty_preds (x : Slot) (r : Reg) : (x.markEmpty r).preds = x.preds := Slot.setCell_preds ..
@[simp] theorem Slot.markEmpty_loops (x : Slot) (r : Reg) : (x.markEmpty r).loops = x.loops := Slot.setCell_loops ..
@[simp] theorem Slot.markEmpty_spec (x : Slot) (r : Reg) : (x.markEmpty r).spec = x.spec := Slot.setCell_spec ..
@[simp] theorem Slot.markEmpty_serial (x : Slot) (r : Reg) : (x.markEmpty r).serial = x.serial := Slot.setCell_serial ..
@[simp] theorem Slot.markEmpty_chan (x : Slot) (r : Reg) : (x.markEmpty r).chan = x.chan := Slot.setCell_chan ..
@[simp] theorem Slot.markEmpty_priv (x : Slot) (r : Reg) : (x.markEmpty r).priv = x.priv := Slot.setCell_priv ..
@[simp] theorem Slot.markEmpty_handler (x : Slot) (r : Reg) : (x.markEmpty r).handler = x.handler := Slot.setCell_handler ..
@[simp] theorem Slot.markEmpty_gang (x : Slot) (r : Reg) : (x.markEmpty r).gang = x.gang := Slot.setCell_gang ..
@[simp] theorem Slot.markEmpty_prog (x : Slot) (r : Reg) : (x.markEmpty r).prog = x.prog := Slot.setCell_prog ..
@[simp] theorem Slot.markEmpty_fromQueue (x : Slot) (r : Reg) : (x.markEmpty r).fromQueue = x.fromQueue := Slot.setCell_fromQueue ..

/-! A predicate written. -/

@[simp] theorem Slot.setPred_status (x : Slot) (p : PReg) (c : PredCell) : (x.setPred p c).status = x.status := by unfold Slot.setPred; split <;> rfl
@[simp] theorem Slot.setPred_pc (x : Slot) (p : PReg) (c : PredCell) : (x.setPred p c).pc = x.pc := by unfold Slot.setPred; split <;> rfl
@[simp] theorem Slot.setPred_regs (x : Slot) (p : PReg) (c : PredCell) : (x.setPred p c).regs = x.regs := by unfold Slot.setPred; split <;> rfl
@[simp] theorem Slot.setPred_loops (x : Slot) (p : PReg) (c : PredCell) : (x.setPred p c).loops = x.loops := by unfold Slot.setPred; split <;> rfl
@[simp] theorem Slot.setPred_spec (x : Slot) (p : PReg) (c : PredCell) : (x.setPred p c).spec = x.spec := by unfold Slot.setPred; split <;> rfl
@[simp] theorem Slot.setPred_serial (x : Slot) (p : PReg) (c : PredCell) : (x.setPred p c).serial = x.serial := by unfold Slot.setPred; split <;> rfl
@[simp] theorem Slot.setPred_chan (x : Slot) (p : PReg) (c : PredCell) : (x.setPred p c).chan = x.chan := by unfold Slot.setPred; split <;> rfl
@[simp] theorem Slot.setPred_priv (x : Slot) (p : PReg) (c : PredCell) : (x.setPred p c).priv = x.priv := by unfold Slot.setPred; split <;> rfl
@[simp] theorem Slot.setPred_handler (x : Slot) (p : PReg) (c : PredCell) : (x.setPred p c).handler = x.handler := by unfold Slot.setPred; split <;> rfl
@[simp] theorem Slot.setPred_gang (x : Slot) (p : PReg) (c : PredCell) : (x.setPred p c).gang = x.gang := by unfold Slot.setPred; split <;> rfl
@[simp] theorem Slot.setPred_prog (x : Slot) (p : PReg) (c : PredCell) : (x.setPred p c).prog = x.prog := by unfold Slot.setPred; split <;> rfl
@[simp] theorem Slot.setPred_fromQueue (x : Slot) (p : PReg) (c : PredCell) : (x.setPred p c).fromQueue = x.fromQueue := by unfold Slot.setPred; split <;> rfl

/-! The word completed. -/

@[simp] theorem Slot.advance_status (x : Slot) : (x.advance).status = x.status := rfl
@[simp] theorem Slot.advance_regs (x : Slot) : (x.advance).regs = x.regs := rfl
@[simp] theorem Slot.advance_preds (x : Slot) : (x.advance).preds = x.preds := rfl
@[simp] theorem Slot.advance_spec (x : Slot) : (x.advance).spec = x.spec := rfl
@[simp] theorem Slot.advance_serial (x : Slot) : (x.advance).serial = x.serial := rfl
@[simp] theorem Slot.advance_chan (x : Slot) : (x.advance).chan = x.chan := rfl
@[simp] theorem Slot.advance_priv (x : Slot) : (x.advance).priv = x.priv := rfl
@[simp] theorem Slot.advance_handler (x : Slot) : (x.advance).handler = x.handler := rfl
@[simp] theorem Slot.advance_gang (x : Slot) : (x.advance).gang = x.gang := rfl
@[simp] theorem Slot.advance_fromQueue (x : Slot) : (x.advance).fromQueue = x.fromQueue := rfl

/-! Control transferred. -/

@[simp] theorem Slot.jump_status (x : Slot) (a : Word) : (x.jump a).status = x.status := rfl
@[simp] theorem Slot.jump_regs (x : Slot) (a : Word) : (x.jump a).regs = x.regs := rfl
@[simp] theorem Slot.jump_preds (x : Slot) (a : Word) : (x.jump a).preds = x.preds := rfl
@[simp] theorem Slot.jump_spec (x : Slot) (a : Word) : (x.jump a).spec = x.spec := rfl
@[simp] theorem Slot.jump_serial (x : Slot) (a : Word) : (x.jump a).serial = x.serial := rfl
@[simp] theorem Slot.jump_chan (x : Slot) (a : Word) : (x.jump a).chan = x.chan := rfl
@[simp] theorem Slot.jump_priv (x : Slot) (a : Word) : (x.jump a).priv = x.priv := rfl
@[simp] theorem Slot.jump_handler (x : Slot) (a : Word) : (x.jump a).handler = x.handler := rfl
@[simp] theorem Slot.jump_gang (x : Slot) (a : Word) : (x.jump a).gang = x.gang := rfl
@[simp] theorem Slot.jump_prog (x : Slot) (a : Word) : (x.jump a).prog = x.prog := rfl
@[simp] theorem Slot.jump_fromQueue (x : Slot) (a : Word) : (x.jump a).fromQueue = x.fromQueue := rfl

/-! What each update writes. -/

theorem State.core_setCore (s : State) (c d : Nat) (k : Core) : (s.setCore c k).core d = if d = c then k else s.core d :=
  Tab.get_set ..

@[simp] theorem State.core_setCore_same (s : State) (c : Nat) (k : Core) : (s.setCore c k).core c = k := Tab.get_set_same ..

theorem State.core_setCore_other (s : State) {c d : Nat} (k : Core) (h : d ≠ c) : (s.setCore c k).core d = s.core d :=
  Tab.get_set_other _ _ _ h

@[simp] theorem State.core_onCore_same (s : State) (c : Nat) (f : Core → Core) : (s.onCore c f).core c = f (s.core c) :=
  Tab.get_set_same ..

theorem State.core_onCore_other (s : State) {c d : Nat} (f : Core → Core) (h : d ≠ c) : (s.onCore c f).core d = s.core d :=
  Tab.get_set_other _ _ _ h

@[simp] theorem State.curCore_setCurCore (s : State) (k : Core) : (s.setCurCore k).curCore = k := Tab.get_set_same ..

@[simp] theorem State.core_setCurCore_same (s : State) (k : Core) : (s.setCurCore k).core s.cur.core = k := Tab.get_set_same ..

theorem State.core_setCurCore_other (s : State) {d : Nat} (k : Core) (h : d ≠ s.cur.core) :
    (s.setCurCore k).core d = s.core d := Tab.get_set_other _ _ _ h

@[simp] theorem Core.slot_setSlot_same (k : Core) (n : Nat) (sl : Slot) : (k.setSlot n sl).slot n = sl := Tab.get_set_same ..

theorem Core.slot_setSlot_other (k : Core) {n m : Nat} (sl : Slot) (h : m ≠ n) : (k.setSlot n sl).slot m = k.slot m :=
  Tab.get_set_other _ _ _ h

@[simp] theorem State.curCore_setCurSlot (s : State) (sl : Slot) :
    (s.setCurSlot sl).curCore = s.curCore.setSlot s.cur.slot sl := Tab.get_set_same ..

@[simp] theorem State.curSlot_setCurSlot (s : State) (sl : Slot) : (s.setCurSlot sl).curSlot = sl := by
  simp [State.curSlot]

@[simp] theorem State.curSlot_setCurCore (s : State) (k : Core) : (s.setCurCore k).curSlot = k.slot s.cur.slot := by
  simp [State.curSlot]

@[simp] theorem Core.chan_setChan_same (k : Core) (n : Nat) (c : Chan) : (k.setChan n c).chan n = c := Tab.get_set_same ..

theorem Core.chan_setChan_other (k : Core) {n m : Nat} (c : Chan) (h : m ≠ n) : (k.setChan n c).chan m = k.chan m :=
  Tab.get_set_other _ _ _ h

@[simp] theorem Core.sb_sbInc_same (k : Core) (n : Nat) : (k.sbInc n).sb n = k.sb n + 1 := Tab.get_set_same ..

@[simp] theorem Core.sb_sbDec_same (k : Core) (n : Nat) : (k.sbDec n).sb n = k.sb n - 1 := Tab.get_set_same ..

@[simp] theorem State.queue_setQueue_same (s : State) (q : Nat) (x : Queue) : (s.setQueue q x).queue q = x :=
  Tab.get_set_same ..

theorem State.queue_setQueue_other (s : State) {q r : Nat} (x : Queue) (h : r ≠ q) : (s.setQueue q x).queue r = s.queue r :=
  Tab.get_set_other _ _ _ h

@[simp] theorem State.storeBytes_readByte (s : State) (a b : Nat) (bs : List Byte) :
    readByte (s.storeBytes a bs).mem b = if a ≤ b then (bs[b - a]?).getD (readByte s.mem b) else readByte s.mem b :=
  readByte_writeBytes ..

/-! Registers and predicates (R200, R212). -/

@[simp] theorem Slot.cell_zero (sl : Slot) : sl.cell 0 = RegCell.zero := rfl

theorem Slot.cell_setCell (sl : Slot) (r q : Reg) (c : RegCell) :
    (sl.setCell r c).cell q = if q = r ∧ r ≠ 0 then c else sl.cell q := by
  by_cases hr : r = 0
  · subst hr; simp [Slot.setCell]
  · by_cases hq : q = 0
    · subst hq; simp [Slot.cell]; intro h; exact absurd h.symm hr
    · have h : q.toNat = r.toNat ↔ q = r := ⟨fun h => BitVec.eq_of_toNat_eq h, fun h => by rw [h]⟩
      simp only [Slot.cell, Slot.setCell, hr, hq, if_false, Tab.get_set, h, ne_eq, not_false_eq_true, and_true]

/-- A write is read back from any register but g0, and from it no other register changes. -/
theorem Slot.cell_write (sl : Slot) (r q : Reg) (v : Word) :
    (sl.write r v).cell q = if q = r ∧ r ≠ 0 then ⟨v, false, none⟩ else sl.cell q := Slot.cell_setCell ..

theorem Slot.cell_markEmpty (sl : Slot) (r q : Reg) :
    (sl.markEmpty r).cell q = if q = r ∧ r ≠ 0 then { sl.cell r with empty := true } else sl.cell q := Slot.cell_setCell ..

theorem Slot.cell_refill (sl : Slot) (r q : Reg) :
    (sl.refill r).cell q = if q = r ∧ r ≠ 0 then { sl.cell r with empty := false } else sl.cell q := Slot.cell_setCell ..

theorem Slot.cell_poisonReg (sl : Slot) (r q : Reg) (t : Trap) (v : Word) :
    (sl.poisonReg r t v).cell q = if q = r ∧ r ≠ 0 then ⟨v, false, some t⟩ else sl.cell q := Slot.cell_setCell ..

@[simp] theorem Slot.cell_advance (sl : Slot) (r : Reg) : sl.advance.cell r = sl.cell r := rfl

@[simp] theorem Slot.cell_jump (sl : Slot) (a : Word) (r : Reg) : (sl.jump a).cell r = sl.cell r := rfl

@[simp] theorem Slot.cell_setPred (sl : Slot) (p : PReg) (c : PredCell) (r : Reg) : (sl.setPred p c).cell r = sl.cell r := by
  unfold Slot.setPred; split <;> rfl

@[simp] theorem Slot.pcell_zero (sl : Slot) : sl.pcell 0 = ⟨true, false⟩ := rfl

theorem Slot.pcell_setPred (sl : Slot) (p q : PReg) (c : PredCell) :
    (sl.setPred p c).pcell q = if q = p ∧ p ≠ 0 then c else sl.pcell q := by
  by_cases hp : p = 0
  · subst hp; simp [Slot.setPred]
  · by_cases hq : q = 0
    · subst hq; simp [Slot.pcell]; intro h; exact absurd h.symm hp
    · have h : q.toNat = p.toNat ↔ q = p := ⟨fun h => BitVec.eq_of_toNat_eq h, fun h => by rw [h]⟩
      simp only [Slot.pcell, Slot.setPred, hp, hq, if_false, Tab.get_set, h, ne_eq, not_false_eq_true, and_true]

@[simp] theorem Slot.pcell_setCell (sl : Slot) (r : Reg) (c : RegCell) (p : PReg) : (sl.setCell r c).pcell p = sl.pcell p := by
  unfold Slot.setCell; split <;> rfl

@[simp] theorem Slot.pcell_write (sl : Slot) (r : Reg) (v : Word) (p : PReg) : (sl.write r v).pcell p = sl.pcell p :=
  Slot.pcell_setCell ..

@[simp] theorem Slot.pcell_advance (sl : Slot) (p : PReg) : sl.advance.pcell p = sl.pcell p := rfl

@[simp] theorem Slot.pcell_jump (sl : Slot) (a : Word) (p : PReg) : (sl.jump a).pcell p = sl.pcell p := rfl

theorem Slot.advance_pc (sl : Slot) : sl.advance.pc = (endProcess sl.pc sl.loops).1 := rfl

theorem Slot.advance_loops (sl : Slot) : sl.advance.loops = (endProcess sl.pc sl.loops).2 := rfl

@[simp] theorem Slot.advance_prog (sl : Slot) : sl.advance.prog = .idle := rfl

@[simp] theorem Slot.jump_pc (sl : Slot) (a : Word) : (sl.jump a).pc = a := rfl

theorem Slot.jump_loops (sl : Slot) (a : Word) : (sl.jump a).loops = sl.loops.filter fun e => e.last != sl.pc := rfl

end Sys2Proof.Machine
end

