-- ==== Sys2Proof/Laws/Ops.lean ====
section
/-! SUPPORT. What each shared operation of the control processor may answer: the operand forms, end processing, messages, and taking an
exception. A proof about an instruction cites these and does not unfold them. -/

namespace Sys2Proof.Machine

/-! ### Operand forms -/

theorem guarded_acts {g : Guard} {s : State} {body : Out} (h : s.curSlot.pcell g.p = ⟨!g.neg, false⟩) : guarded g s body = body := by
  simp only [guarded, h, Bool.false_eq_true, if_false]
  cases g.neg <;> simp

theorem guarded_off {g : Guard} {s : State} {body : Out} (h : s.curSlot.pcell g.p = ⟨g.neg, false⟩) :
    guarded g s body = retire s.curSlot s := by
  simp [guarded, h]

theorem guarded_pending {g : Guard} {s : State} {body : Out} (h : (s.curSlot.pcell g.p).pending = true) : guarded g s body = stall s := by
  simp [guarded, h]

/-- Everything a guarded word may come to. -/
theorem guarded_cases (g : Guard) (s : State) (body : Out) :
    guarded g s body = stall s ∨ guarded g s body = retire s.curSlot s ∨ guarded g s body = body := by
  unfold guarded
  by_cases h : (s.curSlot.pcell g.p).pending = true
  · simp [h]
  · by_cases h' : ((s.curSlot.pcell g.p).v == g.neg) = true <;> simp [h, h']

theorem withReg_full {r : Reg} {fe : Bool} {s : State} {body : Word → Out} {v : Word} (h : s.curSlot.cell r = ⟨v, false, none⟩) :
    withReg r fe s body = body v := by
  simp [withReg, Slot.read, h]

theorem withReg_empty {r : Reg} {s : State} {body : Word → Out} (h : (s.curSlot.cell r).empty = true) :
    withReg r false s body = stall s ∧
      withReg r true s body = trap { cause := .empty, info1 := r.setWidth 64 } s := by
  simp [withReg, Slot.read, h]

theorem withReg_poisoned {r : Reg} {fe : Bool} {s : State} {body : Word → Out} {t : Trap} (he : (s.curSlot.cell r).empty = false)
    (h : (s.curSlot.cell r).poison = some t) : withReg r fe s body = trap t s := by
  simp [withReg, Slot.read, h, he]

/-- Everything a register operand may come to. -/
theorem withReg_cases (r : Reg) (fe : Bool) (s : State) (body : Word → Out) :
    withReg r fe s body = stall s ∨ (∃ t, withReg r fe s body = trap t s) ∨ ∃ v, withReg r fe s body = body v := by
  unfold withReg
  cases s.curSlot.read r fe with
  | full v => exact .inr (.inr ⟨v, rfl⟩)
  | wait => exact .inl rfl
  | bad t => exact .inr (.inl ⟨t, rfl⟩)

theorem withPred_read {p : PReg} {s : State} {body : Bool → Out} {v : Bool} (h : s.curSlot.pcell p = ⟨v, false⟩) :
    withPred p s body = body v := by
  simp [withPred, h]

theorem withPred_cases (p : PReg) (s : State) (body : Bool → Out) :
    withPred p s body = stall s ∨ ∃ v, withPred p s body = body v := by
  unfold withPred
  by_cases h : (s.curSlot.pcell p).pending = true
  · exact .inl (by simp [h])
  · exact .inr ⟨(s.curSlot.pcell p).v, by simp [h]⟩

theorem withDest_free {d : Reg} {s : State} {body : Out} (h : (s.curSlot.cell d).empty = false) : withDest d s body = body := by
  simp [withDest, h]

theorem withDest_empty {d : Reg} {s : State} {body : Out} (h : (s.curSlot.cell d).empty = true) : withDest d s body = stall s := by
  simp [withDest, h]

theorem withDest_cases (d : Reg) (s : State) (body : Out) : withDest d s body = stall s ∨ withDest d s body = body := by
  unfold withDest
  by_cases h : (s.curSlot.cell d).empty = true <;> simp [h]

theorem withPDest_free {d : PReg} {s : State} {body : Out} (h : (s.curSlot.pcell d).pending = false) : withPDest d s body = body := by
  simp [withPDest, h]

theorem withPDest_cases (d : PReg) (s : State) (body : Out) : withPDest d s body = stall s ∨ withPDest d s body = body := by
  unfold withPDest
  by_cases h : (s.curSlot.pcell d).pending = true <;> simp [h]

theorem unspeculated_acts {s : State} {body : Out} (h : s.curSlot.spec = none) : unspeculated s body = body := by
  simp [unspeculated, h]

theorem unspeculated_cases (s : State) (body : Out) : unspeculated s body = stall s ∨ unspeculated s body = body := by
  unfold unspeculated
  by_cases h : s.curSlot.spec.isSome = true <;> simp [h]

/-- A register destination that is free: the word completes and gd holds the value, which no other register does for it. -/
theorem writeReg_acts {d : Reg} {v : Word} {s : State} (h : (s.curSlot.cell d).empty = false) :
    ∃ t, writeReg d v s = .next t ∧ t = s.setCurSlot t.curSlot ∧ t.mem = s.mem ∧
      (∀ r, t.curSlot.cell r = if r = d ∧ d ≠ 0 then ⟨v, false, none⟩ else s.curSlot.cell r) ∧
      (∀ p, t.curSlot.pcell p = s.curSlot.pcell p) ∧
      (t.curSlot.pc, t.curSlot.loops) = endProcess s.curSlot.pc s.curSlot.loops ∧ t.curSlot.prog = .idle :=
  ⟨s.setCurSlot (s.curSlot.write d v).advance, by rw [writeReg, withDest_free h, retire], by simp, rfl,
    fun r => by simp [Slot.cell_write], fun p => by simp, by simp [Slot.advance], by simp⟩

/-- A predicate destination that is free. -/
theorem writePred_acts {d : PReg} {v : Bool} {s : State} (h : (s.curSlot.pcell d).pending = false) :
    ∃ t, writePred d v s = .next t ∧ t = s.setCurSlot t.curSlot ∧ t.mem = s.mem ∧
      (∀ p, t.curSlot.pcell p = if p = d ∧ d ≠ 0 then ⟨v, false⟩ else s.curSlot.pcell p) ∧
      (∀ r, t.curSlot.cell r = s.curSlot.cell r) ∧
      (t.curSlot.pc, t.curSlot.loops) = endProcess s.curSlot.pc s.curSlot.loops ∧ t.curSlot.prog = .idle :=
  ⟨s.setCurSlot (s.curSlot.setPred d ⟨v, false⟩).advance, by rw [writePred, withPDest_free h, retire], by simp, rfl,
    fun p => by simp [Slot.pcell_setPred], fun r => by simp, by simp [Slot.advance], by simp⟩

/-! ### End processing (R218) -/

@[simp] theorem endProcess_nil (a : Word) : endProcess a [] = (a + 8, []) := rfl

theorem endProcess_other {a : Word} {e : LoopEntry} (t : List LoopEntry) (h : e.last ≠ a) : endProcess a (e :: t) = (a + 8, e :: t) := by
  simp [endProcess, h]

theorem endProcess_again {a : Word} {e : LoopEntry} (t : List LoopEntry) (h : e.last = a) (hc : e.count - 1 ≠ 0) :
    endProcess a (e :: t) = (e.start, { e with count := e.count - 1 } :: t) := by
  simp only [endProcess, h, hc, if_true, if_false]

theorem endProcess_done {a : Word} {e : LoopEntry} (t : List LoopEntry) (h : e.last = a) (hc : e.count - 1 = 0) :
    endProcess a (e :: t) = endProcess a t := by
  simp only [endProcess, h, hc, if_true]

/-! ### Messages (R48, R49) -/

theorem Chan.post_room {c : Chan} {m : Msg} (h : c.held = []) (hl : c.fifo.length < Config.fifoDepth) :
    c.post m = { c with fifo := c.fifo ++ [m] } := by
  simp [Chan.post, h, hl]

/-- A post adds its message and changes nothing else of the channel. -/
theorem Chan.post_messages (c : Chan) (m : Msg) : (c.post m).fifo ++ (c.post m).held = c.fifo ++ c.held ++ [m] := by
  unfold Chan.post
  split_ifs with h
  · simp at h; simp [h.1]
  · simp

theorem Core.chan_post (k : Core) (n j : Nat) (m : Msg) :
    (k.post n m).chan j = if j = n then (k.chan n).post m else k.chan j := by
  by_cases h : j = n
  · subst h; simp [Core.post]
  · simp [Core.post, h, Core.chan_setChan_other]

/-! ### Memory under the operations of exceptions -/

theorem State.foldl_onCore_mem {β : Type} (l : List β) (c : β → Nat) (f : β → Core → Core) (s : State) :
    (l.foldl (fun s e => s.onCore (c e) (f e)) s).mem = s.mem := by
  induction l generalizing s with
  | nil => rfl
  | cons e l ih => simp [ih]

@[simp] theorem State.forget_mem (s : State) (f : Port → Bool) : (s.forget f).mem = s.mem := rfl

@[simp] theorem State.tookFault_mem (s : State) (p : Port) : (s.tookFault p).mem = s.mem := rfl

/-- A miss begins or joins a walk, and changes nothing else. -/
theorem State.miss_walks (s : State) (c : Nat) (p : Port) (va : Word) : ∃ ws, s.miss c p va = { s with walks := ws } := by
  simp only [State.miss]
  split_ifs <;> exact ⟨_, rfl⟩

@[simp] theorem State.miss_mem (s : State) (c : Nat) (p : Port) (va : Word) : (s.miss c p va).mem = s.mem := by
  obtain ⟨ws, h⟩ := s.miss_walks c p va
  rw [h]

@[simp] theorem State.removeGang_mem (s : State) (g : GangId) : (s.removeGang g).mem = s.mem := by
  have key : ∀ (l : List Nat) (s : State),
      (l.foldl (fun s c => (s.forget ((s.core c).portOf c g)).onCore c fun k => k.dropGang g) s).mem = s.mem := by
    intro l
    induction l with
    | nil => intro s; rfl
    | cons c l ih => intro s; simp [ih]
  unfold State.removeGang
  split
  · rfl
  · exact key _ s

@[simp] theorem State.stopGang_mem (s : State) (g : GangId) : (s.stopGang g).mem = s.mem := State.removeGang_mem s g

@[simp] theorem State.dealSubject_mem (s : State) (c : Nat) (r : Frec) : (s.dealSubject c r).mem = s.mem := by
  unfold State.dealSubject
  repeat' split
  all_goals simp

@[simp] theorem State.raise_mem (s : State) (c ix : Nat) (r : Frec) : (s.raise c ix r).mem = s.mem := by
  simp only [State.raise]
  repeat' split
  all_goals simp

@[simp] theorem State.report_mem (s : State) (c : Nat) (t : Trap) (g : Option GangId) (n : Nat) : (s.report c t g n).mem = s.mem := by
  simp only [State.report]
  split <;> simp

@[simp] theorem State.postHeld_mem (s : State) (c : Nat) : (s.postHeld c).mem = s.mem := by
  unfold State.postHeld
  split <;> simp

@[simp] theorem State.doubleFault_mem (s : State) (t : Trap) (ix : Nat) : (s.doubleFault t ix).mem = s.mem := by
  simp only [State.doubleFault]
  split <;> simp

@[simp] theorem State.takeTrap_mem (s : State) (t : Trap) : (s.takeTrap t).mem = s.mem := by
  simp only [State.takeTrap]
  repeat' split
  all_goals simp

/-! ### Taking an exception (R402, R403) -/

/-- A translation that no buffer holds: the slot stalls and waits for its walk. -/
theorem State.takeTrap_miss {s : State} {t : Trap} (h : t.isMiss = true) :
    s.takeTrap t = { s.miss s.cur.core (s.curCore.slotPort s.cur.core s.cur.slot) t.info1 with stalled := true } := by
  simp [State.takeTrap, h]

theorem State.takeTrap_speculating {s : State} {t : Trap} (hm : t.isMiss = false) (h : s.curSlot.spec.isSome = true) :
    s.takeTrap t = { s with stalled := true } := by
  simp [State.takeTrap, hm, h]

theorem State.takeTrap_handler {s : State} {t : Trap} {ix : Nat} (hm : t.isMiss = false) (hs : s.curSlot.spec = none)
    (h : s.curSlot.handler = some ix) :
    s.takeTrap t = (s.doubleFault t ix).tookFault (s.curCore.slotPort s.cur.core s.cur.slot) := by
  simp [State.takeTrap, hm, hs, h]

theorem State.takeTrap_full {s : State} {t : Trap} (hm : t.isMiss = false) (hs : s.curSlot.spec = none) (hh : s.curSlot.handler = none)
    (h : s.curCore.freeFrec = none) : s.takeTrap t = { s with stalled := true } := by
  simp [State.takeTrap, hm, hs, hh, h]

/-- A record posted: it is listed, its channel holds its message, every other channel and slot is as before. -/
theorem State.raise_posted {s : State} {c ix : Nat} {r : Frec} (ht : r.cause ≠ .trap) (h : ((s.core c).chan 63).valid = true) :
    s.raise c ix r = s.setCore c { (s.core c).post 63 (r.msg ix) with frecs := (s.core c).frecs.set ix r } := by
  simp [State.raise, Core.faultChan, ht, h]

/-- The exception is taken: the slot is suspended at its word, and the record stands on c63. -/
theorem State.takeTrap_posted {s : State} {t : Trap} {ix : Nat} (hm : t.isMiss = false) (hs : s.curSlot.spec = none)
    (hh : s.curSlot.handler = none)
    (hf : s.curCore.freeFrec = some ix) (ht : t.cause ≠ .trap) (hc : (s.curCore.chan 63).valid = true) :
    s.takeTrap t = (s.setCurCore { (s.curCore.setSlot s.cur.slot { s.curSlot with status := .suspended }).post 63 ((s.trapRecord t).msg ix) with
      frecs := s.curCore.frecs.set ix (s.trapRecord t) }).tookFault (s.curCore.slotPort s.cur.core s.cur.slot) := by
  have key : ∀ (x : State) (k : Core) (r : Frec), r.cause ≠ .trap → (k.chan 63).valid = true →
      (x.setCurCore k).raise x.cur.core ix r = x.setCurCore { k.post 63 (r.msg ix) with frecs := k.frecs.set ix r } := by
    intro x k r hr hk
    have hcore : (x.setCurCore k).core x.cur.core = k := Tab.get_set_same ..
    rw [State.raise_posted hr (by rw [hcore]; exact hk), hcore]
    unfold State.setCurCore State.setCore
    simp only [Tab.set_set]
  simp only [State.takeTrap, hm, hs, hh, hf, Option.isSome_none, Bool.false_eq_true, if_false]
  exact congrArg (State.tookFault · _) (key s _ _ ht hc)

end Sys2Proof.Machine
end

