-- ==== Sys2Proof/Laws/Frames.lean ====
section
/-! SUPPORT. What the operand forms keep of memory: a word of which every part leaves memory as it is leaves it as it is. -/

namespace Sys2Proof.Machine

/-- An answer whose next state has the memory of `s`. -/
theorem keeps_next {P : State → Prop} {t : State} (h : P t) : Keeps P (.next t) := by
  intro u hu
  cases hu
  exact h

variable {s : State}

theorem stall_mem : Keeps (fun t => t.mem = s.mem) (stall s) := keeps_next rfl

theorem trap_mem (e : Trap) : Keeps (fun t => t.mem = s.mem) (trap e s) := keeps_next (by simp)

theorem retire_mem (sl : Slot) : Keeps (fun t => t.mem = s.mem) (retire sl s) := keeps_next rfl

theorem transfer_mem (sl : Slot) (a : Word) : Keeps (fun t => t.mem = s.mem) (transfer sl a s) := keeps_next rfl

theorem retireCore_mem (k : Core) : Keeps (fun t => t.mem = s.mem) (retireCore k s) := keeps_next rfl

theorem retireState_mem : Keeps (fun t => t.mem = s.mem) (retireState s) := keeps_next rfl

theorem guarded_mem {g : Guard} {body : Out} (h : Keeps (fun t => t.mem = s.mem) body) :
    Keeps (fun t => t.mem = s.mem) (guarded g s body) := by
  rcases guarded_cases g s body with e | e | e <;> rw [e]
  exacts [stall_mem, retire_mem _, h]

theorem withReg_mem {r : Reg} {fe : Bool} {body : Word → Out} (h : ∀ v, Keeps (fun t => t.mem = s.mem) (body v)) :
    Keeps (fun t => t.mem = s.mem) (withReg r fe s body) := by
  rcases withReg_cases r fe s body with e | ⟨t, e⟩ | ⟨v, e⟩ <;> rw [e]
  exacts [stall_mem, trap_mem t, h v]

theorem withRegs_mem {fe : Bool} {rs : List Reg} {body : List Word → Out} (h : ∀ vs, Keeps (fun t => t.mem = s.mem) (body vs)) :
    Keeps (fun t => t.mem = s.mem) (withRegs fe s rs body) := by
  induction rs generalizing body with
  | nil => exact h []
  | cons r rs ih => exact withReg_mem fun v => ih fun vs => h (v :: vs)

theorem withPred_mem {p : PReg} {body : Bool → Out} (h : ∀ v, Keeps (fun t => t.mem = s.mem) (body v)) :
    Keeps (fun t => t.mem = s.mem) (withPred p s body) := by
  rcases withPred_cases p s body with e | ⟨v, e⟩ <;> rw [e]
  exacts [stall_mem, h v]

theorem withDest_mem {d : Reg} {body : Out} (h : Keeps (fun t => t.mem = s.mem) body) :
    Keeps (fun t => t.mem = s.mem) (withDest d s body) := by
  rcases withDest_cases d s body with e | e <;> rw [e]
  exacts [stall_mem, h]

theorem withPDest_mem {d : PReg} {body : Out} (h : Keeps (fun t => t.mem = s.mem) body) :
    Keeps (fun t => t.mem = s.mem) (withPDest d s body) := by
  rcases withPDest_cases d s body with e | e <;> rw [e]
  exacts [stall_mem, h]

theorem unspeculated_mem {body : Out} (h : Keeps (fun t => t.mem = s.mem) body) :
    Keeps (fun t => t.mem = s.mem) (unspeculated s body) := by
  rcases unspeculated_cases s body with e | e <;> rw [e]
  exacts [stall_mem, h]

theorem writeReg_mem (d : Reg) (v : Word) : Keeps (fun t => t.mem = s.mem) (writeReg d v s) := withDest_mem (retire_mem _)

theorem writePred_mem (d : PReg) (v : Bool) : Keeps (fun t => t.mem = s.mem) (writePred d v s) := withPDest_mem (retire_mem _)

end Sys2Proof.Machine
end

