-- ==== Sys2Proof/Laws/PerInstr.lean ====
section
/-! SUPPORT. Laws of every instruction, one lemma per constructor. Family Encoded: the word of a well-formed instruction has a guard
that is not reserved (R115) and a major that is not 0x00 (R124: the all-zero word is no instruction). -/

set_option Elab.async false

namespace Sys2Proof.Laws.Encoded

/-- A well-formed instruction's word has a guard that is not reserved and a major other than 0x00. -/
def Statement (i : Instr) : Prop := i.wf = true → ∀ w, encode i = some w → (guardOf w).wf = true ∧ fld w 56 8 ≠ 0

theorem none_of_event {i : Instr} (h : encode i = none) : Statement i := by
  intro _ w e
  rw [h] at e
  cases e

theorem good_of_head {w : Word} {op : BitVec 8} {g : Guard} (h1 : fld w 56 8 = op) (h2 : guardOf w = g) (h3 : op ≠ 0)
    (h4 : g.wf = true) : (guardOf w).wf = true ∧ fld w 56 8 ≠ 0 := ⟨h2 ▸ h4, h1 ▸ h3⟩

theorem nop (o : OpsG) : Statement (.nop o) := by
  intro h w e
  simp only [encode, Option.some.injEq] at e
  subst e
  exact good_of_head (op := 0x01) (g := o.g) (by simp (discharger := omega) [fld_or, fld_head_op, fld_put_away]) (by simp (discharger := omega) [guardOf, fld_or, fld_head_neg, fld_head_p, fld_put_away, b1_eq_one]) (by decide) (by simp_all [Instr.wf, OpsG.wf])

theorem add (o : OpsDAB) : Statement (.add o) := by
  intro h w e
  simp only [encode, Option.some.injEq] at e
  subst e
  exact good_of_head (op := 0x10) (g := o.g) (by simp (discharger := omega) [fld_or, fld_head_op, fld_put_away]) (by simp (discharger := omega) [guardOf, fld_or, fld_head_neg, fld_head_p, fld_put_away, b1_eq_one]) (by decide) (by simp_all [Instr.wf, OpsDAB.wf])

theorem sub (o : OpsDAB) : Statement (.sub o) := by
  intro h w e
  simp only [encode, Option.some.injEq] at e
  subst e
  exact good_of_head (op := 0x11) (g := o.g) (by simp (discharger := omega) [fld_or, fld_head_op, fld_put_away]) (by simp (discharger := omega) [guardOf, fld_or, fld_head_neg, fld_head_p, fld_put_away, b1_eq_one]) (by decide) (by simp_all [Instr.wf, OpsDAB.wf])

theorem mul (o : OpsDAB) : Statement (.mul o) := by
  intro h w e
  simp only [encode, Option.some.injEq] at e
  subst e
  exact good_of_head (op := 0x12) (g := o.g) (by simp (discharger := omega) [fld_or, fld_head_op, fld_put_away]) (by simp (discharger := omega) [guardOf, fld_or, fld_head_neg, fld_head_p, fld_put_away, b1_eq_one]) (by decide) (by simp_all [Instr.wf, OpsDAB.wf])

theorem mulh (o : OpsDABu) : Statement (.mulh o) := by
  intro h w e
  simp only [encode, Option.some.injEq] at e
  subst e
  exact good_of_head (op := 0x13) (g := o.g) (by simp (discharger := omega) [fld_or, fld_head_op, fld_put_away]) (by simp (discharger := omega) [guardOf, fld_or, fld_head_neg, fld_head_p, fld_put_away, b1_eq_one]) (by decide) (by simp_all [Instr.wf, OpsDABu.wf])

theorem div (o : OpsDABu) : Statement (.div o) := by
  intro h w e
  simp only [encode, Option.some.injEq] at e
  subst e
  exact good_of_head (op := 0x14) (g := o.g) (by simp (discharger := omega) [fld_or, fld_head_op, fld_put_away]) (by simp (discharger := omega) [guardOf, fld_or, fld_head_neg, fld_head_p, fld_put_away, b1_eq_one]) (by decide) (by simp_all [Instr.wf, OpsDABu.wf])

theorem rem (o : OpsDABu) : Statement (.rem o) := by
  intro h w e
  simp only [encode, Option.some.injEq] at e
  subst e
  exact good_of_head (op := 0x15) (g := o.g) (by simp (discharger := omega) [fld_or, fld_head_op, fld_put_away]) (by simp (discharger := omega) [guardOf, fld_or, fld_head_neg, fld_head_p, fld_put_away, b1_eq_one]) (by decide) (by simp_all [Instr.wf, OpsDABu.wf])

theorem and (o : OpsDAB) : Statement (.and o) := by
  intro h w e
  simp only [encode, Option.some.injEq] at e
  subst e
  exact good_of_head (op := 0x16) (g := o.g) (by simp (discharger := omega) [fld_or, fld_head_op, fld_put_away]) (by simp (discharger := omega) [guardOf, fld_or, fld_head_neg, fld_head_p, fld_put_away, b1_eq_one]) (by decide) (by simp_all [Instr.wf, OpsDAB.wf])

theorem or (o : OpsDAB) : Statement (.or o) := by
  intro h w e
  simp only [encode, Option.some.injEq] at e
  subst e
  exact good_of_head (op := 0x17) (g := o.g) (by simp (discharger := omega) [fld_or, fld_head_op, fld_put_away]) (by simp (discharger := omega) [guardOf, fld_or, fld_head_neg, fld_head_p, fld_put_away, b1_eq_one]) (by decide) (by simp_all [Instr.wf, OpsDAB.wf])

theorem xor (o : OpsDAB) : Statement (.xor o) := by
  intro h w e
  simp only [encode, Option.some.injEq] at e
  subst e
  exact good_of_head (op := 0x18) (g := o.g) (by simp (discharger := omega) [fld_or, fld_head_op, fld_put_away]) (by simp (discharger := omega) [guardOf, fld_or, fld_head_neg, fld_head_p, fld_put_away, b1_eq_one]) (by decide) (by simp_all [Instr.wf, OpsDAB.wf])

theorem andn (o : OpsDAB) : Statement (.andn o) := by
  intro h w e
  simp only [encode, Option.some.injEq] at e
  subst e
  exact good_of_head (op := 0x19) (g := o.g) (by simp (discharger := omega) [fld_or, fld_head_op, fld_put_away]) (by simp (discharger := omega) [guardOf, fld_or, fld_head_neg, fld_head_p, fld_put_away, b1_eq_one]) (by decide) (by simp_all [Instr.wf, OpsDAB.wf])

theorem shl (o : OpsDAB) : Statement (.shl o) := by
  intro h w e
  simp only [encode, Option.some.injEq] at e
  subst e
  exact good_of_head (op := 0x1A) (g := o.g) (by simp (discharger := omega) [fld_or, fld_head_op, fld_put_away]) (by simp (discharger := omega) [guardOf, fld_or, fld_head_neg, fld_head_p, fld_put_away, b1_eq_one]) (by decide) (by simp_all [Instr.wf, OpsDAB.wf])

theorem shr (o : OpsDAB) : Statement (.shr o) := by
  intro h w e
  simp only [encode, Option.some.injEq] at e
  subst e
  exact good_of_head (op := 0x1B) (g := o.g) (by simp (discharger := omega) [fld_or, fld_head_op, fld_put_away]) (by simp (discharger := omega) [guardOf, fld_or, fld_head_neg, fld_head_p, fld_put_away, b1_eq_one]) (by decide) (by simp_all [Instr.wf, OpsDAB.wf])

theorem sar (o : OpsDAB) : Statement (.sar o) := by
  intro h w e
  simp only [encode, Option.some.injEq] at e
  subst e
  exact good_of_head (op := 0x1C) (g := o.g) (by simp (discharger := omega) [fld_or, fld_head_op, fld_put_away]) (by simp (discharger := omega) [guardOf, fld_or, fld_head_neg, fld_head_p, fld_put_away, b1_eq_one]) (by decide) (by simp_all [Instr.wf, OpsDAB.wf])

theorem rotl (o : OpsDAB) : Statement (.rotl o) := by
  intro h w e
  simp only [encode, Option.some.injEq] at e
  subst e
  exact good_of_head (op := 0x1D) (g := o.g) (by simp (discharger := omega) [fld_or, fld_head_op, fld_put_away]) (by simp (discharger := omega) [guardOf, fld_or, fld_head_neg, fld_head_p, fld_put_away, b1_eq_one]) (by decide) (by simp_all [Instr.wf, OpsDAB.wf])

theorem min (o : OpsDABu) : Statement (.min o) := by
  intro h w e
  simp only [encode, Option.some.injEq] at e
  subst e
  exact good_of_head (op := 0x1E) (g := o.g) (by simp (discharger := omega) [fld_or, fld_head_op, fld_put_away]) (by simp (discharger := omega) [guardOf, fld_or, fld_head_neg, fld_head_p, fld_put_away, b1_eq_one]) (by decide) (by simp_all [Instr.wf, OpsDABu.wf])

theorem max (o : OpsDABu) : Statement (.max o) := by
  intro h w e
  simp only [encode, Option.some.injEq] at e
  subst e
  exact good_of_head (op := 0x1F) (g := o.g) (by simp (discharger := omega) [fld_or, fld_head_op, fld_put_away]) (by simp (discharger := omega) [guardOf, fld_or, fld_head_neg, fld_head_p, fld_put_away, b1_eq_one]) (by decide) (by simp_all [Instr.wf, OpsDABu.wf])

theorem clz (o : OpsDA) : Statement (.clz o) := by
  intro h w e
  simp only [encode, Option.some.injEq] at e
  subst e
  exact good_of_head (op := 0x20) (g := o.g) (by simp (discharger := omega) [fld_or, fld_head_op, fld_put_away]) (by simp (discharger := omega) [guardOf, fld_or, fld_head_neg, fld_head_p, fld_put_away, b1_eq_one]) (by decide) (by simp_all [Instr.wf, OpsDA.wf])

theorem ctz (o : OpsDA) : Statement (.ctz o) := by
  intro h w e
  simp only [encode, Option.some.injEq] at e
  subst e
  exact good_of_head (op := 0x21) (g := o.g) (by simp (discharger := omega) [fld_or, fld_head_op, fld_put_away]) (by simp (discharger := omega) [guardOf, fld_or, fld_head_neg, fld_head_p, fld_put_away, b1_eq_one]) (by decide) (by simp_all [Instr.wf, OpsDA.wf])

theorem popc (o : OpsDA) : Statement (.popc o) := by
  intro h w e
  simp only [encode, Option.some.injEq] at e
  subst e
  exact good_of_head (op := 0x22) (g := o.g) (by simp (discharger := omega) [fld_or, fld_head_op, fld_put_away]) (by simp (discharger := omega) [guardOf, fld_or, fld_head_neg, fld_head_p, fld_put_away, b1_eq_one]) (by decide) (by simp_all [Instr.wf, OpsDA.wf])

theorem bext (o : OpsDAB) : Statement (.bext o) := by
  intro h w e
  simp only [encode, Option.some.injEq] at e
  subst e
  exact good_of_head (op := 0x23) (g := o.g) (by simp (discharger := omega) [fld_or, fld_head_op, fld_put_away]) (by simp (discharger := omega) [guardOf, fld_or, fld_head_neg, fld_head_p, fld_put_away, b1_eq_one]) (by decide) (by simp_all [Instr.wf, OpsDAB.wf])

theorem bins (o : OpsDABC) : Statement (.bins o) := by
  intro h w e
  simp only [encode, Option.some.injEq] at e
  subst e
  exact good_of_head (op := 0x24) (g := o.g) (by simp (discharger := omega) [fld_or, fld_head_op, fld_put_away]) (by simp (discharger := omega) [guardOf, fld_or, fld_head_neg, fld_head_p, fld_put_away, b1_eq_one]) (by decide) (by simp_all [Instr.wf, OpsDABC.wf])

theorem ext (o : OpsDAB) : Statement (.ext o) := by
  intro h w e
  simp only [encode, Option.some.injEq] at e
  subst e
  exact good_of_head (op := 0x25) (g := o.g) (by simp (discharger := omega) [fld_or, fld_head_op, fld_put_away]) (by simp (discharger := omega) [guardOf, fld_or, fld_head_neg, fld_head_p, fld_put_away, b1_eq_one]) (by decide) (by simp_all [Instr.wf, OpsDAB.wf])

theorem sel (o : OpsSel) : Statement (.sel o) := by
  intro h w e
  simp only [encode, Option.some.injEq] at e
  subst e
  exact good_of_head (op := 0x26) (g := o.g) (by simp (discharger := omega) [fld_or, fld_head_op, fld_put_away]) (by simp (discharger := omega) [guardOf, fld_or, fld_head_neg, fld_head_p, fld_put_away, b1_eq_one]) (by decide) (by simp_all [Instr.wf, OpsSel.wf])

theorem mad (o : OpsDABC) : Statement (.mad o) := by
  intro h w e
  simp only [encode, Option.some.injEq] at e
  subst e
  exact good_of_head (op := 0x27) (g := o.g) (by simp (discharger := omega) [fld_or, fld_head_op, fld_put_away]) (by simp (discharger := omega) [guardOf, fld_or, fld_head_neg, fld_head_p, fld_put_away, b1_eq_one]) (by decide) (by simp_all [Instr.wf, OpsDABC.wf])

theorem addi (o : OpsImm) : Statement (.addi o) := by
  intro h w e
  simp only [encode, Option.some.injEq] at e
  subst e
  exact good_of_head (op := 0x30) (g := o.g) (by simp (discharger := omega) [fld_or, fld_head_op, fld_put_away]) (by simp (discharger := omega) [guardOf, fld_or, fld_head_neg, fld_head_p, fld_put_away, b1_eq_one]) (by decide) (by simp_all [Instr.wf, OpsImm.wf])

theorem andi (o : OpsImm) : Statement (.andi o) := by
  intro h w e
  simp only [encode, Option.some.injEq] at e
  subst e
  exact good_of_head (op := 0x31) (g := o.g) (by simp (discharger := omega) [fld_or, fld_head_op, fld_put_away]) (by simp (discharger := omega) [guardOf, fld_or, fld_head_neg, fld_head_p, fld_put_away, b1_eq_one]) (by decide) (by simp_all [Instr.wf, OpsImm.wf])

theorem ori (o : OpsImm) : Statement (.ori o) := by
  intro h w e
  simp only [encode, Option.some.injEq] at e
  subst e
  exact good_of_head (op := 0x32) (g := o.g) (by simp (discharger := omega) [fld_or, fld_head_op, fld_put_away]) (by simp (discharger := omega) [guardOf, fld_or, fld_head_neg, fld_head_p, fld_put_away, b1_eq_one]) (by decide) (by simp_all [Instr.wf, OpsImm.wf])

theorem xori (o : OpsImm) : Statement (.xori o) := by
  intro h w e
  simp only [encode, Option.some.injEq] at e
  subst e
  exact good_of_head (op := 0x33) (g := o.g) (by simp (discharger := omega) [fld_or, fld_head_op, fld_put_away]) (by simp (discharger := omega) [guardOf, fld_or, fld_head_neg, fld_head_p, fld_put_away, b1_eq_one]) (by decide) (by simp_all [Instr.wf, OpsImm.wf])

theorem shli (o : OpsImm) : Statement (.shli o) := by
  intro h w e
  simp only [encode, Option.some.injEq] at e
  subst e
  exact good_of_head (op := 0x34) (g := o.g) (by simp (discharger := omega) [fld_or, fld_head_op, fld_put_away]) (by simp (discharger := omega) [guardOf, fld_or, fld_head_neg, fld_head_p, fld_put_away, b1_eq_one]) (by decide) (by simp_all [Instr.wf, OpsImm.wf])

theorem shri (o : OpsImm) : Statement (.shri o) := by
  intro h w e
  simp only [encode, Option.some.injEq] at e
  subst e
  exact good_of_head (op := 0x35) (g := o.g) (by simp (discharger := omega) [fld_or, fld_head_op, fld_put_away]) (by simp (discharger := omega) [guardOf, fld_or, fld_head_neg, fld_head_p, fld_put_away, b1_eq_one]) (by decide) (by simp_all [Instr.wf, OpsImm.wf])

theorem sari (o : OpsImm) : Statement (.sari o) := by
  intro h w e
  simp only [encode, Option.some.injEq] at e
  subst e
  exact good_of_head (op := 0x36) (g := o.g) (by simp (discharger := omega) [fld_or, fld_head_op, fld_put_away]) (by simp (discharger := omega) [guardOf, fld_or, fld_head_neg, fld_head_p, fld_put_away, b1_eq_one]) (by decide) (by simp_all [Instr.wf, OpsImm.wf])

theorem muli (o : OpsImm) : Statement (.muli o) := by
  intro h w e
  simp only [encode, Option.some.injEq] at e
  subst e
  exact good_of_head (op := 0x37) (g := o.g) (by simp (discharger := omega) [fld_or, fld_head_op, fld_put_away]) (by simp (discharger := omega) [guardOf, fld_or, fld_head_neg, fld_head_p, fld_put_away, b1_eq_one]) (by decide) (by simp_all [Instr.wf, OpsImm.wf])

theorem movi (o : OpsMovi) : Statement (.movi o) := by
  intro h w e
  simp only [encode, Option.some.injEq] at e
  subst e
  exact good_of_head (op := 0x38) (g := o.g) (by simp (discharger := omega) [fld_or, fld_head_op, fld_put_away]) (by simp (discharger := omega) [guardOf, fld_or, fld_head_neg, fld_head_p, fld_put_away, b1_eq_one]) (by decide) (by simp_all [Instr.wf, OpsMovi.wf])

theorem movhi (o : OpsMovhi) : Statement (.movhi o) := by
  intro h w e
  simp only [encode, Option.some.injEq] at e
  subst e
  exact good_of_head (op := 0x39) (g := o.g) (by simp (discharger := omega) [fld_or, fld_head_op, fld_put_away]) (by simp (discharger := omega) [guardOf, fld_or, fld_head_neg, fld_head_p, fld_put_away, b1_eq_one]) (by decide) (by simp_all [Instr.wf, OpsMovhi.wf])

theorem cmp (o : OpsCmp) : Statement (.cmp o) := by
  intro h w e
  simp only [encode, Option.some.injEq] at e
  subst e
  exact good_of_head (op := 0x40) (g := o.g) (by simp (discharger := omega) [fld_or, fld_head_op, fld_put_away]) (by simp (discharger := omega) [guardOf, fld_or, fld_head_neg, fld_head_p, fld_put_away, b1_eq_one]) (by decide) (by simp_all [Instr.wf, OpsCmp.wf])

theorem cmpi (o : OpsCmpi) : Statement (.cmpi o) := by
  intro h w e
  simp only [encode, Option.some.injEq] at e
  subst e
  exact good_of_head (op := 0x3A) (g := o.g) (by simp (discharger := omega) [fld_or, fld_head_op, fld_put_away]) (by simp (discharger := omega) [guardOf, fld_or, fld_head_neg, fld_head_p, fld_put_away, b1_eq_one]) (by decide) (by simp_all [Instr.wf, OpsCmpi.wf])

theorem pand (o : OpsPred2) : Statement (.pand o) := by
  intro h w e
  simp only [encode, Option.some.injEq] at e
  subst e
  exact good_of_head (op := 0x41) (g := o.g) (by simp (discharger := omega) [fld_or, fld_head_op, fld_put_away]) (by simp (discharger := omega) [guardOf, fld_or, fld_head_neg, fld_head_p, fld_put_away, b1_eq_one]) (by decide) (by simp_all [Instr.wf, OpsPred2.wf])

theorem por (o : OpsPred2) : Statement (.por o) := by
  intro h w e
  simp only [encode, Option.some.injEq] at e
  subst e
  exact good_of_head (op := 0x42) (g := o.g) (by simp (discharger := omega) [fld_or, fld_head_op, fld_put_away]) (by simp (discharger := omega) [guardOf, fld_or, fld_head_neg, fld_head_p, fld_put_away, b1_eq_one]) (by decide) (by simp_all [Instr.wf, OpsPred2.wf])

theorem pxor (o : OpsPred2) : Statement (.pxor o) := by
  intro h w e
  simp only [encode, Option.some.injEq] at e
  subst e
  exact good_of_head (op := 0x43) (g := o.g) (by simp (discharger := omega) [fld_or, fld_head_op, fld_put_away]) (by simp (discharger := omega) [guardOf, fld_or, fld_head_neg, fld_head_p, fld_put_away, b1_eq_one]) (by decide) (by simp_all [Instr.wf, OpsPred2.wf])

theorem pnot (o : OpsPred1) : Statement (.pnot o) := by
  intro h w e
  simp only [encode, Option.some.injEq] at e
  subst e
  exact good_of_head (op := 0x44) (g := o.g) (by simp (discharger := omega) [fld_or, fld_head_op, fld_put_away]) (by simp (discharger := omega) [guardOf, fld_or, fld_head_neg, fld_head_p, fld_put_away, b1_eq_one]) (by decide) (by simp_all [Instr.wf, OpsPred1.wf])

theorem pmov (o : OpsPred1) : Statement (.pmov o) := by
  intro h w e
  simp only [encode, Option.some.injEq] at e
  subst e
  exact good_of_head (op := 0x45) (g := o.g) (by simp (discharger := omega) [fld_or, fld_head_op, fld_put_away]) (by simp (discharger := omega) [guardOf, fld_or, fld_head_neg, fld_head_p, fld_put_away, b1_eq_one]) (by decide) (by simp_all [Instr.wf, OpsPred1.wf])

theorem br (o : OpsBr) : Statement (.br o) := by
  intro h w e
  simp only [encode, Option.some.injEq] at e
  subst e
  exact good_of_head (op := 0x50) (g := o.g) (by simp (discharger := omega) [fld_or, fld_head_op, fld_put_away]) (by simp (discharger := omega) [guardOf, fld_or, fld_head_neg, fld_head_p, fld_put_away, b1_eq_one]) (by decide) (by simp_all [Instr.wf, OpsBr.wf])

theorem jal (o : OpsJal) : Statement (.jal o) := by
  intro h w e
  simp only [encode, Option.some.injEq] at e
  subst e
  exact good_of_head (op := 0x51) (g := o.g) (by simp (discharger := omega) [fld_or, fld_head_op, fld_put_away]) (by simp (discharger := omega) [guardOf, fld_or, fld_head_neg, fld_head_p, fld_put_away, b1_eq_one]) (by decide) (by simp_all [Instr.wf, OpsJal.wf])

theorem jr (o : OpsA) : Statement (.jr o) := by
  intro h w e
  simp only [encode, Option.some.injEq] at e
  subst e
  exact good_of_head (op := 0x52) (g := o.g) (by simp (discharger := omega) [fld_or, fld_head_op, fld_put_away]) (by simp (discharger := omega) [guardOf, fld_or, fld_head_neg, fld_head_p, fld_put_away, b1_eq_one]) (by decide) (by simp_all [Instr.wf, OpsA.wf])

theorem loop (o : OpsLoop) : Statement (.loop o) := by
  intro h w e
  simp only [encode, Option.some.injEq] at e
  subst e
  exact good_of_head (op := 0x53) (g := o.g) (by simp (discharger := omega) [fld_or, fld_head_op, fld_put_away]) (by simp (discharger := omega) [guardOf, fld_or, fld_head_neg, fld_head_p, fld_put_away, b1_eq_one]) (by decide) (by simp_all [Instr.wf, OpsLoop.wf])

theorem loopi (o : OpsLoopi) : Statement (.loopi o) := by
  intro h w e
  simp only [encode, Option.some.injEq] at e
  subst e
  exact good_of_head (op := 0x54) (g := o.g) (by simp (discharger := omega) [fld_or, fld_head_op, fld_put_away]) (by simp (discharger := omega) [guardOf, fld_or, fld_head_neg, fld_head_p, fld_put_away, b1_eq_one]) (by decide) (by simp_all [Instr.wf, OpsLoopi.wf])

theorem lbrk (o : OpsG) : Statement (.lbrk o) := by
  intro h w e
  simp only [encode, Option.some.injEq] at e
  subst e
  exact good_of_head (op := 0x55) (g := o.g) (by simp (discharger := omega) [fld_or, fld_head_op, fld_put_away]) (by simp (discharger := omega) [guardOf, fld_or, fld_head_neg, fld_head_p, fld_put_away, b1_eq_one]) (by decide) (by simp_all [Instr.wf, OpsG.wf])

theorem endTask (o : OpsG) : Statement (.endTask o) := by
  intro h w e
  simp only [encode, Option.some.injEq] at e
  subst e
  exact good_of_head (op := 0x56) (g := o.g) (by simp (discharger := omega) [fld_or, fld_head_op, fld_put_away]) (by simp (discharger := omega) [guardOf, fld_or, fld_head_neg, fld_head_p, fld_put_away, b1_eq_one]) (by decide) (by simp_all [Instr.wf, OpsG.wf])

theorem send (o : OpsAB) : Statement (.send o) := by
  intro h w e
  simp only [encode, Option.some.injEq] at e
  subst e
  exact good_of_head (op := 0x57) (g := o.g) (by simp (discharger := omega) [fld_or, fld_head_op, fld_put_away]) (by simp (discharger := omega) [guardOf, fld_or, fld_head_neg, fld_head_p, fld_put_away, b1_eq_one]) (by decide) (by simp_all [Instr.wf, OpsAB.wf])

theorem wait (o : OpsWait) : Statement (.wait o) := by
  intro h w e
  simp only [encode, Option.some.injEq] at e
  subst e
  exact good_of_head (op := 0x58) (g := o.g) (by simp (discharger := omega) [fld_or, fld_head_op, fld_put_away]) (by simp (discharger := omega) [guardOf, fld_or, fld_head_neg, fld_head_p, fld_put_away, b1_eq_one]) (by decide) (by simp_all [Instr.wf, OpsWait.wf])

theorem popFail (o : OpsPopF) : Statement (.popFail o) := by
  intro h w e
  simp only [encode, Option.some.injEq] at e
  subst e
  exact good_of_head (op := 0x59) (g := o.g) (by simp (discharger := omega) [fld_or, fld_head_op, fld_put_away]) (by simp (discharger := omega) [guardOf, fld_or, fld_head_neg, fld_head_p, fld_put_away, b1_eq_one]) (by decide) (by simp_all [Instr.wf, OpsPopF.wf])

theorem popBlock (o : OpsPopB) : Statement (.popBlock o) := by
  intro h w e
  simp only [encode, Option.some.injEq] at e
  subst e
  exact good_of_head (op := 0x59) (g := o.g) (by simp (discharger := omega) [fld_or, fld_head_op, fld_put_away]) (by simp (discharger := omega) [guardOf, fld_or, fld_head_neg, fld_head_p, fld_put_away, b1_eq_one]) (by decide) (by simp_all [Instr.wf, OpsPopB.wf])

theorem push (o : OpsAB) : Statement (.push o) := by
  intro h w e
  simp only [encode, Option.some.injEq] at e
  subst e
  exact good_of_head (op := 0x5A) (g := o.g) (by simp (discharger := omega) [fld_or, fld_head_op, fld_put_away]) (by simp (discharger := omega) [guardOf, fld_or, fld_head_neg, fld_head_p, fld_put_away, b1_eq_one]) (by decide) (by simp_all [Instr.wf, OpsAB.wf])

theorem spec (o : OpsSpec) : Statement (.spec o) := by
  intro h w e
  simp only [encode, Option.some.injEq] at e
  subst e
  exact good_of_head (op := 0x5B) (g := o.g) (by simp (discharger := omega) [fld_or, fld_head_op, fld_put_away]) (by simp (discharger := omega) [guardOf, fld_or, fld_head_neg, fld_head_p, fld_put_away, b1_eq_one]) (by decide) (by simp_all [Instr.wf, OpsSpec.wf])

theorem specResolve (o : SlotAt) : Statement (.specResolve o) := none_of_event rfl

theorem mfs (o : OpsMfs) : Statement (.mfs o) := by
  intro h w e
  simp only [encode, Option.some.injEq] at e
  subst e
  exact good_of_head (op := 0x5E) (g := o.g) (by simp (discharger := omega) [fld_or, fld_head_op, fld_put_away]) (by simp (discharger := omega) [guardOf, fld_or, fld_head_neg, fld_head_p, fld_put_away, b1_eq_one]) (by decide) (by simp_all [Instr.wf, OpsMfs.wf])

theorem mts (o : OpsMts) : Statement (.mts o) := by
  intro h w e
  simp only [encode, Option.some.injEq] at e
  subst e
  exact good_of_head (op := 0x5F) (g := o.g) (by simp (discharger := omega) [fld_or, fld_head_op, fld_put_away]) (by simp (discharger := omega) [guardOf, fld_or, fld_head_neg, fld_head_p, fld_put_away, b1_eq_one]) (by decide) (by simp_all [Instr.wf, OpsMts.wf])

theorem mtsChbind (o : OpsAB) : Statement (.mtsChbind o) := by
  intro h w e
  simp only [encode, Option.some.injEq] at e
  subst e
  exact good_of_head (op := 0x5F) (g := o.g) (by simp (discharger := omega) [fld_or, fld_head_op, fld_put_away]) (by simp (discharger := omega) [guardOf, fld_or, fld_head_neg, fld_head_p, fld_put_away, b1_eq_one]) (by decide) (by simp_all [Instr.wf, OpsAB.wf])

theorem mtsCvstat (o : OpsA) : Statement (.mtsCvstat o) := by
  intro h w e
  simp only [encode, Option.some.injEq] at e
  subst e
  exact good_of_head (op := 0x5F) (g := o.g) (by simp (discharger := omega) [fld_or, fld_head_op, fld_put_away]) (by simp (discharger := omega) [guardOf, fld_or, fld_head_neg, fld_head_p, fld_put_away, b1_eq_one]) (by decide) (by simp_all [Instr.wf, OpsA.wf])

theorem mtsRailsel (o : OpsA) : Statement (.mtsRailsel o) := by
  intro h w e
  simp only [encode, Option.some.injEq] at e
  subst e
  exact good_of_head (op := 0x5F) (g := o.g) (by simp (discharger := omega) [fld_or, fld_head_op, fld_put_away]) (by simp (discharger := omega) [guardOf, fld_or, fld_head_neg, fld_head_p, fld_put_away, b1_eq_one]) (by decide) (by simp_all [Instr.wf, OpsA.wf])

theorem mtsBudget (o : OpsA) : Statement (.mtsBudget o) := by
  intro h w e
  simp only [encode, Option.some.injEq] at e
  subst e
  exact good_of_head (op := 0x5F) (g := o.g) (by simp (discharger := omega) [fld_or, fld_head_op, fld_put_away]) (by simp (discharger := omega) [guardOf, fld_or, fld_head_neg, fld_head_p, fld_put_away, b1_eq_one]) (by decide) (by simp_all [Instr.wf, OpsA.wf])

theorem mtsPermits (o : OpsA) : Statement (.mtsPermits o) := by
  intro h w e
  simp only [encode, Option.some.injEq] at e
  subst e
  exact good_of_head (op := 0x5F) (g := o.g) (by simp (discharger := omega) [fld_or, fld_head_op, fld_put_away]) (by simp (discharger := omega) [guardOf, fld_or, fld_head_neg, fld_head_p, fld_put_away, b1_eq_one]) (by decide) (by simp_all [Instr.wf, OpsA.wf])

theorem mtsClasp (o : OpsMtsClasp) : Statement (.mtsClasp o) := by
  intro h w e
  simp only [encode, Option.some.injEq] at e
  subst e
  exact good_of_head (op := 0x5F) (g := o.g) (by simp (discharger := omega) [fld_or, fld_head_op, fld_put_away]) (by simp (discharger := omega) [guardOf, fld_or, fld_head_neg, fld_head_p, fld_put_away, b1_eq_one]) (by decide) (by simp_all [Instr.wf, OpsMtsClasp.wf])

theorem mtsEpc (o : OpsA) : Statement (.mtsEpc o) := by
  intro h w e
  simp only [encode, Option.some.injEq] at e
  subst e
  exact good_of_head (op := 0x5F) (g := o.g) (by simp (discharger := omega) [fld_or, fld_head_op, fld_put_away]) (by simp (discharger := omega) [guardOf, fld_or, fld_head_neg, fld_head_p, fld_put_away, b1_eq_one]) (by decide) (by simp_all [Instr.wf, OpsA.wf])

theorem ld (o : OpsMem) : Statement (.ld o) := by
  intro h w e
  simp only [encode, Option.some.injEq] at e
  subst e
  exact good_of_head (op := 0x60) (g := o.g) (by simp (discharger := omega) [fld_or, fld_head_op, fld_put_away]) (by simp (discharger := omega) [guardOf, fld_or, fld_head_neg, fld_head_p, fld_put_away, b1_eq_one]) (by decide) (by simp_all [Instr.wf, OpsMem.wf])

theorem st (o : OpsMem) : Statement (.st o) := by
  intro h w e
  simp only [encode, Option.some.injEq] at e
  subst e
  exact good_of_head (op := 0x61) (g := o.g) (by simp (discharger := omega) [fld_or, fld_head_op, fld_put_away]) (by simp (discharger := omega) [guardOf, fld_or, fld_head_neg, fld_head_p, fld_put_away, b1_eq_one]) (by decide) (by simp_all [Instr.wf, OpsMem.wf])

theorem ldp (o : OpsMem) : Statement (.ldp o) := by
  intro h w e
  simp only [encode, Option.some.injEq] at e
  subst e
  exact good_of_head (op := 0x62) (g := o.g) (by simp (discharger := omega) [fld_or, fld_head_op, fld_put_away]) (by simp (discharger := omega) [guardOf, fld_or, fld_head_neg, fld_head_p, fld_put_away, b1_eq_one]) (by decide) (by simp_all [Instr.wf, OpsMem.wf])

theorem stp (o : OpsMem) : Statement (.stp o) := by
  intro h w e
  simp only [encode, Option.some.injEq] at e
  subst e
  exact good_of_head (op := 0x63) (g := o.g) (by simp (discharger := omega) [fld_or, fld_head_op, fld_put_away]) (by simp (discharger := omega) [guardOf, fld_or, fld_head_neg, fld_head_p, fld_put_away, b1_eq_one]) (by decide) (by simp_all [Instr.wf, OpsMem.wf])

theorem recld (o : OpsRecMem) : Statement (.recld o) := by
  intro h w e
  simp only [encode, Option.some.injEq] at e
  subst e
  exact good_of_head (op := 0x64) (g := o.g) (by simp (discharger := omega) [fld_or, fld_head_op, fld_put_away]) (by simp (discharger := omega) [guardOf, fld_or, fld_head_neg, fld_head_p, fld_put_away, b1_eq_one]) (by decide) (by simp_all [Instr.wf, OpsRecMem.wf])

theorem recst (o : OpsRecMem) : Statement (.recst o) := by
  intro h w e
  simp only [encode, Option.some.injEq] at e
  subst e
  exact good_of_head (op := 0x65) (g := o.g) (by simp (discharger := omega) [fld_or, fld_head_op, fld_put_away]) (by simp (discharger := omega) [guardOf, fld_or, fld_head_neg, fld_head_p, fld_put_away, b1_eq_one]) (by decide) (by simp_all [Instr.wf, OpsRecMem.wf])

theorem recset (o : OpsRecWord) : Statement (.recset o) := by
  intro h w e
  simp only [encode, Option.some.injEq] at e
  subst e
  exact good_of_head (op := 0x66) (g := o.g) (by simp (discharger := omega) [fld_or, fld_head_op, fld_put_away]) (by simp (discharger := omega) [guardOf, fld_or, fld_head_neg, fld_head_p, fld_put_away, b1_eq_one]) (by decide) (by simp_all [Instr.wf, OpsRecWord.wf])

theorem recget (o : OpsRecWord) : Statement (.recget o) := by
  intro h w e
  simp only [encode, Option.some.injEq] at e
  subst e
  exact good_of_head (op := 0x67) (g := o.g) (by simp (discharger := omega) [fld_or, fld_head_op, fld_put_away]) (by simp (discharger := omega) [guardOf, fld_or, fld_head_neg, fld_head_p, fld_put_away, b1_eq_one]) (by decide) (by simp_all [Instr.wf, OpsRecWord.wf])

theorem aadd (o : OpsAtom) : Statement (.aadd o) := by
  intro h w e
  simp only [encode, Option.some.injEq] at e
  subst e
  exact good_of_head (op := 0x70) (g := o.g) (by simp (discharger := omega) [fld_or, fld_head_op, fld_put_away]) (by simp (discharger := omega) [guardOf, fld_or, fld_head_neg, fld_head_p, fld_put_away, b1_eq_one]) (by decide) (by simp_all [Instr.wf, OpsAtom.wf])

theorem amin (o : OpsAtom) : Statement (.amin o) := by
  intro h w e
  simp only [encode, Option.some.injEq] at e
  subst e
  exact good_of_head (op := 0x71) (g := o.g) (by simp (discharger := omega) [fld_or, fld_head_op, fld_put_away]) (by simp (discharger := omega) [guardOf, fld_or, fld_head_neg, fld_head_p, fld_put_away, b1_eq_one]) (by decide) (by simp_all [Instr.wf, OpsAtom.wf])

theorem amax (o : OpsAtom) : Statement (.amax o) := by
  intro h w e
  simp only [encode, Option.some.injEq] at e
  subst e
  exact good_of_head (op := 0x72) (g := o.g) (by simp (discharger := omega) [fld_or, fld_head_op, fld_put_away]) (by simp (discharger := omega) [guardOf, fld_or, fld_head_neg, fld_head_p, fld_put_away, b1_eq_one]) (by decide) (by simp_all [Instr.wf, OpsAtom.wf])

theorem aand (o : OpsAtom) : Statement (.aand o) := by
  intro h w e
  simp only [encode, Option.some.injEq] at e
  subst e
  exact good_of_head (op := 0x73) (g := o.g) (by simp (discharger := omega) [fld_or, fld_head_op, fld_put_away]) (by simp (discharger := omega) [guardOf, fld_or, fld_head_neg, fld_head_p, fld_put_away, b1_eq_one]) (by decide) (by simp_all [Instr.wf, OpsAtom.wf])

theorem aor (o : OpsAtom) : Statement (.aor o) := by
  intro h w e
  simp only [encode, Option.some.injEq] at e
  subst e
  exact good_of_head (op := 0x74) (g := o.g) (by simp (discharger := omega) [fld_or, fld_head_op, fld_put_away]) (by simp (discharger := omega) [guardOf, fld_or, fld_head_neg, fld_head_p, fld_put_away, b1_eq_one]) (by decide) (by simp_all [Instr.wf, OpsAtom.wf])

theorem axor (o : OpsAtom) : Statement (.axor o) := by
  intro h w e
  simp only [encode, Option.some.injEq] at e
  subst e
  exact good_of_head (op := 0x75) (g := o.g) (by simp (discharger := omega) [fld_or, fld_head_op, fld_put_away]) (by simp (discharger := omega) [guardOf, fld_or, fld_head_neg, fld_head_p, fld_put_away, b1_eq_one]) (by decide) (by simp_all [Instr.wf, OpsAtom.wf])

theorem axchg (o : OpsAtom) : Statement (.axchg o) := by
  intro h w e
  simp only [encode, Option.some.injEq] at e
  subst e
  exact good_of_head (op := 0x76) (g := o.g) (by simp (discharger := omega) [fld_or, fld_head_op, fld_put_away]) (by simp (discharger := omega) [guardOf, fld_or, fld_head_neg, fld_head_p, fld_put_away, b1_eq_one]) (by decide) (by simp_all [Instr.wf, OpsAtom.wf])

theorem acas (o : OpsAtom) : Statement (.acas o) := by
  intro h w e
  simp only [encode, Option.some.injEq] at e
  subst e
  exact good_of_head (op := 0x77) (g := o.g) (by simp (discharger := omega) [fld_or, fld_head_op, fld_put_away]) (by simp (discharger := omega) [guardOf, fld_or, fld_head_neg, fld_head_p, fld_put_away, b1_eq_one]) (by decide) (by simp_all [Instr.wf, OpsAtom.wf])

theorem ainc (o : OpsAtom) : Statement (.ainc o) := by
  intro h w e
  simp only [encode, Option.some.injEq] at e
  subst e
  exact good_of_head (op := 0x78) (g := o.g) (by simp (discharger := omega) [fld_or, fld_head_op, fld_put_away]) (by simp (discharger := omega) [guardOf, fld_or, fld_head_neg, fld_head_p, fld_put_away, b1_eq_one]) (by decide) (by simp_all [Instr.wf, OpsAtom.wf])

theorem afadd (o : OpsAtom) : Statement (.afadd o) := by
  intro h w e
  simp only [encode, Option.some.injEq] at e
  subst e
  exact good_of_head (op := 0x79) (g := o.g) (by simp (discharger := omega) [fld_or, fld_head_op, fld_put_away]) (by simp (discharger := omega) [guardOf, fld_or, fld_head_neg, fld_head_p, fld_put_away, b1_eq_one]) (by decide) (by simp_all [Instr.wf, OpsAtom.wf])

theorem amaxw (o : OpsAtom) : Statement (.amaxw o) := by
  intro h w e
  simp only [encode, Option.some.injEq] at e
  subst e
  exact good_of_head (op := 0x7A) (g := o.g) (by simp (discharger := omega) [fld_or, fld_head_op, fld_put_away]) (by simp (discharger := omega) [guardOf, fld_or, fld_head_neg, fld_head_p, fld_put_away, b1_eq_one]) (by decide) (by simp_all [Instr.wf, OpsAtom.wf])

theorem fence (o : OpsFence) : Statement (.fence o) := by
  intro h w e
  simp only [encode, Option.some.injEq] at e
  subst e
  exact good_of_head (op := 0x80) (g := o.g) (by simp (discharger := omega) [fld_or, fld_head_op, fld_put_away]) (by simp (discharger := omega) [guardOf, fld_or, fld_head_neg, fld_head_p, fld_put_away, b1_eq_one]) (by decide) (by simp_all [Instr.wf, OpsFence.wf])

theorem scfence (o : OpsG) : Statement (.scfence o) := by
  intro h w e
  simp only [encode, Option.some.injEq] at e
  subst e
  exact good_of_head (op := 0x81) (g := o.g) (by simp (discharger := omega) [fld_or, fld_head_op, fld_put_away]) (by simp (discharger := omega) [guardOf, fld_or, fld_head_neg, fld_head_p, fld_put_away, b1_eq_one]) (by decide) (by simp_all [Instr.wf, OpsG.wf])

theorem binit (o : OpsABC) : Statement (.binit o) := by
  intro h w e
  simp only [encode, Option.some.injEq] at e
  subst e
  exact good_of_head (op := 0x82) (g := o.g) (by simp (discharger := omega) [fld_or, fld_head_op, fld_put_away]) (by simp (discharger := omega) [guardOf, fld_or, fld_head_neg, fld_head_p, fld_put_away, b1_eq_one]) (by decide) (by simp_all [Instr.wf, OpsABC.wf])

theorem barv (o : OpsDA) : Statement (.barv o) := by
  intro h w e
  simp only [encode, Option.some.injEq] at e
  subst e
  exact good_of_head (op := 0x83) (g := o.g) (by simp (discharger := omega) [fld_or, fld_head_op, fld_put_away]) (by simp (discharger := omega) [guardOf, fld_or, fld_head_neg, fld_head_p, fld_put_away, b1_eq_one]) (by decide) (by simp_all [Instr.wf, OpsDA.wf])

theorem bexp (o : OpsAB) : Statement (.bexp o) := by
  intro h w e
  simp only [encode, Option.some.injEq] at e
  subst e
  exact good_of_head (op := 0x84) (g := o.g) (by simp (discharger := omega) [fld_or, fld_head_op, fld_put_away]) (by simp (discharger := omega) [guardOf, fld_or, fld_head_neg, fld_head_p, fld_put_away, b1_eq_one]) (by decide) (by simp_all [Instr.wf, OpsAB.wf])

theorem brd (o : OpsDA) : Statement (.brd o) := by
  intro h w e
  simp only [encode, Option.some.injEq] at e
  subst e
  exact good_of_head (op := 0x85) (g := o.g) (by simp (discharger := omega) [fld_or, fld_head_op, fld_put_away]) (by simp (discharger := omega) [guardOf, fld_or, fld_head_neg, fld_head_p, fld_put_away, b1_eq_one]) (by decide) (by simp_all [Instr.wf, OpsDA.wf])

theorem cpy (o : OpsX) : Statement (.cpy o) := by
  intro h w e
  simp only [encode, Option.some.injEq] at e
  subst e
  exact good_of_head (op := 0x90) (g := o.g) (by simp (discharger := omega) [fld_or, fld_head_op, fld_put_away]) (by simp (discharger := omega) [guardOf, fld_or, fld_head_neg, fld_head_p, fld_put_away, b1_eq_one]) (by decide) (by simp_all [Instr.wf, OpsX.wf])

theorem cpyg (o : OpsXi) : Statement (.cpyg o) := by
  intro h w e
  simp only [encode, Option.some.injEq] at e
  subst e
  exact good_of_head (op := 0x91) (g := o.g) (by simp (discharger := omega) [fld_or, fld_head_op, fld_put_away]) (by simp (discharger := omega) [guardOf, fld_or, fld_head_neg, fld_head_p, fld_put_away, b1_eq_one]) (by decide) (by simp_all [Instr.wf, OpsXi.wf])

theorem cpys (o : OpsXi) : Statement (.cpys o) := by
  intro h w e
  simp only [encode, Option.some.injEq] at e
  subst e
  exact good_of_head (op := 0x92) (g := o.g) (by simp (discharger := omega) [fld_or, fld_head_op, fld_put_away]) (by simp (discharger := omega) [guardOf, fld_or, fld_head_neg, fld_head_p, fld_put_away, b1_eq_one]) (by decide) (by simp_all [Instr.wf, OpsXi.wf])

theorem cpyr (o : OpsXr) : Statement (.cpyr o) := by
  intro h w e
  simp only [encode, Option.some.injEq] at e
  subst e
  exact good_of_head (op := 0x93) (g := o.g) (by simp (discharger := omega) [fld_or, fld_head_op, fld_put_away]) (by simp (discharger := omega) [guardOf, fld_or, fld_head_neg, fld_head_p, fld_put_away, b1_eq_one]) (by decide) (by simp_all [Instr.wf, OpsXr.wf])

theorem cpym (o : OpsX) : Statement (.cpym o) := by
  intro h w e
  simp only [encode, Option.some.injEq] at e
  subst e
  exact good_of_head (op := 0x94) (g := o.g) (by simp (discharger := omega) [fld_or, fld_head_op, fld_put_away]) (by simp (discharger := omega) [guardOf, fld_or, fld_head_neg, fld_head_p, fld_put_away, b1_eq_one]) (by decide) (by simp_all [Instr.wf, OpsX.wf])

theorem fill (o : OpsFill) : Statement (.fill o) := by
  intro h w e
  simp only [encode, Option.some.injEq] at e
  subst e
  exact good_of_head (op := 0x95) (g := o.g) (by simp (discharger := omega) [fld_or, fld_head_op, fld_put_away]) (by simp (discharger := omega) [guardOf, fld_or, fld_head_neg, fld_head_p, fld_put_away, b1_eq_one]) (by decide) (by simp_all [Instr.wf, OpsFill.wf])

theorem publish (o : OpsPub) : Statement (.publish o) := by
  intro h w e
  simp only [encode, Option.some.injEq] at e
  subst e
  exact good_of_head (op := 0x96) (g := o.g) (by simp (discharger := omega) [fld_or, fld_head_op, fld_put_away]) (by simp (discharger := omega) [guardOf, fld_or, fld_head_neg, fld_head_p, fld_put_away, b1_eq_one]) (by decide) (by simp_all [Instr.wf, OpsPub.wf])

theorem publishSwap (o : CmdAt) : Statement (.publishSwap o) := none_of_event rfl

theorem scfg (o : OpsCfg) : Statement (.scfg o) := by
  intro h w e
  simp only [encode, Option.some.injEq] at e
  subst e
  exact good_of_head (op := 0xA0) (g := o.g) (by simp (discharger := omega) [fld_or, fld_head_op, fld_put_away]) (by simp (discharger := omega) [guardOf, fld_or, fld_head_neg, fld_head_p, fld_put_away, b1_eq_one]) (by decide) (by simp_all [Instr.wf, OpsCfg.wf])

theorem scfgLoadDone (o : CmdAt) : Statement (.scfgLoadDone o) := none_of_event rfl

theorem sgo (o : OpsDA) : Statement (.sgo o) := by
  intro h w e
  simp only [encode, Option.some.injEq] at e
  subst e
  exact good_of_head (op := 0xA1) (g := o.g) (by simp (discharger := omega) [fld_or, fld_head_op, fld_put_away]) (by simp (discharger := omega) [guardOf, fld_or, fld_head_neg, fld_head_p, fld_put_away, b1_eq_one]) (by decide) (by simp_all [Instr.wf, OpsDA.wf])

theorem snext (o : OpsDA) : Statement (.snext o) := by
  intro h w e
  simp only [encode, Option.some.injEq] at e
  subst e
  exact good_of_head (op := 0xA2) (g := o.g) (by simp (discharger := omega) [fld_or, fld_head_op, fld_put_away]) (by simp (discharger := omega) [guardOf, fld_or, fld_head_neg, fld_head_p, fld_put_away, b1_eq_one]) (by decide) (by simp_all [Instr.wf, OpsDA.wf])

theorem sstop (o : OpsDA) : Statement (.sstop o) := by
  intro h w e
  simp only [encode, Option.some.injEq] at e
  subst e
  exact good_of_head (op := 0xA3) (g := o.g) (by simp (discharger := omega) [fld_or, fld_head_op, fld_put_away]) (by simp (discharger := omega) [guardOf, fld_or, fld_head_neg, fld_head_p, fld_put_away, b1_eq_one]) (by decide) (by simp_all [Instr.wf, OpsDA.wf])

theorem sbind (o : OpsCfg) : Statement (.sbind o) := by
  intro h w e
  simp only [encode, Option.some.injEq] at e
  subst e
  exact good_of_head (op := 0xA4) (g := o.g) (by simp (discharger := omega) [fld_or, fld_head_op, fld_put_away]) (by simp (discharger := omega) [guardOf, fld_or, fld_head_neg, fld_head_p, fld_put_away, b1_eq_one]) (by decide) (by simp_all [Instr.wf, OpsCfg.wf])

theorem sbar (o : OpsA) : Statement (.sbar o) := by
  intro h w e
  simp only [encode, Option.some.injEq] at e
  subst e
  exact good_of_head (op := 0xA5) (g := o.g) (by simp (discharger := omega) [fld_or, fld_head_op, fld_put_away]) (by simp (discharger := omega) [guardOf, fld_or, fld_head_neg, fld_head_p, fld_put_away, b1_eq_one]) (by decide) (by simp_all [Instr.wf, OpsA.wf])

theorem mtok (o : OpsAB) : Statement (.mtok o) := by
  intro h w e
  simp only [encode, Option.some.injEq] at e
  subst e
  exact good_of_head (op := 0xA6) (g := o.g) (by simp (discharger := omega) [fld_or, fld_head_op, fld_put_away]) (by simp (discharger := omega) [guardOf, fld_or, fld_head_neg, fld_head_p, fld_put_away, b1_eq_one]) (by decide) (by simp_all [Instr.wf, OpsAB.wf])

theorem trap (o : OpsCode) : Statement (.trap o) := by
  intro h w e
  simp only [encode, Option.some.injEq] at e
  subst e
  exact good_of_head (op := 0xF0) (g := o.g) (by simp (discharger := omega) [fld_or, fld_head_op, fld_put_away]) (by simp (discharger := omega) [guardOf, fld_or, fld_head_neg, fld_head_p, fld_put_away, b1_eq_one]) (by decide) (by simp_all [Instr.wf, OpsCode.wf])

theorem bkpt (o : OpsCode) : Statement (.bkpt o) := by
  intro h w e
  simp only [encode, Option.some.injEq] at e
  subst e
  exact good_of_head (op := 0xF4) (g := o.g) (by simp (discharger := omega) [fld_or, fld_head_op, fld_put_away]) (by simp (discharger := omega) [guardOf, fld_or, fld_head_neg, fld_head_p, fld_put_away, b1_eq_one]) (by decide) (by simp_all [Instr.wf, OpsCode.wf])

theorem eretResume (o : OpsG) : Statement (.eretResume o) := by
  intro h w e
  simp only [encode, Option.some.injEq] at e
  subst e
  exact good_of_head (op := 0xF1) (g := o.g) (by simp (discharger := omega) [fld_or, fld_head_op, fld_put_away]) (by simp (discharger := omega) [guardOf, fld_or, fld_head_neg, fld_head_p, fld_put_away, b1_eq_one]) (by decide) (by simp_all [Instr.wf, OpsG.wf])

theorem eretSkip (o : OpsG) : Statement (.eretSkip o) := by
  intro h w e
  simp only [encode, Option.some.injEq] at e
  subst e
  exact good_of_head (op := 0xF1) (g := o.g) (by simp (discharger := omega) [fld_or, fld_head_op, fld_put_away]) (by simp (discharger := omega) [guardOf, fld_or, fld_head_neg, fld_head_p, fld_put_away, b1_eq_one]) (by decide) (by simp_all [Instr.wf, OpsG.wf])

theorem tlbinv (o : OpsAB) : Statement (.tlbinv o) := by
  intro h w e
  simp only [encode, Option.some.injEq] at e
  subst e
  exact good_of_head (op := 0xF2) (g := o.g) (by simp (discharger := omega) [fld_or, fld_head_op, fld_put_away]) (by simp (discharger := omega) [guardOf, fld_or, fld_head_neg, fld_head_p, fld_put_away, b1_eq_one]) (by decide) (by simp_all [Instr.wf, OpsAB.wf])

theorem clasp (o : OpsDAB) : Statement (.clasp o) := by
  intro h w e
  simp only [encode, Option.some.injEq] at e
  subst e
  exact good_of_head (op := 0xF3) (g := o.g) (by simp (discharger := omega) [fld_or, fld_head_op, fld_put_away]) (by simp (discharger := omega) [guardOf, fld_or, fld_head_neg, fld_head_p, fld_put_away, b1_eq_one]) (by decide) (by simp_all [Instr.wf, OpsDAB.wf])

theorem save (o : OpsDABC) : Statement (.save o) := by
  intro h w e
  simp only [encode, Option.some.injEq] at e
  subst e
  exact good_of_head (op := 0xF5) (g := o.g) (by simp (discharger := omega) [fld_or, fld_head_op, fld_put_away]) (by simp (discharger := omega) [guardOf, fld_or, fld_head_neg, fld_head_p, fld_put_away, b1_eq_one]) (by decide) (by simp_all [Instr.wf, OpsDABC.wf])

theorem restore (o : OpsDA) : Statement (.restore o) := by
  intro h w e
  simp only [encode, Option.some.injEq] at e
  subst e
  exact good_of_head (op := 0xF6) (g := o.g) (by simp (discharger := omega) [fld_or, fld_head_op, fld_put_away]) (by simp (discharger := omega) [guardOf, fld_or, fld_head_neg, fld_head_p, fld_put_away, b1_eq_one]) (by decide) (by simp_all [Instr.wf, OpsDA.wf])

theorem replyFill (o : ReqAt) : Statement (.replyFill o) := none_of_event rfl

theorem ifetchLine (o : SlotAt) : Statement (.ifetchLine o) := none_of_event rfl

theorem qdesc (o : DomAt) : Statement (.qdesc o) := none_of_event rfl

theorem ldesc (o : DomAt) : Statement (.ldesc o) := none_of_event rfl

theorem qreset (o : DomAt) : Statement (.qreset o) := none_of_event rfl

theorem lkill (o : DomAt) : Statement (.lkill o) := none_of_event rfl

theorem xinv (o : DomAt) : Statement (.xinv o) := none_of_event rfl

theorem selftest (o : TestAt) : Statement (.selftest o) := none_of_event rfl

theorem attest (o : DomAt) : Statement (.attest o) := none_of_event rfl

theorem hostAccess (o : HostAccess) : Statement (.hostAccess o) := none_of_event rfl

theorem tailWrite (o : TailAt) : Statement (.tailWrite o) := none_of_event rfl

theorem queueClose (o : QueueAt) : Statement (.queueClose o) := none_of_event rfl

theorem queueDispense (o : QueueAt) : Statement (.queueDispense o) := none_of_event rfl

theorem queueReread (o : QueueAt) : Statement (.queueReread o) := none_of_event rfl

theorem awaitReread (o : QueueAt) : Statement (.awaitReread o) := none_of_event rfl

theorem schedulerDecision : Statement (.schedulerDecision) := none_of_event rfl

theorem compactionMoveDone (o : RegionAt) : Statement (.compactionMoveDone o) := none_of_event rfl

theorem imageFetchDone (o : ImageAt) : Statement (.imageFetchDone o) := none_of_event rfl

theorem preloadDone (o : RegionAt) : Statement (.preloadDone o) := none_of_event rfl

theorem dispatch (o : CoreAt) : Statement (.dispatch o) := none_of_event rfl

theorem continuationPost (o : CmdAt) : Statement (.continuationPost o) := none_of_event rfl

theorem waitTimeout (o : CmdAt) : Statement (.waitTimeout o) := none_of_event rfl

theorem timerSource (o : CmdAt) : Statement (.timerSource o) := none_of_event rfl

theorem gangEnd (o : GangAt) : Statement (.gangEnd o) := none_of_event rfl

theorem firing (o : UnitAt) : Statement (.firing o) := none_of_event rfl

theorem pass (o : StageAt) : Statement (.pass o) := none_of_event rfl

theorem const (o : StageAt) : Statement (.const o) := none_of_event rfl

theorem iadd (o : StageAt) : Statement (.iadd o) := none_of_event rfl

theorem isub (o : StageAt) : Statement (.isub o) := none_of_event rfl

theorem iaddc (o : StageAt) : Statement (.iaddc o) := none_of_event rfl

theorem isubb (o : StageAt) : Statement (.isubb o) := none_of_event rfl

theorem imul (o : StageAt) : Statement (.imul o) := none_of_event rfl

theorem imulh (o : StageAt) : Statement (.imulh o) := none_of_event rfl

theorem imacc (o : StageAt) : Statement (.imacc o) := none_of_event rfl

theorem imad (o : StageAt) : Statement (.imad o) := none_of_event rfl

theorem iand (o : StageAt) : Statement (.iand o) := none_of_event rfl

theorem ior (o : StageAt) : Statement (.ior o) := none_of_event rfl

theorem ixor (o : StageAt) : Statement (.ixor o) := none_of_event rfl

theorem ishl (o : StageAt) : Statement (.ishl o) := none_of_event rfl

theorem ishr (o : StageAt) : Statement (.ishr o) := none_of_event rfl

theorem isar (o : StageAt) : Statement (.isar o) := none_of_event rfl

theorem imin (o : StageAt) : Statement (.imin o) := none_of_event rfl

theorem imax (o : StageAt) : Statement (.imax o) := none_of_event rfl

theorem iminu (o : StageAt) : Statement (.iminu o) := none_of_event rfl

theorem imaxu (o : StageAt) : Statement (.imaxu o) := none_of_event rfl

theorem icmp (o : StageAt) : Statement (.icmp o) := none_of_event rfl

theorem isel (o : StageAt) : Statement (.isel o) := none_of_event rfl

theorem dot4 (o : StageAt) : Statement (.dot4 o) := none_of_event rfl

theorem iabs (o : StageAt) : Statement (.iabs o) := none_of_event rfl

theorem ipopc (o : StageAt) : Statement (.ipopc o) := none_of_event rfl

theorem iclz (o : StageAt) : Statement (.iclz o) := none_of_event rfl

theorem fadd (o : StageAt) : Statement (.fadd o) := none_of_event rfl

theorem fsub (o : StageAt) : Statement (.fsub o) := none_of_event rfl

theorem fmul (o : StageAt) : Statement (.fmul o) := none_of_event rfl

theorem ffma (o : StageAt) : Statement (.ffma o) := none_of_event rfl

theorem fmin (o : StageAt) : Statement (.fmin o) := none_of_event rfl

theorem fmax (o : StageAt) : Statement (.fmax o) := none_of_event rfl

theorem fcmp (o : StageAt) : Statement (.fcmp o) := none_of_event rfl

theorem fsel (o : StageAt) : Statement (.fsel o) := none_of_event rfl

theorem fmod (o : StageAt) : Statement (.fmod o) := none_of_event rfl

theorem hadd2 (o : StageAt) : Statement (.hadd2 o) := none_of_event rfl

theorem hmul2 (o : StageAt) : Statement (.hmul2 o) := none_of_event rfl

theorem hfma2 (o : StageAt) : Statement (.hfma2 o) := none_of_event rfl

theorem hmax2 (o : StageAt) : Statement (.hmax2 o) := none_of_event rfl

theorem hdot2 (o : StageAt) : Statement (.hdot2 o) := none_of_event rfl

theorem cvtif (o : StageAt) : Statement (.cvtif o) := none_of_event rfl

theorem cvtfi (o : StageAt) : Statement (.cvtfi o) := none_of_event rfl

theorem cvtfh (o : StageAt) : Statement (.cvtfh o) := none_of_event rfl

theorem cvthf (o : StageAt) : Statement (.cvthf o) := none_of_event rfl

theorem rcp (o : StageAt) : Statement (.rcp o) := none_of_event rfl

theorem rsq (o : StageAt) : Statement (.rsq o) := none_of_event rfl

theorem sqrt (o : StageAt) : Statement (.sqrt o) := none_of_event rfl

theorem exp2 (o : StageAt) : Statement (.exp2 o) := none_of_event rfl

theorem log2 (o : StageAt) : Statement (.log2 o) := none_of_event rfl

theorem shufl (o : StageAt) : Statement (.shufl o) := none_of_event rfl

theorem shufr (o : StageAt) : Statement (.shufr o) := none_of_event rfl

theorem bcast (o : StageAt) : Statement (.bcast o) := none_of_event rfl

theorem xadd (o : StageAt) : Statement (.xadd o) := none_of_event rfl

theorem xmax (o : StageAt) : Statement (.xmax o) := none_of_event rfl

theorem xfadd (o : StageAt) : Statement (.xfadd o) := none_of_event rfl

theorem hld (o : StageAt) : Statement (.hld o) := none_of_event rfl

theorem hacc (o : StageAt) : Statement (.hacc o) := none_of_event rfl

theorem hfacc (o : StageAt) : Statement (.hfacc o) := none_of_event rfl

theorem hout (o : StageAt) : Statement (.hout o) := none_of_event rfl

theorem steer (o : CtAt) : Statement (.steer o) := none_of_event rfl

theorem merge (o : CtAt) : Statement (.merge o) := none_of_event rfl

theorem carry (o : CtAt) : Statement (.carry o) := none_of_event rfl

theorem gate (o : CtAt) : Statement (.gate o) := none_of_event rfl

theorem sink (o : CtAt) : Statement (.sink o) := none_of_event rfl

theorem count (o : CtAt) : Statement (.count o) := none_of_event rfl

theorem lut4 (o : CtAt) : Statement (.lut4 o) := none_of_event rfl

theorem repeatOp (o : CtAt) : Statement (.repeatOp o) := none_of_event rfl

theorem seq (o : CtAt) : Statement (.seq o) := none_of_event rfl

theorem pipe (o : CtAt) : Statement (.pipe o) := none_of_event rfl

theorem stream (o : CtAt) : Statement (.stream o) := none_of_event rfl

theorem mseq (o : CtAt) : Statement (.mseq o) := none_of_event rfl

theorem agWalkStart (o : AgAt) : Statement (.agWalkStart o) := none_of_event rfl

theorem agReadToken (o : AgAt) : Statement (.agReadToken o) := none_of_event rfl

theorem agWrite (o : AgAt) : Statement (.agWrite o) := none_of_event rfl

theorem agWriteDone (o : AgAt) : Statement (.agWriteDone o) := none_of_event rfl

theorem muFifo (o : MuPortAt) : Statement (.muFifo o) := none_of_event rfl

theorem muTable (o : MuAt) : Statement (.muTable o) := none_of_event rfl

theorem waccPush (o : MuAt) : Statement (.waccPush o) := none_of_event rfl

theorem waccQuery (o : MuAt) : Statement (.waccQuery o) := none_of_event rfl

theorem waccMarker (o : MuAt) : Statement (.waccMarker o) := none_of_event rfl

theorem accrRequest (o : MuAt) : Statement (.accrRequest o) := none_of_event rfl

theorem lxConvert (o : PatchAt) : Statement (.lxConvert o) := none_of_event rfl

theorem lxPlane (o : PatchAt) : Statement (.lxPlane o) := none_of_event rfl

theorem claspDelivery (o : CmdAt) : Statement (.claspDelivery o) := none_of_event rfl

theorem configStep (o : RegionAt) : Statement (.configStep o) := none_of_event rfl

theorem rollingSwap (o : PatchAt) : Statement (.rollingSwap o) := none_of_event rfl

theorem regionDone (o : RegionAt) : Statement (.regionDone o) := none_of_event rfl

theorem matrixAccept (o : CoreAt) : Statement (.matrixAccept o) := none_of_event rfl

theorem mxPinToken (o : PatchAt) : Statement (.mxPinToken o) := none_of_event rfl

theorem mma (o : CmdAt) : Statement (.mma o) := none_of_event rfl

theorem mmaz (o : CmdAt) : Statement (.mmaz o) := none_of_event rfl

theorem mzero (o : CmdAt) : Statement (.mzero o) := none_of_event rfl

theorem mdrain (o : CmdAt) : Statement (.mdrain o) := none_of_event rfl

theorem mmar (o : CmdAt) : Statement (.mmar o) := none_of_event rfl

theorem mmarz (o : CmdAt) : Statement (.mmarz o) := none_of_event rfl

theorem matrixTokenComplete (o : CmdAt) : Statement (.matrixTokenComplete o) := none_of_event rfl

theorem xuSectorWrite (o : CmdAt) : Statement (.xuSectorWrite o) := none_of_event rfl

theorem xuCommandComplete (o : CmdAt) : Statement (.xuCommandComplete o) := none_of_event rfl

theorem collarReadRelease (o : ReqAt) : Statement (.collarReadRelease o) := none_of_event rfl

theorem translationWalkDone (o : WalkAt) : Statement (.translationWalkDone o) := none_of_event rfl

theorem routerRound (o : RouterAt) : Statement (.routerRound o) := none_of_event rfl

theorem periodicDrain : Statement (.periodicDrain) := none_of_event rfl

theorem stitch : Statement (.stitch) := none_of_event rfl

theorem permitRefill (o : CoreAt) : Statement (.permitRefill o) := none_of_event rfl

theorem budgetReload (o : CoreAt) : Statement (.budgetReload o) := none_of_event rfl

theorem throttleChange (o : ThrottleAt) : Statement (.throttleChange o) := none_of_event rfl

theorem powerGate (o : GateAt) : Statement (.powerGate o) := none_of_event rfl

theorem watchdog (o : RegionAt) : Statement (.watchdog o) := none_of_event rfl

theorem memto (o : ReqAt) : Statement (.memto o) := none_of_event rfl

theorem domainNack (o : ReqAt) : Statement (.domainNack o) := none_of_event rfl

theorem retransmit (o : ReqAt) : Statement (.retransmit o) := none_of_event rfl

theorem nodeUnreachable (o : NodeAt) : Statement (.nodeUnreachable o) := none_of_event rfl

theorem linkRetrain (o : LinkAt) : Statement (.linkRetrain o) := none_of_event rfl

theorem patrolScrub (o : ScrubAt) : Statement (.patrolScrub o) := none_of_event rfl

theorem schedulerPreempt (o : QueueAt) : Statement (.schedulerPreempt o) := none_of_event rfl

theorem mgmtPreempt (o : GangAt) : Statement (.mgmtPreempt o) := none_of_event rfl

theorem logSeal (o : GangAt) : Statement (.logSeal o) := none_of_event rfl

theorem holdEntry : Statement (.holdEntry) := none_of_event rfl

theorem holdRecovery : Statement (.holdRecovery) := none_of_event rfl

theorem emergencySave : Statement (.emergencySave) := none_of_event rfl

theorem powerLoss : Statement (.powerLoss) := none_of_event rfl

theorem powerWindow (o : WindowAt) : Statement (.powerWindow o) := none_of_event rfl

theorem thermalChange (o : ThermalAt) : Statement (.thermalChange o) := none_of_event rfl

theorem thermalTrip (o : ThermalAt) : Statement (.thermalTrip o) := none_of_event rfl

theorem railSet (o : RailAt) : Statement (.railSet o) := none_of_event rfl

theorem coldReset (o : BringUp) : Statement (.coldReset o) := none_of_event rfl

theorem warmReset : Statement (.warmReset) := none_of_event rfl

theorem h1Takeover (o : TakeoverAt) : Statement (.h1Takeover o) := none_of_event rfl

theorem shockEvent (o : ShockAt) : Statement (.shockEvent o) := none_of_event rfl

theorem performedAtHome (o : ReqAt) : Statement (.performedAtHome o) := none_of_event rfl

theorem retrainingComplete (o : RetrainAt) : Statement (.retrainingComplete o) := none_of_event rfl

theorem schedulerRestore (o : GangAt) : Statement (.schedulerRestore o) := none_of_event rfl

end Sys2Proof.Laws.Encoded
end

