-- ==== Sys2Proof/Laws/Port.lean ====
section
/-! SUPPORT. What asking for a unit's bytes and sending its writes may do: a request joins its core's, in the order of the list, and memory,
other cores but their page marks, and all that is not a core stay as they are. -/

namespace Sys2Proof.Machine

/-- What a page mark leaves. -/
@[simp] theorem State.markPage_mem (s : State) (g : Option GangId) (h : Home) : (s.markPage g h).mem = s.mem := by
  unfold State.markPage
  split <;> rfl

/-- A page mark changes at most the cores. -/
theorem State.markPage_cores (s : State) (g : Option GangId) (h : Home) : ∃ ks, s.markPage g h = { s with cores := ks } := by
  unfold State.markPage
  split
  · exact ⟨_, rfl⟩
  · exact ⟨_, rfl⟩

/-- A unit asks only when it has a permit, and then its request is the core's next. -/
theorem State.ask_some {s t : State} {u : Requester} {op : ReqOp} {x : Target} (h : s.ask u op x = some t) :
    (s.core u.core).permitted u.core (u.req op x).dest = true ∧
      t = (s.setCore u.core ((s.core u.core).issueReq u.core (u.req op x))).markPage u.gang x.home := by
  simp only [State.ask] at h
  split at h
  · exact ⟨‹_›, (Option.some.inj h).symm⟩
  · cases h

theorem State.ask_none {s : State} {u : Requester} {op : ReqOp} {x : Target} (h : (s.core u.core).permitted u.core (u.req op x).dest = false) :
    s.ask u op x = none := by
  simp [State.ask, h]

theorem State.ask_mem {s t : State} {u : Requester} {op : ReqOp} {x : Target} (h : s.ask u op x = some t) : t.mem = s.mem := by
  obtain ⟨-, rfl⟩ := State.ask_some h
  simp

/-- A payment and the request that it is for. -/
theorem State.payAsk_mem {s t : State} {u : Requester} {pay : State → Option State} {op : ReqOp} {x : Target}
    (hp : ∀ a b, pay a = some b → b.mem = a.mem) (h : ((pay s).bind fun s => s.ask u op x) = some t) : t.mem = s.mem := by
  cases hb : pay s with
  | none => simp [hb] at h
  | some b =>
    rw [hb] at h
    exact (State.ask_mem h).trans (hp s b hb)

/-- Reads are asked for, and memory is as it was. -/
theorem State.askAll_mem (u : Requester) {pay : State → Option State} (hp : ∀ a b, pay a = some b → b.mem = a.mem) (xs : List Span) (s : State) :
    (s.askAll u pay xs).mem = s.mem := by
  induction xs generalizing s with
  | nil => rfl
  | cons x xs ih =>
    simp only [State.askAll]
    split
    · exact ih s
    · split
      · exact ih s
      · next t h => exact (ih t).trans (State.payAsk_mem hp h)

/-- Writes are sent in their order: what is left is the end of the list, and memory is as it was. -/
theorem State.sendPuts_mem (u : Requester) {pay : State → Option State} (hp : ∀ a b, pay a = some b → b.mem = a.mem) (ps : List Put) (s : State) :
    (s.sendPuts u pay ps).1.mem = s.mem ∧ ∃ sent, ps = sent ++ (s.sendPuts u pay ps).2 := by
  induction ps generalizing s with
  | nil => exact ⟨rfl, [], rfl⟩
  | cons p ps ih =>
    simp only [State.sendPuts]
    split
    · exact ⟨rfl, [], rfl⟩
    · next t h =>
      obtain ⟨hm, sent, hs⟩ := ih t
      exact ⟨hm.trans (State.payAsk_mem hp h), p :: sent, congrArg (p :: ·) hs⟩

/-- Everything that a unit's reads may come to: with no error on the port, the reads of other bytes are nobody's any more; the rest are all
back, or what is missing is asked for. -/
theorem State.fetch_cases (s : State) (u : Requester) (ws : List Want) (pay : State → Option State) (more : List Span) :
    (∃ e, (s.core u.core).portError u.port = some e ∧ s.fetch u ws pay more = .failed e) ∨
      ((s.core u.core).portError u.port = none ∧ ∃ t, t = (s.onCore u.core fun k => k.keepReads u.port (spansOf ws ++ more)) ∧
        ((∀ x ∈ spansOf ws, (((t.core u.core).asked u.port x).bind fun r => r.reply?).isSome = true) ∧
            s.fetch u ws pay more = .ready (t.seen u) ∨
          s.fetch u ws pay more = .waiting (t.askAll u pay (spansOf ws)))) := by
  unfold State.fetch
  cases h : (s.core u.core).portError u.port with
  | some e => exact .inl ⟨e, rfl, rfl⟩
  | none =>
    refine .inr ⟨rfl, _, rfl, ?_⟩
    dsimp only
    split
    · next hx => exact .inl ⟨List.all_eq_true.mp hx, rfl⟩
    · exact .inr rfl

/-- A unit that waits for its reads leaves memory as it was. -/
theorem State.fetch_waiting_mem {s t : State} {u : Requester} {ws : List Want} {pay : State → Option State} {more : List Span}
    (hp : ∀ a b, pay a = some b → b.mem = a.mem) (h : s.fetch u ws pay more = .waiting t) : t.mem = s.mem := by
  obtain ⟨e, -, h'⟩ | ⟨-, k, rfl, ⟨-, h'⟩ | h'⟩ := s.fetch_cases u ws pay more
  · cases h'.symm.trans h
  · cases h'.symm.trans h
  · obtain rfl : _ = t := Fetched.waiting.inj (h'.symm.trans h)
    rw [State.askAll_mem u hp]
    simp

end Sys2Proof.Machine
end

