-- ==== Sys2Proof/Tests/Slice0.lean ====
section
/-! SUPPORT. Tests: words worked by hand from the encoding tables, ill-formed terms that WellFormed refuses, single steps whose results are the
specification's, and for every statement a state and operands that meet what it assumes. -/

set_option Elab.async false
set_option maxRecDepth 20000
set_option exponentiation.threshold 2000

namespace Sys2Proof.Tests

open Sys2Proof.Machine Sys2Proof.Claims

/-! ### Words (R115 to R124) -/

/-- Every listed word decodes to its instruction, and the words of the second list are refused. -/
abbrev Reads (good : List (Word × Instr)) (bad : List Word) : Prop :=
  (good.all fun e => (decode e.1).toOption == some e.2) = true ∧ (bad.all fun w => (decode w).toOption == none) = true

/-- R116: d 63, a 1, b 2, fea set; then d 5, a 6, b 7, feb set, under !p3. -/
theorem test_decode_alu : Reads [
    (0x100FC10808000000, .add ⟨⟨false, 0⟩, 63, 1, 2, true, false⟩),
    (0x110FC10808000000, .sub ⟨⟨false, 0⟩, 63, 1, 2, true, false⟩),
    (0x120FC10808000000, .mul ⟨⟨false, 0⟩, 63, 1, 2, true, false⟩),
    (0x160FC10808000000, .and ⟨⟨false, 0⟩, 63, 1, 2, true, false⟩),
    (0x170FC10808000000, .or ⟨⟨false, 0⟩, 63, 1, 2, true, false⟩),
    (0x180FC10808000000, .xor ⟨⟨false, 0⟩, 63, 1, 2, true, false⟩),
    (0x190FC10808000000, .andn ⟨⟨false, 0⟩, 63, 1, 2, true, false⟩),
    (0x1A0FC10808000000, .shl ⟨⟨false, 0⟩, 63, 1, 2, true, false⟩),
    (0x1B0FC10808000000, .shr ⟨⟨false, 0⟩, 63, 1, 2, true, false⟩),
    (0x1C0FC10808000000, .sar ⟨⟨false, 0⟩, 63, 1, 2, true, false⟩),
    (0x1D0FC10808000000, .rotl ⟨⟨false, 0⟩, 63, 1, 2, true, false⟩),
    (0x23B1461C04000000, .bext ⟨⟨true, 3⟩, 5, 6, 7, false, true⟩),
    (0x25B1461C04000000, .ext ⟨⟨true, 3⟩, 5, 6, 7, false, true⟩),
    (0xF3B1461C04000000, .clasp ⟨⟨true, 3⟩, 5, 6, 7, false, true⟩)] [] := by decide

/-- Table 5-5: fn[0] chooses unsigned. -/
theorem test_decode_signs : Reads [
    (0x13024A2C00010000, .mulh ⟨⟨false, 0⟩, 9, 10, 11, false, false, true⟩),
    (0x14024A2C00010000, .div ⟨⟨false, 0⟩, 9, 10, 11, false, false, true⟩),
    (0x15024A2C00010000, .rem ⟨⟨false, 0⟩, 9, 10, 11, false, false, true⟩),
    (0x1E024A2C00010000, .min ⟨⟨false, 0⟩, 9, 10, 11, false, false, true⟩),
    (0x1F024A2C00000000, .max ⟨⟨false, 0⟩, 9, 10, 11, false, false, false⟩)] [0x1E024A2C00020000] := by decide

/-- R116: d and a alone. -/
theorem test_decode_unary : Reads [
    (0x20030D0008000000, .clz ⟨⟨false, 0⟩, 12, 13, true⟩),
    (0x21030D0008000000, .ctz ⟨⟨false, 0⟩, 12, 13, true⟩),
    (0x22030D0008000000, .popc ⟨⟨false, 0⟩, 12, 13, true⟩),
    (0x83030D0008000000, .barv ⟨⟨false, 0⟩, 12, 13, true⟩),
    (0x85030D0008000000, .brd ⟨⟨false, 0⟩, 12, 13, true⟩),
    (0xA1030D0008000000, .sgo ⟨⟨false, 0⟩, 12, 13, true⟩),
    (0xA2030D0008000000, .snext ⟨⟨false, 0⟩, 12, 13, true⟩),
    (0xA3030D0008000000, .sstop ⟨⟨false, 0⟩, 12, 13, true⟩),
    (0xF6030D0008000000, .restore ⟨⟨false, 0⟩, 12, 13, true⟩)] [] := by decide

/-- R116, Table 5-5: three sources; SEL reads a predicate. -/
theorem test_decode_three : Reads [
    (0x2400420C42000000, .bins ⟨⟨false, 0⟩, 1, 2, 3, 4, false, false, true⟩),
    (0x2700420C42000000, .mad ⟨⟨false, 0⟩, 1, 2, 3, 4, false, false, true⟩),
    (0xF500420C42000000, .save ⟨⟨false, 0⟩, 1, 2, 3, 4, false, false, true⟩),
    (0x8200020C4C000000, .binit ⟨⟨false, 0⟩, 2, 3, 4, true, true, false⟩),
    (0x2600420C000E0000, .sel ⟨⟨false, 0⟩, 1, 2, 3, false, false, 6, true⟩)] [] := by decide

/-- R117, R118, Table 5-11. -/
theorem test_decode_immediates : Reads [
    (0x3001C8800000003F, .addi ⟨⟨false, 0⟩, 7, 8, true, 63⟩),
    (0x3101C8800000003F, .andi ⟨⟨false, 0⟩, 7, 8, true, 63⟩),
    (0x3201C8800000003F, .ori ⟨⟨false, 0⟩, 7, 8, true, 63⟩),
    (0x3301C8800000003F, .xori ⟨⟨false, 0⟩, 7, 8, true, 63⟩),
    (0x3401C8800000003F, .shli ⟨⟨false, 0⟩, 7, 8, true, 63⟩),
    (0x3501C8800000003F, .shri ⟨⟨false, 0⟩, 7, 8, true, 63⟩),
    (0x3601C8800000003F, .sari ⟨⟨false, 0⟩, 7, 8, true, 63⟩),
    (0x3701C8800000003F, .muli ⟨⟨false, 0⟩, 7, 8, true, 63⟩),
    (0x3802600000000000, .movi ⟨⟨false, 0⟩, 9, 0x200000000000⟩),
    (0x390240000003FFFF, .movhi ⟨⟨false, 0⟩, 9, 0x3FFFF⟩),
    (0x3A01C80980000000, .cmpi ⟨⟨false, 0⟩, 7, 8, false, 9, 0x80000000⟩)] [0x3A01C80A00000000, 0x3401C80000000040] := by decide

/-- Table 5-5: D, A and B name predicates in [2:0]. -/
theorem test_decode_predicates : Reads [
    (0x4001C82400050000, .cmp ⟨⟨false, 0⟩, 7, 8, 9, false, false, 5⟩),
    (0x4100420C00000000, .pand ⟨⟨false, 0⟩, 1, 2, 3⟩),
    (0x4200420C00000000, .por ⟨⟨false, 0⟩, 1, 2, 3⟩),
    (0x4300420C00000000, .pxor ⟨⟨false, 0⟩, 1, 2, 3⟩),
    (0x4400420000000000, .pnot ⟨⟨false, 0⟩, 1, 2⟩),
    (0x4500420000000000, .pmov ⟨⟨false, 0⟩, 1, 2⟩)] [0x4102020C00000000] := by decide

/-- R115, R117, R119, R123, Table 5-5. -/
theorem test_decode_control : Reads [
    (0x0100000000000000, .nop ⟨⟨false, 0⟩⟩),
    (0x50B00000FFFFFFFF, .br ⟨⟨true, 3⟩, 0xFFFFFFFF⟩),
    (0x5101400000000002, .jal ⟨⟨false, 0⟩, 5, 2⟩),
    (0x5200060008000000, .jr ⟨⟨false, 0⟩, 6, true⟩),
    (0x5300078000000003, .loop ⟨⟨false, 0⟩, 7, true, 3⟩),
    (0x54003F7F00000003, .loopi ⟨⟨false, 0⟩, 8191, 3⟩),
    (0x5500000000000000, .lbrk ⟨⟨false, 0⟩⟩),
    (0x5620000000000000, .endTask ⟨⟨false, 2⟩⟩),
    (0x5700031004000000, .send ⟨⟨false, 0⟩, 3, 4, false, true⟩),
    (0x58026110E89C5830, .wait ⟨⟨false, 0⟩, 9, true, 2, ⟨1, 3⟩, ⟨5, 4⟩, ⟨7, 5⟩, ⟨4, 6⟩⟩),
    (0x5901461C00000000, .popFail ⟨⟨false, 0⟩, 5, 6, 7, false⟩),
    (0x5900060001410000, .popBlock ⟨⟨false, 0⟩, 6, 40, false⟩),
    (0x5A00031008000000, .push ⟨⟨false, 0⟩, 3, 4, true, false⟩),
    (0x5B000504FFFFFFF0, .spec ⟨⟨false, 0⟩, 4, 5, 0xFFFFFFF0⟩)] [] := by decide

/-- Table 5-5: fn is the special-register number. -/
theorem test_decode_special : Reads [
    (0x5E01400001190000, .mfs ⟨⟨false, 0⟩, 5, 0, false, 0x119⟩),
    (0x5E01460001070000, .mfs ⟨⟨false, 0⟩, 5, 6, false, 0x107⟩),
    (0x5F000600010B0000, .mts ⟨⟨false, 0⟩, 6, false, 0x10B⟩),
    (0x5F00061C05070000, .mtsChbind ⟨⟨false, 0⟩, 6, 7, false, true⟩),
    (0x5F000600080B0000, .mtsCvstat ⟨⟨false, 0⟩, 6, true⟩),
    (0x5F00060009080000, .mtsRailsel ⟨⟨false, 0⟩, 6, true⟩),
    (0x5F000600090A0000, .mtsBudget ⟨⟨false, 0⟩, 6, true⟩),
    (0x5F00060009090000, .mtsPermits ⟨⟨false, 0⟩, 6, true⟩),
    (0x5F00060009010000, .mtsEpc ⟨⟨false, 0⟩, 6, true⟩),
    (0x5F00060001170000, .mtsClasp ⟨⟨false, 0⟩, 6, false, 7⟩)] [0x5E01460001190000] := by decide

/-- R120, R321, Table 5-9. -/
theorem test_decode_memory : Reads [
    (0x600105FFBABFFFFF, .ld ⟨⟨false, 0⟩, 4, 5, 255, true, false, 3, 5, 1, true, 0x1FFFFF⟩),
    (0x610105FFBB3FFFFF, .st ⟨⟨false, 0⟩, 4, 5, 255, true, false, 3, 5, 2, true, 0x1FFFFF⟩),
    (0x620105FFBABFFFFF, .ldp ⟨⟨false, 0⟩, 4, 5, 255, true, false, 3, 5, 1, true, 0x1FFFFF⟩),
    (0x630105FFBB3FFFFF, .stp ⟨⟨false, 0⟩, 4, 5, 255, true, false, 3, 5, 2, true, 0x1FFFFF⟩),
    (0x6400050634800008, .recld ⟨⟨false, 0⟩, 5, 6, false, 2, 1, false, 8⟩),
    (0x6500050635000008, .recst ⟨⟨false, 0⟩, 5, 6, false, 2, 2, false, 8⟩),
    (0x6601C00640000003, .recset ⟨⟨false, 0⟩, 7, 6, true, 3⟩),
    (0x6701C00640000003, .recget ⟨⟨false, 0⟩, 7, 6, true, 3⟩)] [0x6201400030000000, 0x600105000C000000, 0x6001050000400000, 0x6001050001000000, 0x6101050000800000] := by decide

/-- R121: sign for AMIN and AMAX, cmp for ACAS, no v for AINC, sz 2 for AFADD. -/
theorem test_decode_atomics : Reads [
    (0x70018302390381F8, .aadd ⟨⟨false, 0⟩, 6, 3, 2, false, false, 3, 4, 2, false, 7, 0, 0x1F8⟩),
    (0x71018302392381F8, .amin ⟨⟨false, 0⟩, 6, 3, 2, false, false, 3, 4, 2, true, 7, 0, 0x1F8⟩),
    (0x72018302392381F8, .amax ⟨⟨false, 0⟩, 6, 3, 2, false, false, 3, 4, 2, true, 7, 0, 0x1F8⟩),
    (0x73018302390381F8, .aand ⟨⟨false, 0⟩, 6, 3, 2, false, false, 3, 4, 2, false, 7, 0, 0x1F8⟩),
    (0x74018302390381F8, .aor ⟨⟨false, 0⟩, 6, 3, 2, false, false, 3, 4, 2, false, 7, 0, 0x1F8⟩),
    (0x75018302390381F8, .axor ⟨⟨false, 0⟩, 6, 3, 2, false, false, 3, 4, 2, false, 7, 0, 0x1F8⟩),
    (0x76018302390381F8, .axchg ⟨⟨false, 0⟩, 6, 3, 2, false, false, 3, 4, 2, false, 7, 0, 0x1F8⟩),
    (0x77018302390391F8, .acas ⟨⟨false, 0⟩, 6, 3, 2, false, false, 3, 4, 2, false, 7, 8, 0x1F8⟩),
    (0x78018302390001F8, .ainc ⟨⟨false, 0⟩, 6, 3, 2, false, false, 3, 4, 2, false, 0, 0, 0x1F8⟩),
    (0x79018302290381F8, .afadd ⟨⟨false, 0⟩, 6, 3, 2, false, false, 2, 4, 2, false, 7, 0, 0x1F8⟩),
    (0x7A018302390381F8, .amaxw ⟨⟨false, 0⟩, 6, 3, 2, false, false, 3, 4, 2, false, 7, 0, 0x1F8⟩)] [0x7901830239038000, 0x7001830219038000] := by decide

/-- Table 5-5, R116: scope codes; BEXP names no d. -/
theorem test_decode_ordering : Reads [
    (0x8000000000050000, .fence ⟨⟨false, 0⟩, 5⟩),
    (0x8100000000040000, .scfence ⟨⟨false, 0⟩⟩),
    (0x8400031008000000, .bexp ⟨⟨false, 0⟩, 3, 4, true, false⟩)] [0x8100000000030000] := by decide

/-- R122, Table 5-10a. -/
theorem test_decode_transfers : Reads [
    (0x90001020C4F87800, .cpy ⟨⟨false, 0⟩, 1, 2, 3, 4, 31, 1, 3, true⟩),
    (0x91001020C4F840FF, .cpyg ⟨⟨false, 0⟩, 1, 2, 3, 4, 31, 1, 0, false, 255⟩),
    (0x92001020C4F80009, .cpys ⟨⟨false, 0⟩, 1, 2, 3, 4, 31, 0, 0, false, 9⟩),
    (0x93001020C4280006, .cpyr ⟨⟨false, 0⟩, 1, 2, 3, 4, 5, 0, 0, false, 6⟩),
    (0x94001020C4280000, .cpym ⟨⟨false, 0⟩, 1, 2, 3, 4, 5, 0, 0, false⟩),
    (0x95000020C4280000, .fill ⟨⟨false, 0⟩, 2, 3, 4, 5⟩),
    (0x9600002000280000, .publish ⟨⟨false, 0⟩, 2, 5⟩),
    (0xA000100004280000, .scfg ⟨⟨false, 0⟩, 1, 4, 5⟩),
    (0xA400100004280000, .sbind ⟨⟨false, 0⟩, 1, 4, 5⟩),
    (0xA500040000000000, .sbar ⟨⟨false, 0⟩, 4, false⟩),
    (0xA600041400000000, .mtok ⟨⟨false, 0⟩, 4, 5, false, false⟩)] [0x90001020C4FBC000] := by decide

/-- R117, Table 5-5. -/
theorem test_decode_system : Reads [
    (0xF000000000000007, .trap ⟨⟨false, 0⟩, 7⟩),
    (0xF4000000FFFFFFFF, .bkpt ⟨⟨false, 0⟩, 0xFFFFFFFF⟩),
    (0xF100000000000000, .eretResume ⟨⟨false, 0⟩⟩),
    (0xF100000000010000, .eretSkip ⟨⟨false, 0⟩⟩),
    (0xF20004140C000000, .tlbinv ⟨⟨false, 0⟩, 4, 5, true, true⟩)] [0x0000000000000000, 0x0200000000000000, 0x0180000000000000] := by decide

/-! ### Well-formed terms (Table 5-21, and the ranges of places) -/

/-- A guard that is reserved, codes out of range, fields that are to be 0: one ill-formed term for each check of a word. -/
theorem test_wf_words_refused : ([.nop ⟨⟨true, 0⟩⟩, .add ⟨⟨true, 0⟩, 1, 2, 3, false, false⟩, .cmp ⟨⟨false, 0⟩, 1, 2, 3, false, false, 10⟩,
    .cmpi ⟨⟨false, 0⟩, 1, 2, false, 15, 0⟩, .spec ⟨⟨false, 0⟩, 6, 1, 1⟩,
    .wait ⟨⟨false, 0⟩, 0, false, 0, ⟨0, 1⟩, ⟨0, 0⟩, ⟨0, 0⟩, ⟨0, 0⟩⟩, .wait ⟨⟨false, 0⟩, 0, false, 0, ⟨0, 0⟩, ⟨0, 0⟩, ⟨0, 0⟩, ⟨0, 9⟩⟩,
    .mfs ⟨⟨false, 0⟩, 1, 2, false, 0x101⟩, .mfs ⟨⟨false, 0⟩, 1, 0, true, 0x101⟩, .mts ⟨⟨false, 0⟩, 1, false, 0x101⟩, .mts ⟨⟨false, 0⟩, 1, false, 0x117⟩,
    .ld ⟨⟨false, 0⟩, 1, 2, 3, false, false, 3, 6, 0, false, 0⟩, .ld ⟨⟨false, 0⟩, 1, 2, 3, false, false, 3, 1, 2, false, 0⟩,
    .st ⟨⟨false, 0⟩, 1, 2, 3, false, false, 3, 1, 1, false, 0⟩, .ldp ⟨⟨false, 0⟩, 1, 2, 3, false, false, 3, 1, 0, false, 0⟩,
    .stp ⟨⟨false, 0⟩, 2, 2, 3, false, false, 2, 1, 0, false, 0⟩, .recld ⟨⟨false, 0⟩, 2, 3, false, 7, 0, false, 0⟩] : List Instr).all
      (fun i => !i.wf) = true := by decide

theorem test_wf_words_refused_more : ([.recst ⟨⟨false, 0⟩, 2, 3, false, 1, 3, false, 0⟩, .aadd ⟨⟨false, 0⟩, 1, 2, 3, false, false, 1, 1, 0, false, 1, 0, 0⟩,
    .aadd ⟨⟨false, 0⟩, 1, 2, 3, false, false, 3, 1, 0, true, 1, 0, 0⟩, .aadd ⟨⟨false, 0⟩, 1, 2, 3, false, false, 3, 1, 0, false, 1, 4, 0⟩,
    .amin ⟨⟨false, 0⟩, 1, 2, 3, false, false, 3, 1, 0, true, 1, 4, 0⟩, .acas ⟨⟨false, 0⟩, 1, 2, 3, false, false, 3, 1, 0, true, 1, 4, 0⟩,
    .ainc ⟨⟨false, 0⟩, 1, 2, 3, false, false, 3, 1, 0, false, 1, 0, 0⟩, .afadd ⟨⟨false, 0⟩, 1, 2, 3, false, false, 3, 1, 0, false, 1, 0, 0⟩,
    .fence ⟨⟨false, 0⟩, 7⟩, .cpy ⟨⟨false, 0⟩, 1, 2, 0, 0, 0, 0x16, 0, false⟩, .cpyg ⟨⟨false, 0⟩, 1, 2, 0, 0, 0, 0x1E, 0, false, 0⟩,
    .cpyr ⟨⟨false, 0⟩, 1, 2, 0, 0, 0, 0, 0, false, 8⟩, .shli ⟨⟨false, 0⟩, 1, 2, false, 64⟩, .sari ⟨⟨false, 0⟩, 1, 2, false, 0xFFFFFFFF⟩,
    .send ⟨⟨false, 0⟩, 1, 58, false, false⟩] : List Instr).all (fun i => !i.wf) = true := by decide

/-- A cold reset's choices, well formed. -/
def up : BringUp := { (default : BringUp) with hems := List.replicate 4 default, node := 1 }

/-- Places that do not exist: one term for each check of an event. -/
theorem test_wf_events_refused : ([.dispatch ⟨384⟩, .specResolve ⟨0, 16⟩, .publishSwap ⟨384, 0⟩, .replyFill ⟨384, 0⟩, .qdesc ⟨16⟩, .queueClose ⟨65536⟩,
    .tailWrite ⟨65536, 0⟩, .imageFetchDone ⟨0, 16, 0⟩, .configStep ⟨0, 8⟩, .rollingSwap ⟨0, 0, 8⟩, .iadd ⟨0, 0, 0, 4, 0⟩, .iadd ⟨0, 0, 0, 0, 6⟩,
    .steer ⟨0, 0, 0, 4⟩, .agReadToken ⟨0, 0, 0, 2⟩, .muFifo ⟨0, 0, 0, 4, false⟩, .gangEnd ⟨0, 2 ^ 24⟩, .throttleChange ⟨0, 2 ^ 24, none⟩,
    .translationWalkDone ⟨0, 2 ^ 52⟩, .nodeUnreachable ⟨4096⟩, .thermalChange ⟨20, 0⟩, .railSet ⟨16, 0, 500⟩, .railSet ⟨0, 8, 500⟩, .shockEvent ⟨4, 51⟩,
    .routerRound ⟨384, .here⟩, .powerGate ⟨0, .patch 8⟩, .hostAccess ⟨16, 0, 0, 8, .load, false, 0⟩,
    .hostAccess ⟨0, 0, 0, 16, .load, false, 0⟩, .hostAccess ⟨0, 0, 0, 8, .store [0], false, 0⟩, .hostAccess ⟨0, 0, 0, 8, .atomic .fadd 0 0, false, 0⟩,
    .linkRetrain ⟨98⟩, .retrainingComplete ⟨98, true, 0⟩, .selftest ⟨16, [], [], [], []⟩,
    .coldReset { up with node := 0 },
    .coldReset { up with hems := [default] }, .coldReset { up with unassigned := 16 },
    .coldReset { up with domains := [{ (default : DomainPlan) with dom := 16 }] }] :
    List Instr).all (fun i => !i.wf) = true ∧ Instr.wf (.coldReset up) = true := by decide

/-! ### A small machine: core 0, slot 0 at 0x1000 of domain 0, outside any gang -/

/-- A full register. -/
def full (v : Word) : RegCell := ⟨v, false, none⟩

/-- A trap that a reply brought. -/
def eccTrap : Trap := ⟨.ecc, 0, 0x40, 0⟩

/-- g1 to g7 hold 1 to 7, g9 is empty, g10 poisoned, g11 the most negative word, g12 all ones, g13 0x10000; p1 is true, p2 pending, the rest false. -/
def regs : Tab RegCell :=
  [(1, full 1), (2, full 2), (3, full 3), (4, full 4), (5, full 5), (6, full 6), (7, full 7), (9, ⟨0, true, none⟩), (10, ⟨0, false, some eccTrap⟩),
    (11, full 0x8000000000000000), (12, full 0xFFFFFFFFFFFFFFFF), (13, full 0x10000)]

def preds : Tab PredCell := [(1, ⟨true, false⟩), (2, ⟨false, true⟩)]

def slot0 : Slot := { Slot.free with status := .occupied, pc := 0x1000, regs := regs, preds := preds }

/-- A level-3 entry: page `ppn` of this module, readable, writable, executable, of a format and a domain. -/
def pte (ppn fmt dom : Nat) : BitVec 128 :=
  BitVec.ofNat 128 (2 + ppn * 2 ^ 16 + 7 * 2 ^ 63 + fmt * 2 ^ 69 + dom * 2 ^ 74)

/-- A linear record in page 2: base 0x20000, 4,096 bytes, view RAW. -/
def rec1 : BitVec 256 := BitVec.ofNat 256 (0x20000 * 2 ^ 192 + 4096 * 2 ^ 152)

/-- c5 bound to the queue of task messages, c62 and c63 to the handlers. -/
def chans : Tab Chan :=
  [(5, { Chan.unbound with valid := true, entry := 0x200 }), (6, { Chan.unbound with valid := true, src := 4, param := 8, timerLeft := 8 }),
    (62, { Chan.reset 62 with valid := true }), (63, { Chan.reset 63 with valid := true, entry := 0x400 })]

def core0 : Core := { Core.reset with slots := [(0, slot0)], chans := chans, records := [(1, rec1)], ptbase := 1 }

/-- Pages 0 to 7 are buffered: RAW, CODE, RAW, BARRIER, QUEUE, SAVE, INT64, INT32. -/
def w : State :=
  { State.reset with
    cores := [(0, core0)]
    tlb := [⟨0, 0, 0, pte 16 0 0⟩, ⟨0, 0, 1, pte 17 0x1E 0⟩, ⟨0, 0, 2, pte 18 0 0⟩, ⟨0, 0, 3, pte 19 0x1C 0⟩, ⟨0, 0, 4, pte 20 0x1D 0⟩,
      ⟨0, 0, 5, pte 21 0x1F 0⟩, ⟨0, 0, 6, pte 22 0x04 0⟩, ⟨0, 0, 7, pte 23 0x03 0⟩] }

/-- The machine with its slot changed; with its core changed. -/
def onSlot (f : Slot → Slot) : State := w.setCurSlot (f w.curSlot)
def onCore0 (f : Core → Core) : State := w.onCore 0 f

/-- What a step answers, if it is a next state. -/
def after (o : Out) : Option State := match o with
  | .next t => some t
  | _ => none

/-- What a register holds after a word. -/
def gets (i : Instr) (r : Reg) (s : State := w) : Option RegCell := (after (exec i s)).map fun t => t.curSlot.cell r

/-! ### Single steps -/

/-- Table 5-22's program and R205's wrap. -/
theorem test_add_wraps : gets (.add ⟨⟨false, 0⟩, 20, 12, 2, false, false⟩) 20 = some (full 1) := by decide
/-- R206: by zero all ones, and the dividend; the most negative by -1 overflows to itself. -/
theorem test_div_corners : gets (.div ⟨⟨false, 0⟩, 20, 5, 0, false, false, false⟩) 20 = some (full 0xFFFFFFFFFFFFFFFF) ∧
    gets (.rem ⟨⟨false, 0⟩, 20, 5, 0, false, false, true⟩) 20 = some (full 5) ∧
    gets (.div ⟨⟨false, 0⟩, 20, 11, 12, false, false, false⟩) 20 = some (full 0x8000000000000000) ∧
    gets (.rem ⟨⟨false, 0⟩, 20, 11, 12, false, false, false⟩) 20 = some (full 0) := by decide
/-- R205: the shift count is gB[5:0]; SAR copies the sign; CLZ and CTZ of 0 are 64. -/
theorem test_shifts_and_counts : gets (.sar ⟨⟨false, 0⟩, 20, 11, 7, false, false⟩) 20 = some (full 0xFF00000000000000) ∧
    gets (.rotl ⟨⟨false, 0⟩, 20, 11, 1, false, false⟩) 20 = some (full 1) ∧
    gets (.clz ⟨⟨false, 0⟩, 20, 0, false⟩) 20 = some (full 64) ∧ gets (.ctz ⟨⟨false, 0⟩, 20, 0, false⟩) 20 = some (full 64) ∧
    gets (.popc ⟨⟨false, 0⟩, 20, 12, false⟩) 20 = some (full 64) := by decide
/-- R117: immediates are sign-extended; R210: MOVI, and MOVHI's low bits. -/
theorem test_immediates : gets (.andi ⟨⟨false, 0⟩, 20, 12, false, 0xFFFFFFFE⟩) 20 = some (full 0xFFFFFFFFFFFFFFFE) ∧
    gets (.movi ⟨⟨false, 0⟩, 20, 0x200000000000⟩) 20 = some (full 0xFFFFE00000000000) ∧
    gets (.movhi ⟨⟨false, 0⟩, 5, 1⟩) 5 = some (full 0x400000000005) := by decide
/-- R200: a write to g0 is discarded, and the pc goes on. -/
theorem test_g0 : (after (exec (.movi ⟨⟨false, 0⟩, 0, 9⟩) w)).map (fun t => (t.curSlot.cell 0, t.curSlot.pc)) = some (RegCell.zero, 0x1008) := by decide
/-- R201: an empty operand stalls, or traps EMPTY into c63 with the slot suspended. -/
theorem test_empty_operand : (after (exec (.add ⟨⟨false, 0⟩, 20, 9, 2, false, false⟩) w)).map (fun t => t.stalled) = some true := by decide
theorem test_empty_traps : (after (exec (.add ⟨⟨false, 0⟩, 20, 9, 2, true, false⟩) w)).map (fun t => (t.curSlot.status, t.curSlot.pc,
    (t.curCore.frecs.find? 0).map fun r => (r.cause, r.epc, r.info1))) = some (.suspended, 0x1000, some (.empty, 0x1000, 9)) ∧
    (after (exec (.add ⟨⟨false, 0⟩, 20, 9, 2, true, false⟩) w)).map (fun t => (t.curCore.chan 63).fifo.map fun m => m.g.headD 0) = some [3] := by decide
/-- R214 to R217: a branch counts words from its own address; LOOP of 0 skips its body. -/
theorem test_control : (after (exec (.br ⟨⟨false, 1⟩, 0xFFFFFFFD⟩) w)).map (fun t => t.curSlot.pc) = some 0xFE8 ∧
    (after (exec (.br ⟨⟨true, 1⟩, 0xFFFFFFFD⟩) w)).map (fun t => t.curSlot.pc) = some 0x1008 ∧
    (after (exec (.loop ⟨⟨false, 0⟩, 0, false, 3⟩) w)).map (fun t => t.curSlot.pc) = some 0x1020 ∧
    (after (exec (.loopi ⟨⟨false, 0⟩, 2, 3⟩) w)).map (fun t => t.curSlot.loops) = some [⟨0x1008, 0x1018, 2⟩] := by decide
/-- R212: a compare under its code. -/
theorem test_compare : (after (exec (.cmp ⟨⟨false, 0⟩, 3, 11, 1, false, false, 2⟩) w)).map (fun t => t.curSlot.pcell 3) = some ⟨true, false⟩ ∧
    (after (exec (.cmp ⟨⟨false, 0⟩, 3, 11, 1, false, false, 6⟩) w)).map (fun t => t.curSlot.pcell 3) = some ⟨false, false⟩ := by decide
/-- R200, R320: a load marks its register empty and sends its request to the page's home. -/
theorem test_load_issues : (after (exec (.ld ⟨⟨false, 0⟩, 20, 0, 1, false, false, 3, 1, 0, false, 8⟩) w)).map (fun t => ((t.curSlot.cell 20).empty,
    t.curCore.reqs.map fun r => (r.op, r.tgt.home, r.tgt.va))) = some (true, [(.load 20 false, .mem (18 * 65536 + 8), 0x20008)]) := by decide
/-- R103: beyond the extent BOUNDS. -/
theorem test_load_bounds : (after (exec (.ld ⟨⟨false, 0⟩, 20, 0, 1, false, false, 3, 1, 0, false, 4096⟩) w)).map (fun t =>
    (t.curCore.frecs.find? 0).map fun r => (r.cause, r.info1, r.info2)) = some (some (.bounds, 4096, 1)) := by decide
/-- R405: MFS of the number of the running slot's core; R233: an unprivileged task may not name PTBASE. -/
theorem test_special : gets (.mfs ⟨⟨false, 0⟩, 20, 0, false, 0x003⟩) 20 = some (full 0) ∧
    (after (exec (.mfs ⟨⟨false, 0⟩, 20, 0, false, 0x119⟩) w)).map (fun t => (t.curCore.frecs.find? 0).map fun r => r.cause) = some (some .priv) := by decide
/-- R409: TRAP goes to c62 with its code. -/
theorem test_trap : (after (exec (.trap ⟨⟨false, 0⟩, 7⟩) w)).map (fun t => (t.curSlot.status, (t.curCore.chan 62).fifo.length,
    (t.curCore.frecs.find? 0).map fun r => (r.cause, r.info1))) = some (.suspended, 1, some (.trap, 7)) := by decide
/-- Table 5-22: the word placed for fetch is the one that step runs. -/
theorem test_step_runs_word : (after (step (State.reset.withFetchWord 64 0x3801400000000005))).map (fun t => t.curSlot.cell 5) = some (full 5) := by decide
/-- Table 10-9, R256: 1 + 1 = 2, and a tie that goes to even. -/
theorem test_float_add : fadd32 0 0x3F800000 0x3F800000 = 0x40000000 ∧ fadd32 0 0x4B800000 0x3F800000 = 0x4B800000 := by decide
/-- R439, Table 23-1: the power level and a die's level. -/
theorem test_levels : nextPowerLevel 6 12001 = 7 ∧ nextPowerLevel 7 10001 = 7 ∧ nextPowerLevel 0 9499 = 0 ∧ nextPowerLevel 3 9500 = 3 ∧
    nextThermal 0 950 = 1 ∧ nextThermal 1 930 = 1 ∧ nextThermal 1 920 = 0 ∧ nextThermal 7 1030 = 7 ∧ nextThermal 7 1020 = 1 := by decide

/-! ### Witnesses: for each statement, a state and operands that meet what it assumes -/

abbrev g0 : Guard := ⟨false, 0⟩

theorem witness_EncodeDecode : (Instr.add ⟨g0, 4, 4, 5, false, false⟩).wf = true ∧ encode (.add ⟨g0, 4, 4, 5, false, false⟩) = some 0x1001041400000000 ∧
    decode 0x1001041400000000 = .ok (.add ⟨g0, 4, 4, 5, false, false⟩) := by decide

theorem witness_DecodeEncode : decode 0x1001041400000000 = .ok (.add ⟨g0, 4, 4, 5, false, false⟩) := rfl

theorem witness_RefusedWords_zero : ∀ i v, encode i = some v → fld v 56 8 ≠ fld (0 : Word) 56 8 := by
  intro i v h
  have z : fld (0 : Word) 56 8 = 0 := rfl
  rw [z]
  cases i <;> simp only [encode, Option.some.injEq, reduceCtorEq] at h <;> subst h <;>
    simp (discharger := omega) [fld_or, fld_head_op, fld_put_away]

theorem witness_RefusedWords : fld (0 : Word) 56 8 = 0 ∧ fld (0x0180000000000000 : Word) 52 4 = 8 ∧
    (fld (0x0100000000000001 : Word) 56 8 = 0x01 ∧ fld (0x0100000000000001 : Word) 0 52 ≠ 0) ∧
    (fld (0x1000000010000000 : Word) 56 8 = 0x10 ∧ fld (0x1000000010000000 : Word) 28 6 ≠ 0 ∧ fld (0x1000000000000001 : Word) 0 26 ≠ 0) ∧
    (fld (0x3000000100000000 : Word) 56 8 = 0x30 ∧ fld (0x3000000100000000 : Word) 32 7 ≠ 0) ∧
    (fld (0x40000000000A0000 : Word) 56 8 = 0x40 ∧ 9 < (fld (0x40000000000A0000 : Word) 16 4).toNat) ∧
    (fld (0x5B00000600000000 : Word) 56 8 = 0x5B ∧ 5 < (fld (0x5B00000600000000 : Word) 32 4).toNat) ∧
    (fld (0x600000000C000000 : Word) 56 8 = 0x60 ∧ 5 < (fld (0x600000000C000000 : Word) 25 3).toNat) ∧
    (fld (0x8000000000060000 : Word) 56 8 = 0x80 ∧ 5 < (fld (0x8000000000060000 : Word) 16 3).toNat) ∧
    (fld (0x3400000000000040 : Word) 56 8 = 0x34 ∧ 63 < (fld (0x3400000000000040 : Word) 0 32).toNat) ∧
    (fld (0x6200400030000000 : Word) 56 8 = 0x62 ∧ fld (0x6200400030000000 : Word) 46 1 = 1) ∧
    (fld (0x7000000010000000 : Word) 56 8 = 0x70 ∧ (fld (0x7000000010000000 : Word) 28 2).toNat < 2) ∧
    (fld (0x7900000030000000 : Word) 56 8 = 0x79 ∧ fld (0x7900000030000000 : Word) 28 2 = 3) ∧
    (fld (0x900000000003C000 : Word) 56 8 = 0x90 ∧ fld (0x900000000003C000 : Word) 14 5 ∈ [(0x0F : BitVec 5), 0x16, 0x17, 0x1E]) := by decide

/-- A word placed for fetch. -/
def placed (v : Word) : State := State.reset.withFetchWord 64 v.toNat

theorem witness_StepRunsDecoded : IssuesNext (placed 0x3801400000000005) 0 [] ∧
    (∃ ns, slotOrder ((placed 0x3801400000000005).core 0).lastSlot = 0 :: ns) ∧ Fetches (placed 0x3801400000000005) 0 0 0x3801400000000005 ∧
    decode 0x3801400000000005 = .ok (.movi ⟨g0, 5, 5⟩) ∧
    (∃ t, exec (.movi ⟨g0, 5, 5⟩) ((placed 0x3801400000000005).issuing 0 0).fetched = .next t ∧ t.stalled = false) :=
  ⟨⟨rfl, rfl, rfl⟩, ⟨_, rfl⟩, ⟨rfl, rfl, rfl, rfl, rfl⟩, rfl, ⟨_, rfl, rfl⟩⟩

/-- A checkpoint of SPEC g9. -/
def spec9 : Spec := ⟨9, 0, 0x2000, 0x1000, regs, preds, [], [], none, 3, [], false⟩

/-- The word ADD g4, g4, g5 whose operand waits: the slot stalls. -/
theorem witness_SlotsInTurn : (w.issuing 0 1).curSlot.status ≠ .occupied ∧ ((w.core 0).slot 0).status = .occupied ∧
    (w.core 0).fetchWord ((w.core 0).slot 0).pc = none ∧ (onSlot fun x => { x with spec := some { spec9 with outcome := some true } }).curSlot.deciding = true ∧ (w.frozen ((w.core 0).slot 0).gang) = false ∧
    (∃ t, exec (.add ⟨g0, 20, 9, 1, false, false⟩) w = .next t ∧ t.stalled = true) := ⟨by decide, rfl, rfl, rfl, rfl, ⟨_, rfl, rfl⟩⟩

/-- An unassigned word in the same place, with c63 bound. -/
def unassigned : State := (placed 0).onCore 0 fun k => k.setChan 63 { Chan.reset 63 with valid := true }

theorem witness_UnassignedWordTraps : IssuesNext unassigned 0 [] ∧ (∃ ns, slotOrder (unassigned.core 0).lastSlot = 0 :: ns) ∧
    Fetches unassigned 0 0 0 ∧ decode 0 = .error .unassignedMajor ∧ ((unassigned.core 0).slot 0).spec = none ∧
    ((unassigned.core 0).slot 0).handler = none ∧ (unassigned.core 0).freeFrec = some 0 ∧ ((unassigned.core 0).chan 63).valid = true :=
  ⟨⟨rfl, rfl, rfl⟩, ⟨_, rfl⟩, ⟨rfl, rfl, rfl, rfl, rfl⟩, rfl, rfl, rfl, rfl, rfl⟩

def eventNext (i : Instr) (p : Power) : State := { State.reset with agenda := [.event i], power := p }

theorem witness_StepRunsEvent : (eventNext .stitch .on).agenda = [.event .stitch] ∧ Instr.wf .stitch = true ∧ encode .stitch = none ∧
    Instr.wf (.dispatch ⟨384⟩) = false ∧ (encode (.nop ⟨g0⟩)).isSome = true ∧ (eventNext .stitch (.hold 0 false)).power = .hold 0 false ∧
    heldEvent .stitch = true ∧ heldEvent (.dispatch ⟨0⟩) = false ∧ (eventNext .stitch .off).power = .off ∧
    (∀ o, Instr.stitch ≠ .coldReset o) := ⟨rfl, rfl, rfl, rfl, rfl, rfl, rfl, rfl, rfl, by intro o h; cases h⟩

theorem witness_PoweredStepsComplete : State.reset.power ≠ .off := by decide

theorem witness_StepKeepsMemoryOk : MemoryOk w ∧ ∃ t, Steps (eventNext .holdEntry .on) t := ⟨rfl, _, rfl⟩

/-- Operands of the integer words: g1, g2 and g3 are full, g20 is free; at the ends of the word's range g11 and g12. -/
theorem witness_AluResults : Passes g0 w ∧ Passes ⟨false, 1⟩ w ∧ Passes ⟨true, 3⟩ w ∧ Holds w 1 1 ∧ Holds w 11 0x8000000000000000 ∧
    Holds w 12 0xFFFFFFFFFFFFFFFF ∧ Free w 20 ∧ Free w 0 := ⟨rfl, rfl, rfl, rfl, rfl, rfl, rfl, rfl⟩

theorem witness_SignedAluResults : Passes g0 w ∧ Holds w 11 0x8000000000000000 ∧ Holds w 0 0 ∧ Free w 20 := ⟨rfl, rfl, rfl, rfl⟩

theorem witness_BitCounts : Passes g0 w ∧ Holds w 0 0 ∧ Holds w 12 0xFFFFFFFFFFFFFFFF ∧ Free w 20 := ⟨rfl, rfl, rfl, rfl⟩

/-- A descriptor of position 63 and width 127: one bit is left. -/
theorem witness_FieldResults : Passes g0 w ∧ Holds w 1 1 ∧ Holds (onSlot fun x => x.write 2 0x7F3F) 2 0x7F3F ∧ Holds w 3 3 ∧ Free w 20 ∧
    63 = ((0x7F3F : Word).extractLsb' 0 6).toNat ∧ 1 = min ((0x7F3F : Word).extractLsb' 8 7).toNat (64 - 63) := ⟨rfl, rfl, rfl, rfl, rfl, rfl, rfl⟩

theorem witness_MadSelResults : Passes g0 w ∧ Free w 20 ∧ Holds w 1 1 ∧ Holds w 2 2 ∧ Holds w 3 3 ∧ PHolds w 1 true ∧ PHolds w 3 false ∧
    ((true = true ↔ false = false)) ∧ ¬(false = true ↔ false = false) := ⟨rfl, rfl, rfl, rfl, rfl, rfl, rfl, by decide, by decide⟩

theorem witness_ImmediateResults : Passes g0 w ∧ Free w 20 ∧ Holds w 1 1 ∧ (63 : BitVec 32).toNat ≤ 63 := ⟨rfl, rfl, rfl, by decide⟩

theorem witness_CompareResults : Passes g0 w ∧ PFree w 3 ∧ Holds w 11 0x8000000000000000 ∧ Holds w 1 1 := ⟨rfl, rfl, rfl, rfl⟩

theorem witness_PredicateResults : Passes g0 w ∧ PFree w 3 ∧ PHolds w 1 true ∧ PHolds w 0 true := ⟨rfl, rfl, rfl, rfl⟩

/-- Jump targets: aligned at the last address, misaligned, and beyond 2^52. -/
theorem witness_TransferResults : Passes g0 w ∧ Free w 20 ∧ Holds w 13 0x10000 ∧ (0x10000 : Word).toNat % 8 = 0 ∧ (0x10000 : Word).toNat < 2 ^ 52 ∧
    Holds w 1 1 ∧ (1 : Word).toNat % 8 ≠ 0 ∧ Holds w 11 0x8000000000000000 ∧ (0x8000000000000000 : Word).toNat % 8 = 0 ∧
    2 ^ 52 ≤ (0x8000000000000000 : Word).toNat :=
  ⟨rfl, rfl, rfl, by decide, by decide, rfl, by decide, rfl, by decide, by decide⟩

def loopy (l : List LoopEntry) : State := onSlot fun x => { x with loops := l }

theorem witness_LoopResults : Passes g0 w ∧ Holds w 2 2 ∧ Holds w 0 0 ∧ w.curSlot.loops = [] ∧
    (loopy [⟨0x1000, 0x1010, 1⟩]).curSlot.loops = ⟨0x1000, 0x1010, 1⟩ :: [] ∧
    (∃ top, (loopy [⟨0x1000, 0x1010, 1⟩]).curSlot.loops.head? = some top ∧ top.last.toNat < 0x1018) :=
  ⟨rfl, rfl, rfl, rfl, rfl, ⟨_, rfl, by decide⟩⟩

theorem witness_EndProcessing : (∀ x ∈ ([⟨0, 0x1000, 1⟩] : List LoopEntry), x.last = 0x1000 ∧ x.count = 1) ∧
    (⟨0, 0x1000, 2⟩ : LoopEntry).last = 0x1000 ∧ (⟨0, 0x1000, 0⟩ : LoopEntry).count ≠ 1 ∧ (⟨0, 0x1008, 2⟩ : LoopEntry).last ≠ 0x1000 := by decide

theorem witness_OperandChecks : (w.curSlot.pcell 2).pending = true ∧ w.curSlot.pcell 3 = ⟨false, false⟩ ∧ Passes g0 w ∧
    (w.curSlot.cell 9).empty = true ∧ (w.curSlot.cell 10).empty = false ∧ (w.curSlot.cell 10).poison = some eccTrap ∧ Holds w 1 1 := by
  refine ⟨rfl, rfl, rfl, rfl, rfl, rfl, rfl⟩

theorem witness_RegisterFrame : destsOf (.add ⟨g0, 20, 1, 2, false, false⟩) = some ([20], []) ∧
    (∃ t, exec (.add ⟨g0, 20, 1, 2, false, false⟩) w = .next t ∧ t.curSlot.status ≠ .free) := ⟨rfl, _, rfl, by decide⟩

theorem witness_IssueStoresNothing : (encode (.st ⟨g0, 1, 0, 1, false, false, 3, 1, 0, false, 8⟩)).isSome = true ∧
    (∃ t, exec (.st ⟨g0, 1, 0, 1, false, false, 3, 1, 0, false, 8⟩) w = .next t ∧ t.stalled = false) := ⟨rfl, _, rfl, rfl⟩

/-- A handler's task, with its record of a task that is gone. -/
def handled : State :=
  onCore0 fun k => { k.setSlot 0 { k.slot 0 with handler := some 0, priv := true, chan := 63 } with
    frecs := [(0, ⟨.slot 1, .empty, 0x3000, 0, 9, 0, 0, 0, none, false⟩)]
    slots := [(0, { slot0 with handler := some 0, priv := true, chan := 63 }), (1, { slot0 with status := .suspended, pc := 0x3000 })] }

theorem witness_EndResults : Passes g0 w ∧ w.curSlot.spec = none ∧ w.curSlot.handler = none ∧
    (onSlot fun x => { x with spec := some spec9 }).curSlot.spec.isSome = true ∧ handled.curSlot.handler = some 0 ∧ handled.curSlot.spec = none :=
  ⟨rfl, rfl, rfl, rfl, rfl, rfl⟩

/-- g1 to g7 are a message; gA names c5 of core 0, c0 of core 384, c5 of core 6 (another domain). -/
def sender (a : Word) : State := onSlot fun x => x.write 20 a

def twoDomains : State := (sender (6 * 64 + 5)).onCore 6 fun k => { k with domain := 1 }

theorem witness_SendResults : Passes g0 (sender 5) ∧ Holds (sender 5) 20 5 ∧
    (∀ j < 7, Holds (sender 5) (1 + BitVec.ofNat 6 j) (([1, 2, 3, 4, 5, 6, 7] : List Word).getD j 0)) ∧ (sender 5).curSlot.spec = none ∧
    (∀ id, (sender 5).curSlot.prog ≠ .awaiting id) ∧ ((5 : Word).extractLsb' 6 9).toNat < 384 ∧ (sender 5).curCore.acquiring 0 = false ∧
    (sender 5).curCore.permitted 0 (.channel 0) = true ∧ 384 ≤ ((384 * 64 : Word).extractLsb' 6 9).toNat ∧ Holds (sender (384 * 64)) 20 (384 * 64) ∧
    (twoDomains.core 6).domain ≠ twoDomains.curCore.domain := by
  refine ⟨rfl, rfl, ?_, rfl, ?_, by decide, rfl, rfl, by decide, rfl, by decide⟩
  · intro j hj; interval_cases j <;> rfl
  · intro id h; cases h

/-- A request of the running slot at a phase; the slot waits for it. -/
def req (id : Nat) (op : ReqOp) (tgt : Target) (phase : ReqPhase) : Req :=
  ⟨id, 0, true, none, 0, false, op, tgt, 0, 1, false, 0, phase, none, 0, false, none, false, 0, none⟩

def pending (op : ReqOp) (tgt : Target) (phase : ReqPhase) (prog : Prog := .idle) : State :=
  onCore0 fun k => { k.setSlot 0 { k.slot 0 with prog := prog } with reqs := [req 7 op tgt phase], nextReq := 8 }

theorem witness_SendResults_replies : AwaitedBack (pending (.send 0 5 [1, 2, 3, 4, 5, 6, 7] 0) noTarget (.back Reply.empty) (.awaiting 7)) 7
      Reply.empty ∧
    AtHome (pending (.send 0 5 [1, 2, 3, 4, 5, 6, 7] 0) noTarget .home) 0 7 (req 7 (.send 0 5 [1, 2, 3, 4, 5, 6, 7] 0) noTarget .home) ∧
    (((pending (.send 0 4 [1, 2, 3, 4, 5, 6, 7] 0) noTarget .home).core 0).chan 4).valid = false ∧
    (((pending (.send 0 5 [1, 2, 3, 4, 5, 6, 7] 0) noTarget .home).core 0).chan 5).valid = true :=
  ⟨⟨rfl, _, rfl, rfl⟩, ⟨rfl, rfl, by decide, by decide⟩, rfl, rfl⟩

/-- A WORK queue 20 of domain 0 with a published head entry in page 4. -/
def work : Queue := { Queue.reset with valid := true, type := 1, logn := 4, ring := 0x40000 / 1024, ctl := 0x4F000 / 64, tail := 1 }

def withQueue (q : Queue) (s : State := w) : State :=
  { s.setQueue 20 q with mem := [(20 * 65536, 1)], tables := [(0, 1)], tlb := s.tlb ++ [⟨16, 0, 2, pte 18 0 0⟩, ⟨16, 0, 4, pte 20 0x1D 0⟩, ⟨16, 0, 6, pte 22 4 0⟩] }

theorem witness_WaitResults : w.curSlot.spec = none ∧ w.curSlot.handler = none ∧ Passes g0 w ∧ Holds w 0 0 ∧ w.curSlot.keptFull = true ∧
    w.condChecks [⟨0, 0, none⟩, ⟨0, 0, none⟩, ⟨0, 0, none⟩, ⟨0, 0, none⟩] = .ok () ∧
    firstFree (fun i => (w.curCore.conts.find? i).isSome) 256 = some 0 ∧
    (onSlot fun x => x.markEmpty 48).curSlot.keptFull = false ∧
    Holds (withQueue work (onSlot fun x => x.write 20 20)) 20 20 ∧
    (withQueue work (onSlot fun x => x.write 20 20)).workQueue 20 0 = .ok () := by
  refine ⟨rfl, rfl, rfl, rfl, by decide, rfl, rfl, by decide, rfl, rfl⟩

/-- Every continuation record is in use. -/
theorem witness_WaitResults_full : firstFree (fun i => ((onCore0 fun k => { k with conts := (List.range 256).map fun i => (i, default) }).curCore.conts.find? i).isSome) 256 =
    none := by decide

theorem witness_PopResults : MayIssue (withQueue work (onSlot fun x => x.write 20 20)) ∧ PFree w 3 ∧ Free w 30 ∧ (∀ j < 8, Free w (BitVec.ofNat 6 (j + 1))) ∧
    AtHome (withQueue work (pending (.pop 30 3 20) noTarget .home)) 0 7 (req 7 (.pop 30 3 20) noTarget .home) ∧
    (withQueue work).dispensable 20 = true ∧ (withQueue { work with tail := 0 }).dispensable 20 = false := by
  refine ⟨⟨rfl, rfl⟩, rfl, rfl, ?_, ⟨rfl, rfl, by decide, by decide⟩, by decide, by decide⟩
  intro j hj; interval_cases j <;> rfl

/-- PUSH of queue 20 with its payload at VA 0x20040, in the middle of a step. -/
def pushOf (p : Prog) (r : ReqPhase) : State :=
  withQueue work ((pending (.reserve 20) noTarget r p).setCurSlot (((pending (.reserve 20) noTarget r p).curSlot.write 20 20).write 21 0x20040))

/-- What a step of PUSH still asks of the state in which it begins: the target of its request, which the core may send. -/
abbrev Sendable (u : State) (t : Except Trap Target) : Prop :=
  (t.toOption.any fun t => u.curCore.permitted 0 (destOf t.home)) = true ∧ u.curCore.acquiring 0 = false

theorem witness_PushResults : Passes g0 (pushOf .idle .sent) ∧ Holds (pushOf .idle .sent) 20 20 ∧ Holds (pushOf .idle .sent) 21 0x20040 ∧
    (pushOf .idle .sent).curSlot.spec = none ∧ (pushOf .idle .sent).workQueue 20 0 = .ok () ∧ (0x20040 : Word).toNat % 8 = 0 ∧
    (3 : Word).toNat % 8 ≠ 0 ∧ (∃ ts, (pushOf .idle .sent).wordTargets (pushOf .idle .sent).curIssuer 7 0x20040 = .ok ts) ∧
    (let u := pushing (pushOf .idle .sent) 0 0 []; Sendable u (u.target u.curIssuer .load true false none 0 0x20040 8 0 8 none)) :=
  ⟨rfl, rfl, rfl, rfl, rfl, by decide, by decide, ⟨_, rfl⟩, by decide⟩

/-- The second word of the payload has come, and the last one. -/
theorem witness_PushResults_payload : PushBack (pushOf (.push 0 (some 7) 0 [1]) (.back (Reply.of [(0, 9)]))) 0 7 0 [1] (Reply.of [(0, 9)]) ∧
    (let u := pushing (taken (pushOf (.push 0 (some 7) 0 [1]) (.back (Reply.of [(0, 9)]))) 7) 0 0 [1, 9];
      Sendable u (u.target u.curIssuer .load true false none 0 0x20050 8 0 8 none)) ∧
    PushBack (pushOf (.push 0 (some 7) 0 [1, 2, 3, 4, 5, 6]) (.back (Reply.of [(0, 9)]))) 0 7 0 [1, 2, 3, 4, 5, 6] (Reply.of [(0, 9)]) :=
  ⟨⟨rfl, _, rfl, rfl⟩, by decide, ⟨rfl, _, rfl, rfl⟩⟩

theorem witness_PushResults_stores : PushBack (pushOf (.push 1 (some 7) 0 [1]) (.back (Reply.of [(0, 4)]))) 1 7 0 [1] (Reply.of [(0, 4)]) ∧
    (let u := pushing (taken (pushOf (.push 1 (some 7) 0 [1]) (.back (Reply.of [(0, 4)]))) 7) 2 4 [1]; Sendable u (u.entryTarget 20 4 8 56)) ∧
    PushBack (pushOf (.push 2 (some 7) 4 [1]) (.back Reply.empty)) 2 7 4 [1] Reply.empty ∧
    (let u := pushing (taken (pushOf (.push 2 (some 7) 4 [1]) (.back Reply.empty)) 7) 3 4 [1]; Sendable u (u.entryTarget 20 4 0 8)) ∧
    PushBack (pushOf (.push 3 (some 7) 4 [1]) (.back Reply.empty)) 3 7 4 [1] Reply.empty ∧
    PushBack (pushOf (.push 4 (some 7) 4 [1]) (.back Reply.empty)) 4 7 4 [1] Reply.empty ∧
    PushBack (pushOf (.push 1 (some 7) 0 [1]) (.back (Reply.fail ⟨.queue, 2, 20, 0⟩))) 1 7 0 [1] (Reply.fail ⟨.queue, 2, 20, 0⟩) ∧
    (Reply.fail ⟨.queue, 2, 20, 0⟩).error = some ⟨.queue, 2, 20, 0⟩ :=
  ⟨⟨rfl, _, rfl, rfl⟩, by decide, ⟨rfl, _, rfl, rfl⟩, by decide, ⟨rfl, _, rfl, rfl⟩, ⟨rfl, _, rfl, rfl⟩, ⟨rfl, _, rfl, rfl⟩, rfl⟩

theorem witness_PushResults_home : AtHome (pushOf .idle .home) 0 7 (req 7 (.reserve 20) noTarget .home) ∧ ((pushOf .idle .home).queue 20).closed = false ∧
    (((pushOf .idle .home).queue 20).resv - ((pushOf .idle .home).queue 20).head).toNat < 2 ^ ((pushOf .idle .home).queue 20).logn.toNat ∧
    ((withQueue { work with closed := true }).queue 20).closed = true ∧
    AtHome (withQueue work (pending (.pushTail 20 2) noTarget .home)) 0 7 (req 7 (.pushTail 20 2) noTarget .home) ∧
    0 < ((2 : Word) - work.tail).toNat ∧ ((2 : Word) - work.tail).toNat < 2 ^ 63 :=
  ⟨⟨rfl, rfl, by decide, by decide⟩, rfl, (by decide : (0 : Nat) < 16), rfl, ⟨rfl, rfl, by decide, by decide⟩, by decide, by decide⟩

/-- SPEC g9 of the slot, decided as told. -/
def speculating (o : Option Bool) : State := onSlot fun x => { x with spec := some { spec9 with outcome := o } }

theorem witness_SpecResults : Passes g0 w ∧ Holds w 1 1 ∧ condHolds 1 1 0 = true ∧ condHolds 0 1 0 = false ∧ (w.curSlot.cell 9).empty = true ∧
    w.curSlot.spec = none ∧ (w.curSlot.cell 10).empty = false ∧ (w.curSlot.cell 10).poison ≠ none ∧
    (speculating none).curSlot.spec.isSome = true ∧ ∀ o, (((speculating o).core 0).slot 0).spec = some { spec9 with outcome := o } := by
  refine ⟨rfl, rfl, by decide, by decide, rfl, rfl, rfl, by decide, rfl, fun o => rfl⟩

/-- The fill that decides SPEC g9, and one that fails. -/
theorem witness_SpecResults_fill : (spec9.regs.get RegCell.zero spec9.reg.toNat).empty = true ∧ spec9.reg ≠ 0 ∧ (Reply.of [(9, 1)]).error = none ∧
    (Reply.of [(9, 1)]).refill = [] ∧ (Reply.of [(9, 1)]).bad = [] ∧ (Reply.of [(9, 1)]).regs = [(spec9.reg, 1)] ∧
    (Reply.fail eccTrap).error = some eccTrap ∧ (req 7 (.load 9 false) noTarget .sent).op = .load spec9.reg false :=
  ⟨rfl, by decide, rfl, rfl, rfl, rfl, rfl, rfl⟩

def message : Msg := ⟨[1, 2, 3], 4, [(2, eccTrap)], [full 48], none, none, false⟩

/-- A message on c5, and one on c63 beside it. -/
def offered (all : Bool) : State := onCore0 fun k => (if all then k.post 63 message else k).post 5 message

theorem witness_DispatchResults : (offered false).postHeld 0 = offered false ∧
    ((offered false).core 0).choose (fun n => !(offered false).frozen (((offered false).core 0).chan n).gang) = some 5 ∧
    (((offered false).core 0).chan 5).fifo = message :: [] ∧ ((offered false).core 0).freeSlot false = some 1 ∧
    ((offered true).core 0).choose (fun n => !(offered true).frozen (((offered true).core 0).chan n).gang) = some 63 ∧
    ((offered true).core 0).freeSlot true = some 1 := ⟨rfl, by decide⟩

/-- A report of a store that met another domain, held. -/
def heldReport : Frec := ⟨.report, .domain, 0, 1, 64, 3, 0, 0, none, false⟩
def holdingReport : State := onCore0 fun k => { k with heldReports := [heldReport] }

theorem witness_DispatchResults_held : (holdingReport.core 0).heldReports = heldReport :: [] ∧ (holdingReport.core 0).freeFrec = some 0 ∧
    ((holdingReport.core 0).chan 63).valid = true ∧ heldReport.cause ≠ .trap ∧ (w.core 0).heldReports = [] := ⟨rfl, by decide, by decide, by decide, rfl⟩

/-- A core with no record free. -/
def allHeld : State := onCore0 fun k => { k with frecs := (List.range 64).map fun n => (n, heldReport) }

theorem witness_DispatchResults_none : (allHeld.core 0).freeFrec = none := by decide +kernel

/-- Record 3 waits on c5: for a stitch that has come, or that has not. -/
def waiting (until_ : Word) (left : Option Nat) : State :=
  { onCore0 (fun k => { k with conts := [(3, ⟨5, .wait false [⟨4, until_, none⟩], left, [], none, 0, false, false⟩)] }) with stitch := 9 }

theorem witness_ContinuationResults : ((waiting 9 none).core 0).conts.find? 3 = some ⟨5, .wait false [⟨4, 9, none⟩], none, [], none, 0, false, false⟩ ∧
    (((waiting 9 none).core 0).chan 5).valid = true ∧
    contHolds false ((waiting 9 none).look 0 ⟨5, .wait false [⟨4, 9, none⟩], none, [], none, 0, false, false⟩ false [⟨4, 9, none⟩]) = true ∧
    contHolds false ((waiting 10 (some 0)).look 0 ⟨5, .wait false [⟨4, 10, none⟩], some 0, [], none, 0, false, false⟩ false [⟨4, 10, none⟩]) = false ∧
    ((w.core 0).chan 6).src = 4 ∧ (onCore0 fun k => k.setChan 6 { k.chan 6 with elapsed := 2 }).stitch = 0 ∧
    (((onCore0 fun k => k.setChan 6 { k.chan 6 with elapsed := 2 }).core 0).chan 6).elapsed ≠ 0 := by
  refine ⟨rfl, rfl, by decide, by decide, rfl, rfl, by decide⟩

/-- Record 3 waits for an entry of queue 20: one is dispensable, or the queue is closed and drained, or neither. -/
def popping (q : Queue) : State :=
  withQueue q (onCore0 fun k => { k with conts := [(3, ⟨5, .pop 20 0, none, [], none, 0, false, false⟩)] })

theorem witness_ContinuationResults_pop : ∀ q, ((popping q).core 0).conts.find? 3 = some ⟨5, .pop 20 0, none, [], none, 0, false, false⟩ ∧
    (((popping q).core 0).chan 5).valid = true ∧ (popping work).dispensable 20 = true ∧
    (popping { work with tail := 0, closed := true }).dispensable 20 = false ∧ ((popping { work with tail := 0, closed := true }).queue 20).closed = true ∧
    ((popping { work with tail := 0, closed := true }).queue 20).head = ((popping { work with tail := 0, closed := true }).queue 20).tail ∧
    (popping { work with tail := 0 }).dispensable 20 = false ∧ ((popping { work with tail := 0 }).queue 20).closed = false := by
  intro q; exact ⟨rfl, rfl, by decide, by decide, rfl, rfl, by decide, rfl⟩

/-- A page of RAW format at VA 0x20000, whose translation is buffered. -/
theorem witness_AccessAddress : recKind rec1 = 0 ∧ recBad rec1 = false ∧ 4088 + 8 ≤ recExtent rec1 ∧ (recBase rec1 + 4088) % 8 = 0 ∧
    (∃ p, w.translate w.curIssuer .load true false none (recBase rec1 + 4088) (recView rec1) = .ok p ∧ p.node = 0) ∧
    ((w.translate w.curIssuer .store false true none (recBase rec1 + 4088) (recView rec1)).toOption.any fun p =>
      w.queueRules (w.homeOf p (recBase rec1 + 4088)) p.dom (recBase rec1 + 4088) 8 false == none) = true :=
  ⟨by decide, by decide, by decide, by decide, ⟨_, rfl, rfl⟩, by decide⟩

theorem witness_BoundsModes : recKind rec1 = 0 ∧ recBad rec1 = false ∧ recBounds rec1 = 0 ∧ (-1 : Int) < 0 ∧ (recExtent rec1 : Int) < 4089 + 8 := by decide

/-- The running core may send nothing more to HBM. -/
def noPermits : State := onCore0 fun k => { k with reqs := (List.range 2048).map fun i => req i (.load 30 false) ⟨.mem 0, 0, 8, 0, 8, none⟩ .sent, nextReq := 2048 }

theorem witness_LoadsIssue : Passes g0 w ∧ Holds w 0 0 ∧ Free w 20 ∧ Free w 21 ∧ RecordIs w 1 rec1 ∧ MayIssue w ∧
    ((access w rec1 1 0 4088 8 .load true false).toOption.any fun t => t.any fun t => w.curCore.permitted 0 (destOf t.home)) = true ∧
    ((access w rec1 1 0 4080 16 .load true false).toOption.any fun t => t.any fun t => w.curCore.permitted 0 (destOf t.home)) = true ∧
    (∃ e, access w rec1 1 0 4089 8 .load true false = .error e) ∧
    (access w (rec1 ||| (1 : BitVec 256) <<< 245) 1 0 4096 8 .load true false) = .ok none ∧
    (onCore0 fun k => { k with reqs := [{ req 7 (.load 30 false) noTarget .sent with ord := 1 }] }).curCore.acquiring 0 = true :=
  ⟨rfl, rfl, rfl, rfl, ⟨rfl, rfl, rfl⟩, ⟨rfl, rfl⟩, by decide, by decide, ⟨_, rfl⟩, by rfl, by decide⟩

theorem witness_StoresIssue : Holds w 1 1 ∧ Holds w 2 2 ∧ w.curCore.acquiring 0 = false ∧
    ((access w rec1 1 0 4088 8 .store false true).toOption.any fun t => t.any fun t => w.curCore.permitted 0 (destOf t.home)) = true ∧
    (∃ e, access w rec1 1 0 4089 8 .store false true = .error e) ∧
    (onSlot fun x => { x with spec := some spec9 }).curSlot.spec = some spec9 ∧ spec9.stores.length < 32 := ⟨rfl, rfl, rfl, by decide, ⟨_, rfl⟩, rfl, by decide⟩

theorem witness_RecordWords : Passes g0 w ∧ Holds w 13 0x10000 ∧ MayIssue w ∧ recldPending w.curCore 1 = false ∧
    ((w.target w.curIssuer .load true false none 0 (0x20000 : Int) 32 0 32 none).toOption.any fun t => w.curCore.permitted 0 (destOf t.home)) = true ∧
    ((w.target w.curIssuer .store false true none 0 (0x20000 : Int) 32 0 32 none).toOption.any fun t => w.curCore.permitted 0 (destOf t.home)) = true ∧
    RecordIs w 1 rec1 ∧ Holds w 4 4 ∧ Free w 20 := ⟨rfl, rfl, ⟨rfl, rfl⟩, rfl, by decide, by decide, ⟨rfl, rfl, rfl⟩, rfl, rfl⟩

theorem witness_AtomicsIssue : Passes g0 w ∧ Holds w 0 0 ∧ Free w 20 ∧ Holds w 1 1 ∧ RecordIs w 1 rec1 ∧ MayIssue w ∧
    ((access w rec1 1 0 0 8 (.atomic false) true true).toOption.any fun t => t.any fun t => w.curCore.permitted 0 (destOf t.home)) = true :=
  ⟨rfl, rfl, rfl, rfl, ⟨rfl, rfl, rfl⟩, ⟨rfl, rfl⟩, by decide⟩

theorem witness_AtomicValues : (2 ^ 32 - 1 : Nat) < 2 ^ 32 ∧ (0xFFFFFFFF#32).toNat = 2 ^ 32 - 1 ∧ (2 ^ 64 - 1 : Nat) < 2 ^ 64 := by decide

/-- A target of 8 bytes of page 2. -/
def tgt (n : Nat) : Target := ⟨.mem (18 * 65536), 0x20000, n, 0, n, none⟩

theorem witness_PerformedAtHome :
    AtHome (pending (.store [1, 2, 3, 4]) (tgt 4) .home) 0 7 (req 7 (.store [1, 2, 3, 4]) (tgt 4) .home) ∧
    AtHome (pending (.load 30 false) (tgt 8) .home) 0 7 (req 7 (.load 30 false) (tgt 8) .home) ∧
    AtHome (pending (.atomic 30 .add 1 0) (tgt 8) .home) 0 7 (req 7 (.atomic 30 .add 1 0) (tgt 8) .home) ∧
    AtHome (pending .fetch (tgt 8) .home) 0 7 (req 7 .fetch (tgt 8) .home) ∧
    AtHome (pending (.put [[(36 * 65536, 1)]] false true) (tgt 8) .home) 0 7 (req 7 (.put [[(36 * 65536, 1)]] false true) (tgt 8) .home) ∧
    (([(36 * 65536, 1)] : Part).map fun e => e.1).Nodup ∧
    (pending (.load 30 false) (tgt 8) .home).poisonedAt (18 * 65536) 8 = false ∧
    ({ pending (.load 30 false) (tgt 8) .home with poisoned := [18 * 8192] } : State).poisonedAt (18 * 65536) 8 = true := by
  refine ⟨⟨rfl, rfl, by decide, by decide⟩, ⟨rfl, rfl, by decide, by decide⟩, ⟨rfl, rfl, by decide, by decide⟩, ⟨rfl, rfl, by decide, by decide⟩,
    ⟨rfl, rfl, by decide, by decide⟩, by decide, ?_, ?_⟩ <;> decide

def back (op : ReqOp) (p : Reply) : State := pending op (tgt 8) (.back p)

theorem witness_ReplyFills :
    ((back (.load 30 false) (Reply.of [(30, 9)])).core 0).req? 7 = some (req 7 (.load 30 false) (tgt 8) (.back (Reply.of [(30, 9)]))) ∧
    (back (.load 30 false) (Reply.of [(30, 9)])).frozen none = false ∧
    ((back (.load 30 false) (Reply.of [(30, 9)])).core 0).ours (req 7 (.load 30 false) (tgt 8) (.back (Reply.of [(30, 9)]))) = true ∧
    (((back (.load 30 false) (Reply.of [(30, 9)])).core 0).slot 0).awaits 7 = false ∧
    (((back (.load 30 false) (Reply.of [(30, 9)])).core 0).slot 0).spec = none ∧ recKind rec1 ≠ 2 ∧
    (req 7 (.recld 1) (tgt 8) (.back { Reply.empty with record := some (1, rec1) })).live = true ∧
    { req 7 (.load 30 false) (tgt 8) .home with live := false }.live = false ∧ (req 7 (.load 30 false) (tgt 8) .home).unit = none := by
  refine ⟨rfl, rfl, rfl, rfl, rfl, by decide, rfl, rfl, rfl⟩

theorem witness_TranslationChecks : w.entryOf w.curIssuer 0x20000 = .ok (pte 18 0 0) ∧ pteType (pte 18 0 0) = 2 ∧ ppnSlice (ptePpn (pte 18 0 0)) = false ∧
    pteDom (pte 18 0 0) = w.curIssuer.dom ∧ pteDom (pte 18 0 3) ≠ 0 ∧ pteRd (pte 18 0 0) = true ∧ pteWr (pte 18 0 0) = true ∧ ptePv (pte 18 0 0) = false ∧
    pteRd (pte 18 0 0 ^^^ (1 : BitVec 128) <<< 63) = false ∧ admits .load (pteFmt (pte 18 0 0)) = true ∧ admits .load (pteFmt (pte 19 0x1C 0)) = false ∧
    (∃ e, w.entryOf w.curIssuer 0x80000 = .error e) := by
  refine ⟨rfl, by decide, by decide, by decide, by decide, by decide, by decide, by decide, by decide, by decide, by decide, ⟨_, rfl⟩⟩

theorem witness_FenceResults : Passes g0 w ∧ w.curSlot.spec = none ∧ ¬ Owed w 5 ∧ Owed (pending (.store [1]) (tgt 1) .sent) 1 ∧
    (onSlot fun x => { x with prog := .scfence 3 }).curSlot.prog = .scfence 3 ∧ w.stitch.toNat < (3 : Word).toNat + 2 ∧
    (3 : Word).toNat + 2 ≤ ({ w with stitch := 5 } : State).stitch.toNat :=
  ⟨rfl, rfl, (by rintro ⟨r, h, _⟩; cases h), ⟨req 7 (.store [1]) (tgt 1) .sent, by decide, rfl, .inr (.inl rfl), .inr (by intro n h; cases h)⟩, rfl, by decide, by decide⟩

/-- A barrier word in page 3 with reload 1. -/
def bar (arrv sect : Nat) (flags : Nat := 0) : BitVec 128 := BitVec.ofNat 128 (arrv * 2 ^ 100 + 1 * 2 ^ 76 + sect * 2 ^ 40 + flags)

def withBar (b : BitVec 128) (s : State := onSlot fun x => { x.write 20 0x30000 with priv := true }) : State := { s with mem := [] }.setBarWord (19 * 65536) b

theorem witness_BarrierIssue : (∀ id, (withBar 0).curSlot.prog ≠ .awaiting id) ∧ Holds (withBar 0) 20 0x30000 ∧ Holds (withBar 0) 0 0 ∧ MayIssue (withBar 0) ∧ Free (withBar 0) 30 ∧
    ((withBar 0).barTarget 0x30000 true true 0 16 = .ok ⟨.mem (19 * 65536), 0x30000, 16, 0, 16, none⟩) ∧
    ((withBar 0).barTarget 0x30000 true false 0 16 = .ok ⟨.mem (19 * 65536), 0x30000, 16, 0, 16, none⟩) ∧
    ((withBar 0).barTarget 0x30000 false true 0 16 = .ok ⟨.mem (19 * 65536), 0x30000, 16, 0, 16, none⟩) ∧
    (withBar 0).curCore.permitted 0 (destOf (.mem (19 * 65536))) = true ∧ (withBar 0).binitCheck 0x30000 ((0 : Word) ++ (0 : Word)) = .ok () ∧
    AwaitedBack (pending .barv (tgt 16) (.back (Reply.of [(0, 3)])) (.awaiting 7)) 7 (Reply.of [(0, 3)]) ∧
    AwaitedBack (pending .barv (tgt 16) (.back (Reply.fail eccTrap)) (.awaiting 7)) 7 (Reply.fail eccTrap) := by
  refine ⟨(fun id h => by cases h), rfl, rfl, ⟨rfl, rfl⟩, rfl, rfl, rfl, rfl, rfl, rfl, ⟨rfl, _, rfl, rfl⟩, ⟨rfl, _, rfl, rfl⟩⟩

def arriving (b : BitVec 128) (op : ReqOp := .barv) : State := withBar b (pending op ⟨.mem (19 * 65536), 0x30000, 16, 0, 16, none⟩ .home)

theorem witness_BarrierAtHome :
    AtHome (arriving (bar 1 0)) 0 7 (req 7 .barv ⟨.mem (19 * 65536), 0x30000, 16, 0, 16, none⟩ .home) ∧
    barArrv ((arriving (bar 0 0)).barWord (19 * 65536)) = 0 ∧ barArrv ((arriving (bar 2 0)).barWord (19 * 65536)) = 2 ∧
    (barArrv ((arriving (bar 1 0)).barWord (19 * 65536)) = 1 ∧ barSect ((arriving (bar 1 0)).barWord (19 * 65536)) = 0 ∧
      barPub ((arriving (bar 1 0)).barWord (19 * 65536)) = false ∧ barRot ((arriving (bar 1 0)).barWord (19 * 65536)) = false) ∧
    barSect ((arriving (bar 1 (2 ^ 36 - 2))).barWord (19 * 65536)) + 1 < 2 ^ 36 ∧ (arriving (bar 1 0)).poisonedAt (19 * 65536) 16 = false := by
  refine ⟨⟨rfl, rfl, by decide, by decide⟩, by decide, by decide, by decide, by decide, by decide⟩

/-- A poisoned word, of an arrival and of a BEXP; a count that does not fit; a word that publishes a valid lining. -/
theorem witness_BarrierAtHome_more :
    AtHome { arriving (bar 1 0) with poisoned := [19 * 8192] } 0 7 (req 7 .barv ⟨.mem (19 * 65536), 0x30000, 16, 0, 16, none⟩ .home) ∧
    ({ arriving (bar 1 0) with poisoned := [19 * 8192] } : State).poisonedAt (19 * 65536) 16 = true ∧
    2 ^ 36 ≤ barSect ((arriving (bar 1 (2 ^ 36 - 1))).barWord (19 * 65536)) + 1 ∧
    barPub ((arriving (bar 1 0 (2 ^ 39))).barWord (19 * 65536)) = true ∧ barArrv ((arriving (bar 1 0 (2 ^ 39))).barWord (19 * 65536)) = 1 := by
  refine ⟨⟨rfl, rfl, by decide, by decide⟩, by decide, by decide, by decide, by decide⟩

/-- A ring record of 4 slots whose slot barriers begin at 0x30000. -/
def ring : BitVec 256 := BitVec.ofNat 256 (2 * 2 ^ 252 + 4 * 2 ^ 66 + 0x3000 * 2 ^ 72)

theorem witness_PhaseCompletion : barPub (bar 1 0 (2 ^ 39)) = true ∧
    (({ w with linings := [(0, ⟨true, false, 0, 1, 0, 0⟩)] } : State).lining 0).valid = true ∧
    (({ w with linings := [(0, ⟨true, false, 0, 1, 0, 0⟩)] } : State).lining 0).dom = (w.core 0).domain ∧
    barRot (bar 1 0 (2 ^ 38)) = true ∧ barPub (bar 1 0 (2 ^ 38)) = false ∧
    (onCore0 fun k => { k with records := [(0, ring)] }).rotates 0 ring (19 * 65536) = true ∧
    (({ onCore0 fun k => { k with records := [(0, ring)] } with linings := [(0, ⟨true, false, 0, 1, 0, 0⟩)] } : State).swapLining 0).rotates
      0 ring (19 * 65536) = true := by decide

/-- The machine with a privileged running task. -/
def privd : State := onSlot fun x => { x with priv := true }

theorem witness_MfsResults : Passes g0 w ∧ Holds w 0 0 ∧ w.curSlot.prog = .idle ∧ (0x003 : BitVec 9).toNat < 0x100 ∧ w.sreg 0x003 0 = some 0 ∧ Free w 20 ∧
    ¬ Free w 9 ∧ privd.curSlot.priv = true ∧ privd.sreg 0x119 0 = some 1 ∧ w.curSlot.priv = false ∧ w.sreg 0x0FF 0 = none ∧
    handled.curSlot.handler = some 0 ∧ (handled.curCore.frecs.find? 0).isSome = true :=
  ⟨rfl, rfl, rfl, by decide, rfl, rfl, nofun, rfl, rfl, rfl, rfl, rfl, rfl⟩

theorem witness_MtsResults : Passes g0 privd ∧ Holds privd 12 0xFFFFFFFFFFFFFFFF ∧ privd.curSlot.spec = none ∧
    (onSlot fun x => { x with priv := true, spec := some spec9 }).curSlot.spec.isSome = true ∧ w.curSlot.priv = false := ⟨rfl, rfl, rfl, rfl, rfl⟩

theorem witness_ClaspResults : Passes g0 privd ∧ Holds privd 7 7 ∧ Holds privd 0 0 ∧ Free privd 20 ∧ w.ownRegion ((7 : Word).extractLsb' 24 3).toNat = false :=
  ⟨rfl, rfl, rfl, rfl, by decide⟩

/-- gA names c5's word 0 or word 1; words that bind, that unbind, a timer of period 8, one of period 0, an unlisted source. -/
theorem witness_BindingResults : Passes g0 privd ∧ Holds (privd.setCurSlot (privd.curSlot.write 20 69)) 20 69 ∧ privd.curSlot.spec = none ∧
    (5 : Word).getLsbD 6 = false ∧ (69 : Word).getLsbD 6 = true ∧ (0x8000000000000000 : Word).getLsbD 63 = true ∧ (7 : Word).getLsbD 63 = false ∧
    (privd.curCore.chan 5).fifo = [] ∧ (privd.curCore.chan 5).held = [] ∧ ((0x4000000000000008 : Word).extractLsb' 60 4).toNat ≤ 6 ∧
    ¬ ((0x4000000000000008 : Word).extractLsb' 60 4 = 4 ∧ (0x4000000000000008 : Word).toNat % 2 ^ 32 = 0) ∧ 6 < ((0x7000000000000000 : Word).extractLsb' 60 4).toNat := by
  refine ⟨rfl, rfl, rfl, ?_, ?_, ?_, ?_, rfl, rfl, ?_, ?_, ?_⟩ <;> decide

theorem witness_TakingAnException : Passes g0 w ∧ (onSlot fun x => { x with spec := some spec9 }).curSlot.spec.isSome = true ∧ w.curSlot.spec = none ∧ w.curSlot.handler = none ∧
    w.curCore.freeFrec = some 0 ∧ (w.curCore.chan 62).valid = true ∧ (w.curCore.chan 63).valid = true ∧
    (onCore0 fun k => { k with frecs := (List.range Config.numFrecs).map fun i => (i, default) }).curCore.freeFrec = none ∧
    (onCore0 fun k => { k with slots := [(0, { slot0 with handler := some 0 })], frecs := [(0, { (default : Frec) with subject := .report })] }).curSlot.handler = some 0 :=
  ⟨rfl, rfl, rfl, rfl, rfl, rfl, rfl, by decide, rfl⟩

theorem witness_EretResults : Passes g0 handled ∧ w.curSlot.handler = none ∧ handled.curSlot.handler = some 0 ∧ handled.curSlot.spec = none ∧
    (∃ r, handled.curCore.frecs.find? 0 = some r ∧ r.subject = .slot 1) ∧ (1 : Nat) ≠ handled.cur.slot ∧ (handled.curCore.slot 1).status = .suspended ∧
    handled.curSlot.priv = true ∧ Holds handled 13 0x10000 ∧ (0x10000 : Word).toNat % 8 = 0 ∧ Holds handled 1 1 ∧ (1 : Word).toNat % 8 ≠ 0 :=
  ⟨rfl, rfl, rfl, rfl, ⟨_, rfl, rfl⟩, by decide, rfl, rfl, rfl, by decide, rfl, by decide⟩

theorem witness_TlbinvSbarResults : Passes g0 privd ∧ Holds privd 13 0x10000 ∧ Holds privd 1 1 ∧ Holds privd 0 0 ∧ privd.curSlot.prog = .idle ∧ privd.curSlot.spec = none ∧
    (0x10000 : Word).toNat < 2 ^ 52 ∧ privd.curCore.drained 0 = true ∧ (onSlot fun x => { x with prog := .invalidated }).curSlot.prog = .invalidated ∧
    privd.invalidating 0 ⟨1, 1, false⟩ = false ∧ (pending (.store [1]) (tgt 1) .sent).invalidating 0 ⟨0, 0, true⟩ = true ∧
    (∀ n < 32, (1 : Word).getLsbD n = true → w.curCore.sb n = 0) ∧ (onCore0 fun k => k.sbInc 0).curCore.sb 0 ≠ 0 := by
  refine ⟨rfl, rfl, rfl, rfl, rfl, rfl, by decide, by decide, rfl, by decide, by decide, fun n _ _ => rfl, by decide⟩

/-- Records of `n` + 1 elements at a VA: of a kind, of a view. -/
def recOf (kind view va n : Nat) : BitVec 256 := BitVec.ofNat 256 (kind * 2 ^ 252 + view * 2 ^ 247 + va * 2 ^ 192 + 4096 * 2 ^ 152 + n * 2 ^ 40)

def srcR : BitVec 256 := recOf 0 0 0x20000 7
def dstR : BitVec 256 := recOf 0 0 0x20800 7

/-- The fields of a copy that names neither barrier nor count; of one that names a count. -/
def opsX (b : Reg := 0) : OpsX := ⟨g0, 2, 3, 0, b, 3, 0, 0, false⟩

/-- A copy of 8 bytes within page 2, as it issues. -/
def copyCmd : XuCmd := w.newCmd .cpy (opsX) srcR dstR 0 0

/-- Every place of the transfer unit taken, by a copy. -/
def fullXu : State := onCore0 fun k => { k with xus := (List.range 32).map fun i => (i, copyCmd) }

/-- A command passes its checks at issue. -/
abbrev Admits (c : XuCmd) : Prop := (w.copyChecks w.curIssuer c).isOk = true

theorem witness_CommandsIssue : w.curSlot.spec = none ∧ Passes g0 w ∧ Holds w 0 0 ∧ RecordIs w 1 rec1 ∧ XuRoom w ∧ ¬ XuRoom fullXu ∧
    Admits copyCmd ∧ Admits (w.newCmd .cpym (opsX) srcR dstR 0 0) ∧ ¬ Admits (w.newCmd .cpy (opsX) srcR (recOf 0 0 0x20800 6) 0 0) ∧
    Admits { w.newCmd .cpyg (opsX) srcR dstR 0 0 with idx := recOf 0 3 0x70400 7, idxIx := 4 } ∧
    Admits { w.newCmd .cpys (opsX) srcR dstR 0 0 with idx := recOf 0 3 0x70400 7, idxIx := 4 } ∧
    Admits (w.newCmd (.cpyr 0) (opsX) (recOf 0 4 0x60000 0) (recOf 0 4 0x60800 0) 0 0) ∧
    Admits (w.newCmd .fill (opsX 1) 0 dstR 0 1) ∧
    recBad (recOf 1 0 0x20000 0) = false ∧ recKind (recOf 1 0 0x20000 0) = 1 ∧ recKind rec1 ≠ 1 := by
  refine ⟨rfl, rfl, rfl, ⟨rfl, rfl, rfl⟩, ⟨0, by decide, rfl⟩, ?_, by decide, by decide, by decide, by decide, by decide, by decide, by decide, by decide,
    by decide, by decide⟩
  rintro ⟨j, h, e⟩
  exact absurd e ((by decide : ∀ j < 32, fullXu.curCore.xus.find? j ≠ none) j h)

/-- The machine whose core 0 holds one command at place 0; that command. -/
def moving (x : XuCmd) : State := onCore0 fun k => { (k.sbInc 3) with xus := [(0, x)] }
def cmdIn (s : State) : XuCmd := ((s.core 0).xus.find? 0).getD copyCmd

/-- The machine after an event, if that answers a next state; with every read of core 0 back with its bytes. -/
def then_ (i : Instr) (s : State) : State := (after (exec i s)).getD s
def served (s : State) : State :=
  s.onCore 0 fun k => { k with reqs := k.reqs.map fun r => match r.tgt.home with
    | .mem key => { r with phase := .back { Reply.empty with bytes := readBytes s.mem key r.tgt.len } }
    | .ctl _ _ => r }

/-- A command that has started; whose source is read; whose write is put together; whose performed sector is owed a decrement. -/
def begun : State := then_ (.xuSectorWrite ⟨0, 0⟩) (moving copyCmd)
def sourced : State := served (then_ (.xuSectorWrite ⟨0, 0⟩) begun)
def ready : State := then_ (.xuSectorWrite ⟨0, 0⟩) sourced
def owing : State := moving { copyCmd with phase := .moving, hasBar := true, barrier := 0x30000, bar := some (0x30000, 19 * 65536), owed := 1 }

/-- What a command needs read for its next sector is being read; is there, and makes its write. -/
abbrev Asks (s : State) : Prop := ((cmdIn s).work.head?.any fun e => ((cmdIn s).allWants e.2).toOption.any fun ws =>
  match (written s 0 0 (cmdIn s)).fetch ((cmdIn s).unit 0 0) ((cmdIn s).unread ws) with | .waiting _ => true | _ => false) = true
abbrev Makes (s : State) : Prop := ((cmdIn s).work.head?.any fun e => ((cmdIn s).allWants e.2).toOption.any fun ws =>
  match (written s 0 0 (cmdIn s)).fetch ((cmdIn s).unit 0 0) ((cmdIn s).unread ws) with
  | .ready seen => (cmdIn s).dstOp.toOption.any fun dst => ((seen.reread_ (cmdIn s)).allWrites (cmdIn s) dst e.2).isOk
  | _ => false) = true

theorem witness_SectorWrite : Moving begun 0 0 (cmdIn begun) ∧ (cmdIn begun).out = [] ∧ (cmdIn begun).buf = [] ∧ (cmdIn begun).owed = 0 ∧ Asks begun ∧
    Moving sourced 0 0 (cmdIn sourced) ∧ (∀ r ∈ (sourced.core 0).portReqs (.command 0 0), r.op = .fetch) ∧ Makes sourced :=
  ⟨⟨rfl, by decide, rfl, rfl, rfl⟩, rfl, rfl, rfl, by decide, ⟨rfl, by decide, rfl, rfl, rfl⟩, by decide, by decide⟩

theorem witness_SectorWrite_sends : Moving ready 0 0 (cmdIn ready) ∧ (∀ r ∈ (ready.core 0).portReqs (.command 0 0), r.op = .fetch) ∧
    ((cmdIn ready).out.head?.any fun p => ((written ready 0 0 (cmdIn ready)).core 0).permitted 0 (((cmdIn ready).unit 0 0).req p.op p.target).dest) = true ∧
    Moving owing 0 0 (cmdIn owing) ∧ 0 < (cmdIn owing).owed ∧ (cmdIn owing).out = [] ∧ (cmdIn owing).bar = some (0x30000, 19 * 65536) ∧
    ((written owing 0 0 (cmdIn owing)).core 0).permitted 0 (destOf (.mem (19 * 65536))) = true :=
  ⟨⟨rfl, by decide, rfl, rfl, rfl⟩, by decide, by decide, ⟨rfl, by decide, rfl, rfl, rfl⟩, by decide, rfl, rfl, by decide⟩

/-- PUBLISH of lining 0, of domain 0, issued before request 8. -/
def pubCmd : XuCmd := { w.newCmd .publish (opsX) 0 (recOf 1 0 0x20000 0) 0 0 with mark := 8 }

/-- Its request at its hem die. -/
def pubReq (ph : ReqPhase) : Req := { req 8 (.publish 0 0 8) { noTarget with va := 0x20000 } ph with bulk := true, unit := some (.command 0 0) }

/-- Lining 0 valid; the command at place 0; some requests of core 0. -/
def publishing (rs : List Req) : State :=
  { onCore0 fun k => { (k.sbInc 3) with xus := [(0, pubCmd)], reqs := rs, nextReq := 9 } with
    linings := [(0, ⟨true, false, 2, 1, 0, 0⟩)] }

/-- A load of a collar slot whose barrier word stands at 0x30000 with this sect. -/
def collared (sect : Nat) : State :=
  withBar (bar 1 sect) (pending (.load 30 false) { tgt 8 with hold := some 0x30000 } .home)

theorem witness_CommandsComplete :
    let over_ := { copyCmd with phase := .moving }
    (moving over_).frozen none = false ∧ ((moving over_).core 0).xuOver 0 0 over_ = true ∧ ((begun.core 0).xuOver 0 0 (cmdIn begun)) = false ∧
    pubCmd.op = .publish ∧ pubCmd.phase ≠ .faulted ∧ ((publishing []).core 0).portReqs (.command 0 0) = [] ∧
    ((publishing [pubReq (.back Reply.empty)]).core 0).portReqs (.command 0 0) = [pubReq (.back Reply.empty)] ∧ Reply.empty.error = none ∧
    ((publishing []).lining 0).valid = true ∧ ((publishing []).lining 0).dom.toNat = (pubReq .home).dom := by
  refine ⟨rfl, by decide, by decide, rfl, by decide, rfl, by decide, rfl, rfl, rfl⟩

theorem witness_CommandsComplete_home : (pubReq .home).op = .publish 0 0 8 ∧ AtHome (publishing [pubReq .home]) 0 8 (pubReq .home) ∧
    (let s := publishing [req 7 (.load 30 false) (tgt 8) .sent, pubReq .home];
      (s.core 0).req? 8 = some (pubReq .home) ∧ ∃ q ∈ (s.core 0).reqs, q.slot = 0 ∧ q.id < 8 ∧ (q.phase = .sent ∨ q.phase = .home)) ∧
    (collared 1).keyOf 0 0x30000 = some (19 * 65536) ∧ barSect ((collared 1).barWord (19 * 65536)) ≠ 0 ∧ barSect ((collared 0).barWord (19 * 65536)) = 0 ∧
    AtHome (collared 0) 0 7 (req 7 (.load 30 false) { tgt 8 with hold := some 0x30000 } .home) :=
  ⟨rfl, ⟨rfl, rfl, by decide, by decide⟩, ⟨rfl, _, .head _, rfl, by decide, .inl rfl⟩, rfl, by decide, by decide, ⟨rfl, rfl, by decide, by decide⟩⟩

/-! ### Regions -/

/-- Gang 1 of launch 1, on core 0 alone, and a region of one patch of it with its list of one configuration. -/
def gang1 : GangId := ⟨1, 0⟩

def reg1 (run : RunState) : Region :=
  { (default : Region) with gang := gang1, len := 1, list := [0], dims := [], run := run, active := [(0, ⟨.valid, [], []⟩)] }

/-- Its image, resident: `n` configurations of one patch without frames. -/
def image1 (n : Nat) : Image :=
  { (default : Image) with configs := List.replicate n [[]] }

def stored (n : Nat) (g : Region) (k : Core) : Core :=
  { k with
    slots := [(0, { slot0 with gang := some gang1 })]
    gangs := [(gang1, default)]
    regions := [(0, g)]
    store := [image1 n] }

def steering (g : Region) (n : Nat := 1) : State := onCore0 (stored n g)

theorem witness_SteeringResults : Passes g0 (steering (reg1 .held)) ∧ Holds (steering (reg1 .held)) 0 0 ∧ (steering (reg1 .held)).curSlot.spec = none ∧
    w.ownRegion 0 = false ∧ Free (steering (reg1 .held)) 20 ∧ Steers (steering (reg1 .held)) 0 (reg1 .held) ∧ Sound (reg1 .held) ∧
    (reg1 (.done 0)).doneOwed = none ∧ ((steering (reg1 (.done 0))).curCore.bindFirst (reg1 (.done 0))).any (fun g => g.active.all fun e =>
      e.2.state != .invalid && e.2.poisoned.isEmpty) = true ∧
    (reg1 .running).fab.swapped = [] ∧ (reg1 .running).stop = false ∧ (reg1 .running).rootDone = false ∧ (reg1 .running).next = false ∧
    (reg1 .faulted).run = .faulted := by
  refine ⟨rfl, rfl, rfl, by decide, rfl, ⟨rfl, rfl, rfl, rfl, rfl⟩, ?_, rfl, by decide, rfl, rfl, rfl, rfl, rfl⟩
  unfold Sound; decide

/-- A region with an SNEXT or an SSTOP that acts at it. -/
def acted (g : Region) (how : Steering) : State :=
  (steering g).onCore 0 fun k => { k with reqs := [req 7 (.steer 20 0 how) noTarget .sent], nextReq := 8 }

/-- A configuration step that is due, at the first of two positions or at the last one; a stop. -/
def stepping : Region := { reg1 .running with next := true, list := [0, 0], shadow := [(0, ⟨.valid, [], []⟩)] }
def lastStep : Region := { reg1 .running with next := true }
def stopping : Region := { reg1 .running with stop := true }

/-- What CONFIG_STEP asks of a region at which nothing is still to be taken up. -/
abbrev StepDue (g : Region) (how : Steering) : Prop :=
  (((acted g how).onCore 0 fun k => k.takeUpAll 0).core 0).regions.find? 0 = some g ∧
  ((acted g how).onCore 0 fun k => k.takeUpAll 0).settled 0 0 g = true ∧
  (((acted g how).onCore 0 fun k => k.takeUpAll 0).core 0).acting 0 = [req 7 (.steer 20 0 how) noTarget .sent] ∧
  (req 7 (.steer 20 0 how) noTarget .sent).steers .go = false

theorem witness_ConfigStepResults : Live (acted stepping .next) 0 0 stepping ∧ StepDue stepping .next ∧ stepping.nextPos = some (1, []) ∧
    stepping.shadowed = true ∧ (∀ e ∈ stepping.shadow, e.2.state ≠ .invalid ∧ e.2.poisoned = []) ∧ Sound stepping ∧
    Live (acted lastStep .next) 0 0 lastStep ∧ StepDue lastStep .next ∧ lastStep.nextPos = none ∧
    Live (acted stopping .stop) 0 0 stopping ∧ StepDue stopping .stop ∧ stopping.next = false ∧ stopping.rootDone = false ∧ stopping.fab.swapped = [] := by
  refine ⟨⟨rfl, rfl, rfl, rfl⟩, by decide, by decide, by decide, by decide, ?_, ⟨rfl, rfl, rfl, rfl⟩, by decide, by decide,
    ⟨rfl, rfl, rfl, rfl⟩, by decide, rfl, rfl, rfl⟩
  unfold Sound; decide

/-- An SCFG of configuration `n` of an image at 0x20000. -/
def scfg1 (n : Nat) : Scfg := ⟨rec1, 1, 0, n, 3, 0, some gang1, 0, false⟩

/-- An image at 0x10000: code at 0x40, one frame at 0x60, the directory at 0x80, the region table at 0x90, one entry at 0xA0, the list at 0xB0. -/
def imageNat : Nat :=
  1 + 1 * 2 ^ 8 + 1 * 2 ^ 16 + 1 * 2 ^ 32 + 0xA0 * 2 ^ 64 + 0x90 * 2 ^ 96 + 0x80 * 2 ^ 128 + 0x60 * 2 ^ 160 + 1 * 2 ^ 192 + 0x40 * 2 ^ 224 + 8 * 2 ^ 256 +
    7 * 2 ^ (252 + 8 * 0x60) + 0xB0 * 2 ^ (32 + 8 * 0x90)
def withImage (s : State) : State := s.storeBytes (17 * 65536) (leBytes 192 imageNat)

/-- The machine with that load in hand through a record; that image stands in memory. -/
def loading (r : BitVec 256) : State :=
  (withImage (steering (reg1 .held))).onCore 0 fun k => { k with scfgs := [(0, { scfg1 0 with record := r })] }

/-- A record that views the image as CODE; the load with all that it needs read. -/
def recCode : BitVec 256 := recOf 0 0x1E 0x10000 0
def loaded : State := (List.range 3).foldl (fun s _ => served (then_ (.scfgLoadDone ⟨0, 0⟩) s)) (loading recCode)

/-- What a load has come to. -/
abbrev comesTo {α : Type} : Loaded α → Nat
  | .failed _ => 0
  | .waiting _ => 1
  | .done _ => 2

theorem witness_ConfigLoads : (steering (reg1 .held)).ownRegion ((0 : Word).extractLsb' 16 3).toNat = true ∧ RecordIs (steering (reg1 .held)) 1 rec1 ∧
    w.ownRegion 0 = false ∧ ((loading rec1).core 0).scfgs.find? 0 = some (scfg1 0) ∧ (reg1 .held).fab.swapped = [] ∧
    (loading rec1).frozen (scfg1 0).gang = false ∧ (∀ e ∈ ((loading rec1).core 0).scfgs, e.2.hdl = (scfg1 0).hdl → 0 ≤ e.1) ∧
    comesTo ((loading rec1).scfgLoad 0 0 (scfg1 0) 1 0) = 0 ∧
    comesTo ((loading recCode).scfgLoad 0 0 { scfg1 0 with record := recCode } 1 0) = 1 ∧
    (loaded.core 0).scfgs.find? 0 = some { scfg1 0 with record := recCode } ∧
    comesTo (loaded.scfgLoad 0 0 { scfg1 0 with record := recCode } 1 0) = 2 := by
  refine ⟨by decide, ⟨rfl, rfl, rfl⟩, by decide, rfl, rfl, by decide, by decide, by decide, by decide, by decide +kernel, by decide +kernel⟩

/-- An AG's frame in the patch that SBIND names. -/
def withAg : Region := { reg1 .held with active := [(0, ⟨.valid, [BitVec.ofNat 256 (4 * 2 ^ 252)], []⟩)] }

theorem witness_ConfigLoads_bind : (steering withAg).ownRegion 0 = true ∧ (steering withAg).curCore.regions.find? 0 = some withAg ∧ 0 < withAg.len ∧
    (agFrame (withAg.frames 0) 0).isSome = true := by decide

/-- A PT frame that arms rolling swap; a region of it with two configurations, its shadow filled with the same. -/
def armPt : BitVec 256 := BitVec.ofNat 256 (7 * 2 ^ 252 + 2 ^ 245)

def rolling (list : List Nat) : Region :=
  { reg1 .running with list := list, active := [(0, ⟨.valid, [armPt], []⟩)], shadow := [(0, ⟨.valid, [armPt], []⟩)] }

/-- c7 takes the messages of region 0; clasp 0 holds arc 0x4000 of it. -/
def watched : State :=
  (steering { reg1 (.done 0) with doneOwed := some 0, fab := { (default : Fabric) with arcs := [(0x4000, [doneToken])] } }).onCore 0 fun k =>
    { k with chans := [(7, { Chan.unbound with valid := true, src := 1, param := 0 })], clasps := [(0, ⟨true, false, 0, 0, 0x4000⟩)] }

theorem witness_RegionEvents : let g := { reg1 .held with list := [0, 1] }
    ((steering g 2).core 0).loading 0 = false ∧ 0 < g.len ∧ g.shadow.find? 0 = none ∧ g.fab.swapped = [] ∧ ((steering g 2).core 0).nextFrames g = some [[]] ∧
    (let r := rolling [0, 1];
      Live (steering r 2) 0 0 r ∧ r.run = .running ∧ r.rolling = true ∧ r.next = false ∧ r.nextPos.isSome = true ∧ 0 < r.len ∧ 0 ∉ r.fab.swapped ∧
      r.stop = false ∧ r.inputsEnded 0 = true ∧ r.innerEmpty 0 = true ∧ r.leftEnded 0 = true ∧ ((steering r 2).core 0).agsWritten 0 r 0 = true ∧
      r.shadow.find? 0 = some ⟨.valid, [armPt], []⟩ ∧ Sound r) ∧
    (steering (rolling [0])).atEnd 0 0 (rolling [0]) = true ∧ (steering (rolling [0])).performed 0 0 (rolling [0]) = true := by
  refine ⟨rfl, by decide, rfl, rfl, by decide, ⟨⟨rfl, rfl, rfl, rfl⟩, rfl, by decide, rfl, by decide, by decide, by decide, rfl, by decide, by decide, by decide,
    by decide, rfl, ?_⟩, by decide, by decide⟩
  unfold Sound; decide

theorem witness_RegionEvents_done : watched.frozen (some gang1) = false ∧ ((watched.core 0).chan 7).valid = true ∧ ((watched.core 0).chan 7).src = 1 ∧
    ((watched.core 0).chan 7).param.toNat % 8 = 0 ∧ watched.performed 0 0 { reg1 (.done 0) with doneOwed := some 0 } = true ∧
    (∀ x ∈ (watched.core 0).mxq, x.ofRegion 0 = true → x.phase = .faulted) ∧
    ((watched.core 0).clasp 0).en = true ∧ ((watched.core 0).clasp 0).hit = false ∧ ((watched.core 0).clasp 0).budget = 0 ∧
    ((watched.core 0).regions.find? 0).any (fun g => g.fab.arcs.get [] ((watched.core 0).clasp 0).arc.toNat != []) = true := by
  refine ⟨by decide, rfl, rfl, by decide, by decide, ?_, rfl, rfl, rfl, by decide⟩
  intro x h; cases h

/-! ### Units of a patch: frames built field by field (R127 to R132) -/

/-- A uniform CU frame of stage `st` of CU 0. -/
def cuF (st op bsrc cin : Nat) : BitVec 256 := BitVec.ofNat 256 (2 ^ 252 + st * 2 ^ 247 + (op * 16 + bsrc * 4 + cin * 2) * 2 ^ 48)
/-- A CT frame of these descriptors. -/
def ctF (ds : List Desc) : BitVec 256 := BitVec.ofNat 256 ((ds.zipIdx.foldl (fun n e =>
  n + (e.1.op * 2 ^ 40 + e.1.in0 * 2 ^ 36 + e.1.in1 * 2 ^ 32 + e.1.in2 * 2 ^ 28 + e.1.out0 * 2 ^ 24 + e.1.out1 * 2 ^ 20 + e.1.param) * 2 ^ (200 - 48 * e.2) +
    e.1.ext * 2 ^ (42 - 14 * e.2)) (5 * 2 ^ 252)))
/-- AG 0: mode, record 1, direction, one dimension of `n` elements with a stride of 1 byte. -/
def agF (mode n dir : Nat) : BitVec 256 := BitVec.ofNat 256 (4 * 2 ^ 252 + mode * 2 ^ 248 + 2 ^ 239 + (n - 1) * 2 ^ 191 + 2 ^ 167 + dir * 2 ^ 39)
/-- MU 0. -/
def muF (mode fmt wlen wop lines pen : Nat) : BitVec 256 :=
  BitVec.ofNat 256 (2 * 2 ^ 252 + mode * 2 ^ 246 + fmt * 2 ^ 241 + wlen * 2 ^ 229 + wop * 2 ^ 225 + lines * 2 ^ 199 + pen * 2 ^ 195)
def lxF (conv : Nat) : BitVec 256 := BitVec.ofNat 256 (6 * 2 ^ 252 + conv * 2 ^ 247)

/-- An arc from pin 120 of the patch to an input pin, and the tokens on such arcs. -/
def arc (pin : Nat) : Nat := arcId 0 120 0 pin
def onArcs (l : List (Nat × Token)) : Fabric := { (default : Fabric) with arcs := l.map fun e => (arc e.1, [e.2]) }

def fabRegion (fs : List (BitVec 256)) (f : Fabric) : Region := { reg1 .running with active := [(0, ⟨.valid, fs, []⟩)], fab := f }
def fabric (fs : List (BitVec 256)) (f : Fabric) : State := steering (fabRegion fs f)

def data1 : Token := vecToken ((List.range 16).map fun n => BitVec.ofNat 32 n) 0xFFFF

/-- IADD on lanes of a token and the immediate, at stage 0 of CU 0. -/
def cuTok (t : Token) : State := fabric [cuF 0 0x10 0 0] (onArcs [(0, t)])
def cuReg (t : Token) : Region := fabRegion [cuF 0 0x10 0 0] (onArcs [(0, t)])

theorem witness_StageFires : StageReady (cuTok data1) 0 0 0 0 0 (cuReg data1) (cuF 0 0x10 0 0) (some (arc 0)) ⟨data1, none⟩ [] ∧
    StageRow (.iadd ⟨0, 0, 0, 0, 0⟩) 0 0 0 0 0 (cuF 0 0x10 0 0) ∧ StageRow (.firing ⟨0, 0, 0, .cu 0 0⟩) 0 0 0 0 0 (cuF 0 0x10 0 0) ∧ data1.mark = 0 ∧
    laneValid (cuF 0 0x10 0 0) data1 none 0 15 = true ∧ laneValid (cuF 0 0x10 0 0) (vecToken [] 0x7FFF) none 0 15 = false :=
  ⟨⟨rfl, by decide, by decide, by decide, rfl, by decide, by decide, by decide, by decide⟩, .inl ⟨(.iadd, 0x10), by simp [cellRows], rfl, 0, by decide, by decide⟩, .inr ⟨rfl, by decide⟩, rfl, by decide, by decide⟩

/-- Stage 5 of CU 0 holds a token. -/
def lastStage : State := fabric [cuF 5 0x10 0 0] { (default : Fabric) with stages := [(stageKey 0 0 5, ⟨data1, none⟩)] }

theorem witness_StagePassesMarkers :
    StageReady (cuTok (markToken .vector 3)) 0 0 0 0 0 (cuReg (markToken .vector 3)) (cuF 0 0x10 0 0) (some (arc 0)) ⟨markToken .vector 3, none⟩ [] ∧
    (markToken .vector 3).mark ≠ 0 ∧ (lastStage.liveRegion 0 0).any (fun g => g.room 0 4 && g.room 0 8 &&
      decide (g.fab.stages.find? (stageKey 0 0 5) = some ⟨data1, none⟩)) = true :=
  ⟨⟨rfl, by decide, by decide, by decide, rfl, by decide, by decide, by decide, by decide⟩, by decide, by decide⟩

def cell0 (a b : Lane) : CellIn := ⟨0, a, b, 0, 0, 0, 0, 0, List.replicate 16 a, 0xFFFF⟩

theorem witness_LaneAndHoldCells : (cell0 1 2).lanes.length = 16 ∧ (cell0 1 2).n < 16 ∧ validLanes (cell0 1 2).lanes 0 = [] ∧
    validLanes (cell0 1 2).lanes (cell0 1 2).mask ≠ [] ∧ (cellOp 0x78 (cell0 1 2)).hold.isSome = true := by decide

theorem witness_WideAdd : cuPerLane (cuF 0 0x12 3 1) = false ∧ laneOp (cuLane (cuF 0 0x12 3 1) 0) = 0x12 ∧ laneBsrc (cuLane (cuF 0 0x12 3 1) 0) = 3 ∧
    laneCin (cuLane (cuF 0 0x12 3 1) 0) = true ∧ data1.mask = 0xFFFF := by decide

theorem witness_RoundOnce : (0x3F800000 : Nat) < 2 ^ (1 + Fmt.fp32.expo + Fmt.fp32.mant) ∧ Fmt.fp32.dec 0x3F800000 = .fin false 0x800000 (-23) ∧
    0 < 1 ∧ (roundMag 0 false 3 (-1)) = (2, true) ∧ (roundMag 0 false 4 (-1)) = (2, false) ∧ (0xFF000001 : Lane).toInt.natAbs < 2 ^ 24 := by decide

theorem witness_FloatCorners : (f32 0x7FC00000).isNan = true ∧ (f32 0).isNan = false ∧ (f32 0).isZero = true ∧ (f32 0x80000000).isZero = true ∧
    (f32 0x3F800000).isInf = false := by decide

/-! ### CT operators -/

/-- Slot 0 of the CT holds `d`; tokens on its input pins; its kept state. -/
def ctRegion (d : Desc) (toks : List (Nat × Token)) (st : CtState) : Region :=
  fabRegion [ctF [d]] { onArcs (toks.map fun e => (72 + e.1, e.2)) with cts := if st = CtState.fresh then [] else [(0, st)] }
def ctWith (d : Desc) (toks : List (Nat × Token)) (st : CtState := CtState.fresh) : State := steering (ctRegion d toks st)

/-- Whether the slot holds `d` in this state, sees these tokens, as inputs i on pins n, and has room on these pins. -/
def ctOk (d : Desc) (toks : List (Nat × Nat × Token)) (outs : List Nat) (st : CtState := CtState.fresh) : Bool :=
  let l := toks.map fun e => (e.2.1, e.2.2)
  let g := ctRegion d l st
  let s := ctWith d l st
  d.ok && decide (s.liveRegion 0 0 = some g) && decide (ctOp (g.frames 0) 0 = some d) && decide (g.fab.cts.get CtState.fresh 0 = st)
    && (toks.all fun e => decide ((s.core 0).peekCt 0 g 0 e.2.1 e.1 = some (arc (72 + e.2.1), e.2.2))
      && decide (ctReaders (patchDescs (g.frames 0)) e.2.1 = [e.1]) && decide (e.2.2.scale = none))
    && outs.all fun n => g.room 0 (72 + n)

def true1 : Token := ⟨.control, 1, 1, 0, none⟩
def false1 : Token := ⟨.control, 0, 1, 0, none⟩
def eol : Token := markToken .control 1
def onState : CtState := { CtState.fresh with on := true }

/-- STEER of data and of a marker, MERGE of data, CARRY in INIT, leaving LOOP and going round, GATE, SINK. -/
theorem witness_SelectingOperators : ctOk ⟨1, 1, 2, 0, 3, 4, 0, 0⟩ [(0, 1, data1), (1, 2, true1)] [3, 4] = true ∧
    ctOk ⟨1, 1, 2, 0, 3, 4, 0, 0⟩ [(0, 1, eol), (1, 2, eol)] [3, 4] = true ∧ ctOk ⟨2, 1, 2, 5, 3, 0, 0, 0⟩ [(0, 1, false1), (2, 5, data1)] [3] = true ∧
    ctOk ⟨3, 1, 2, 5, 3, 0, 0, 0⟩ [(0, 1, data1)] [3] = true ∧ ctOk ⟨3, 1, 2, 5, 3, 0, 0, 0⟩ [(2, 5, false1)] [3] onState = true ∧
    ctOk ⟨3, 1, 2, 5, 3, 0, 0, 0⟩ [(1, 2, data1), (2, 5, true1)] [3] onState = true ∧
    ctOk ⟨4, 1, 2, 0, 3, 0, 1, 0⟩ [(0, 1, data1), (1, 2, false1)] [3] = true ∧ ctOk ⟨5, 1, 0, 0, 3, 0, 1, 0⟩ [(0, 1, eol)] [3] = true ∧
    ctOk ⟨2, 1, 2, 5, 3, 0, 0, 0⟩ [(0, 1, eol), (1, 2, eol), (2, 5, eol)] [3] = true := by
  refine ⟨?_, ?_, ?_, ?_, ?_, ?_, ?_, ?_, ?_⟩ <;> decide

/-- COUNT started, counting, at its marker, at its done; LUT4 of two inputs; REPEAT with a constant and with a count. -/
theorem witness_CountingOperators : (ctRegion ⟨6, 1, 0, 0, 3, 4, 0x4001, 0x80⟩ [] onState).fab.swapped = [] ∧
    ctOk ⟨6, 1, 0, 0, 3, 4, 0x4001, 0x80⟩ [(0, 1, true1)] [3, 4] = true ∧ ctOk ⟨6, 1, 0, 0, 3, 4, 0x4001, 0x80⟩ [] [3, 4] onState = true ∧
    ctOk ⟨6, 1, 0, 0, 3, 4, 0x4001, 0x80⟩ [] [3] { onState with sent := 2 } = true ∧
    ctOk ⟨6, 1, 0, 0, 3, 4, 0x4001, 0x80⟩ [] [4] { onState with sent := 3 } = true ∧
    ctOk ⟨7, 1, 2, 0, 3, 0, 0x30008, 0⟩ [(0, 1, true1), (1, 2, true1)] [3] = true ∧ (⟨7, 1, 2, 0, 3, 0, 0x30008, 0⟩ : Desc).reads = [(0, 1), (1, 2)] ∧
    ctOk ⟨8, 1, 0, 0, 3, 0, 1, 0⟩ [(0, 1, data1)] [3] = true ∧ ctOk ⟨8, 1, 2, 0, 3, 0, 0x10000, 0⟩ [(0, 1, data1), (1, 2, true1)] [3] = true ∧
    ctOk ⟨8, 1, 0, 0, 3, 0, 1, 0⟩ [] [3] { CtState.fresh with tok := some data1, total := 2 } = true := by
  refine ⟨rfl, ?_, ?_, ?_, ?_, ?_, ?_, ?_, ?_, ?_⟩ <;> decide

/-- SEQ before, in and after a pass of two, PIPE of window 2, STREAM as a root; MSEQ with its template read, by its in0 and fed by another slot's pin. -/
theorem witness_ControllingOperators : ctOk ⟨0x10, 1, 0, 2, 3, 4, 1, 0⟩ [(0, 1, true1)] [3, 4] = true ∧
    ctOk ⟨0x10, 1, 0, 2, 3, 4, 1, 0⟩ [] [3, 4] onState = true ∧ ctOk ⟨0x10, 1, 0, 2, 3, 4, 1, 0⟩ [(2, 2, true1)] [3, 4] { onState with sent := 1 } = true ∧
    ctOk ⟨0x10, 1, 0, 2, 3, 4, 1, 0⟩ [] [3, 4] { onState with sent := 2, dones := 2 } = true ∧
    ctOk ⟨0x11, 1, 0, 2, 3, 4, 1, 2⟩ [] [3, 4] { onState with sent := 1 } = true ∧ ctOk ⟨0x12, 0, 0, 2, 3, 4, 0x10001, 0⟩ [] [3, 4] = true ∧
    ((ctWith ⟨0x10, 1, 0, 2, 3, 4, 1, 0⟩ [] onState).core 0).peekCt 0 (ctRegion ⟨0x10, 1, 0, 2, 3, 4, 1, 0⟩ [] onState) 0 2 2 = none ∧
    ctOk ⟨0x18, 1, 2, 0, 3, 4, 1, 0⟩ [] [3, 4] { CtState.fresh with template := some 5 } = true ∧
    ctOk ⟨0x18, 1, 2, 0, 3, 4, 1, 0⟩ [(1, 2, true1)] [3, 4] { onState with template := some 5, sent := 1 } = true ∧
    ctOk ⟨0x18, 1, 2, 0, 3, 4, 1, 0⟩ [] [3, 4] { onState with template := some 5, sent := 2, dones := 2 } = true ∧
    ctDriven (patchDescs ((fabRegion [ctF [⟨0x18, 1, 2, 0, 3, 4, 1, 0⟩, ⟨0x06, 5, 0, 0, 1, 6, 0, 0⟩]] default).frames 0)) 1 = true := by
  refine ⟨?_, ?_, ?_, ?_, ?_, ?_, rfl, ?_, ?_, ?_, ?_⟩ <;> decide

/-! ### AG, MU and LX -/

def agRegion (f : BitVec 256) (st : AgState) (toks : List (Nat × Token)) : Region :=
  fabRegion [f] { onArcs toks with ags := if st = AgState.idle then [] else [(0, st)] }
def agWith (f : BitVec 256) (st : AgState) (toks : List (Nat × Token) := []) : State := steering (agRegion f st toks)
def walkState : AgState := ⟨true, true, rec1, 1, 0, none, false, false, [], none, []⟩

/-- AG 0 acts, and no collar, permit, budget or refusal hinders these accesses. -/
def agOk (f : BitVec 256) (st : AgState) (toks : List (Nat × Token)) : Bool :=
  decide ((agWith f st toks).liveRegion 0 0 = some (agRegion f st toks)) && decide (agFrame ((agRegion f st toks).frames 0) 0 = some f)
    && decide ((agRegion f st toks).fab.ags.get AgState.idle 0 = st) && (agRegion f st toks).room 0 64

/-- The AG in a state of the module. -/
def agSite (f : BitVec 256) (s : State) : AgRun := ⟨s, 0, 0, 0, 0, f, ((s.core 0).regions.find? 0).getD default⟩

/-- A read AG's next token: its bytes are still to be asked for, and may be; they are back, and the token can be put together. -/
def agAsks (f : BitVec 256) (s : State) : Bool :=
  let x := agSite f s
  (x.reaches false ((walkOf f x.st.record).token x.st.pos)).toOption.any fun es => (spansOf (wantsOf es)).head?.any fun sp =>
    ((s.core 0).portError x.unit.port).isNone && ((s.core 0).asked x.unit.port sp).isNone && (State.payRequest 0 0 s).isSome
      && (s.core 0).permitted 0 (x.unit.req .fetch sp.target).dest
def agReads (f : BitVec 256) (s : State) : Bool :=
  let x := agSite f s
  (x.reaches false ((walkOf f x.st.record).token x.st.pos)).toOption.any fun es => ((s.core 0).portError x.unit.port).isNone
    && ((spansOf (wantsOf es)).all fun sp => (((s.core 0).asked x.unit.port sp).bind fun r => r.reply?).isSome)
    && ((Shows s x.unit (spansOf (wantsOf es) ++ x.ahead ((walkOf f x.st.record).tokensAhead (x.st.pos + (walkOf f x.st.record).chunk x.st.pos)))).readElems
      x.st.record es).toOption.any fun rs => rs.all Option.isSome

/-- A read AG of 64 bytes, its walk under way; with the bytes of its tokens back. -/
def reading : State := agWith (agF 1 64 0) walkState
def readBack : State := served (then_ (.agReadToken ⟨0, 0, 0, 0⟩) reading)

/-- A walk of 64 bytes: not begun, bound, at an enabling token, under way, past its last point. -/
theorem witness_AddressGeneratorsRead : agOk (agF 1 64 0) AgState.idle [] = true ∧ (agRegion (agF 1 64 0) AgState.idle []).reached 0 67 = false ∧
    RecordFree (agWith (agF 1 64 0) AgState.idle) 0 1 ∧ (agRegion (agF 1 64 0) AgState.idle []).binds.find? 0 = none ∧
    (({ agRegion (agF 1 64 0) AgState.idle [] with binds := [(0, ⟨1, 3, 0, false⟩)] } : Region).binds.find? 0) = some ⟨1, 3, 0, false⟩ ∧
    agOk (agF 1 64 0) walkState [] = true ∧ fmtDb (recView walkState.record) = false ∧ agDir (agF 1 64 0) = false ∧ agMode (agF 1 64 0) ≠ 2 ∧
    agAsks (agF 1 64 0) reading = true ∧ (readBack.liveRegion 0 0).isSome = true ∧ (agSite (agF 1 64 0) readBack).st = walkState ∧
    agReads (agF 1 64 0) readBack = true ∧
    agOk (agF 1 64 0) { walkState with pos := 64, owed := true } [] = true ∧ (walkOf (agF 1 64 0) rec1).marker 0 64 = 7 := by
  refine ⟨?_, ?_, ⟨rfl, rfl, rfl⟩, rfl, rfl, ?_, ?_, ?_, ?_, ?_, ?_, ?_, ?_, ?_, ?_⟩ <;> decide +kernel

/-- A read AG whose view is DB16, over a DB16 page whose scales lie from physical address 0 on; with its bytes back. -/
def dbState : AgState := { walkState with record := rec1 ||| BitVec.ofNat 256 (0x12 * 2 ^ 247) }
def dbReading : State := { agWith (agF 1 16 0) dbState with tlb := [⟨0, 0, 2, pte 18 0x12 0⟩] }
def dbBack : State := served (then_ (.agReadToken ⟨0, 0, 0, 0⟩) dbReading)

theorem witness_AddressGeneratorsRead_db : fmtDb (recView dbState.record) = true ∧ agDir (agF 1 16 0) = false ∧
    agAsks (agF 1 16 0) dbReading = true ∧ (dbBack.liveRegion 0 0).isSome = true ∧ (agSite (agF 1 16 0) dbBack).st = dbState ∧
    (agSite (agF 1 16 0) dbBack).g.room 0 64 = true ∧ agReads (agF 1 16 0) dbBack = true := by
  refine ⟨?_, ?_, ?_, ?_, ?_, ?_, ?_⟩ <;> decide +kernel

/-- A write AG of 16 bytes with a token to take; with that token's writes still to set out. -/
def writing : State := agWith (agF 1 16 1) walkState [(65, data1)]
def written_ : State := then_ (.agWrite ⟨0, 0, 0, 0⟩) writing

def agWrites (f : BitVec 256) (t : Token) (s : State) : Bool :=
  let x := agSite f s
  let v := walkOf f x.st.record
  let ps := (List.range (v.chunk 0)).filterMap fun j => (tokenCode t.asVector v.e j).map fun u => (v.place j, u)
  (x.reaches true (ps.map fun q => some q.1)).toOption.any fun es => (x.writes t.asVector es (ps.map fun q => q.2)).toOption.any fun ws =>
    ws.all fun y => match y with | .part _ _ _ => true | _ => false

theorem witness_AddressGeneratorsWrite : agOk (agF 1 16 1) walkState [(65, data1)] = true ∧ agDir (agF 1 16 1) = true ∧
    ((writing.core 0).portError (agSite (agF 1 16 1) writing).unit.port) = none ∧ agWrites (agF 1 16 1) data1 writing = true ∧
    agOk (agF 1 16 1) walkState [(65, markToken .vector 1)] = true ∧
    ((agSite (agF 1 16 1) written_).st.out.head?.any fun q => (State.payRequest 0 0 written_).isSome &&
      ((written_.core 0).takeWritten (agSite (agF 1 16 1) written_).unit.port).permitted 0 ((agSite (agF 1 16 1) written_).unit.req q.op q.target).dest) = true ∧
    agOk (agF 1 16 1) { walkState with pos := 16, owed := true } [] = true ∧
    (((agWith (agF 1 16 1) { walkState with pos := 16, owed := true }).core 0).takeWritten (agSite (agF 1 16 1) writing).unit.port).portIdle
      (agSite (agF 1 16 1) writing).unit.port = true := by
  refine ⟨?_, ?_, ?_, ?_, ?_, ?_, ?_, ?_⟩ <;> decide

/-- INDEXED: the elements that an idx token names are back; a marker on idx; a data and an idx token to write, and markers on both. -/
def gathering : State := agWith (agF 2 16 0) walkState [(66, data1)]
def gathered : State := served (then_ (.agReadToken ⟨0, 0, 0, 0⟩) gathering)
def indexedReads (f : BitVec 256) (s : State) (y : Token) : Bool :=
  let x := agSite f s
  let w := walkOf f x.st.record
  (x.reaches false ((List.range 16).map fun n => if y.asVector.mask.getLsbD n
      then some ⟨w.base + (y.asVector.lane n).toNat * w.strides.headD 0, w.e⟩ else none)).toOption.any fun es =>
    ((s.core 0).portError x.unit.port).isNone && ((spansOf (wantsOf es)).all fun sp => (((s.core 0).asked x.unit.port sp).bind fun r => r.reply?).isSome)
      && ((Shows s x.unit (spansOf (wantsOf es))).readElems x.st.record es).isOk
def scattering (m : Nat) : State :=
  let t (n : Nat) := if m = 0 then data1 else markToken .vector (BitVec.ofNat 3 n)
  agWith (agF 2 16 1) walkState [(65, t m), (66, t m)]
def indexedWrites (f : BitVec 256) (s : State) (t y : Token) : Bool :=
  let x := agSite f s
  let w := walkOf f x.st.record
  let lanes := (List.range 16).filter fun n => t.asVector.mask.getLsbD n && y.asVector.mask.getLsbD n
  (x.reaches true (lanes.map fun n => some ⟨w.base + (y.asVector.lane n).toNat * w.strides.headD 0, w.e⟩)).toOption.any fun es =>
    (x.writes t.asVector es (lanes.map fun n => (t.asVector.lane n).toNat % 16 ^ w.e)).toOption.any fun ws =>
      ws.all fun z => match z with | .part _ _ _ => true | _ => false

theorem witness_IndexedWalks : agMode (agF 2 16 0) = 2 ∧ agDir (agF 2 16 0) = false ∧ viewHalf (recView walkState.record) ≤ 8 ∧
    (gathered.liveRegion 0 0).isSome = true ∧ (agSite (agF 2 16 0) gathered).st = walkState ∧ indexedReads (agF 2 16 0) gathered data1 = true ∧
    (gathered.core 0).peek 0 (agSite (agF 2 16 0) gathered).g 0 66 = some (arc 66, data1) ∧
    agOk (agF 2 16 0) walkState [(66, markToken .vector 7)] = true := by
  refine ⟨?_, ?_, ?_, ?_, ?_, ?_, ?_, ?_⟩ <;> decide +kernel

theorem witness_IndexedWalks_write : agMode (agF 2 16 1) = 2 ∧ agDir (agF 2 16 1) = true ∧ arc 65 ≠ arc 66 ∧
    agOk (agF 2 16 1) walkState [(65, data1), (66, data1)] = true ∧ indexedWrites (agF 2 16 1) (scattering 0) data1 data1 = true ∧
    ((scattering 0).core 0).portError (agSite (agF 2 16 1) (scattering 0)).unit.port = none ∧ ((scattering 0).core 0).peek 0 (agSite (agF 2 16 1) (scattering 0)).g 0 65 = some (arc 65, data1) ∧
    agOk (agF 2 16 1) walkState [(65, markToken .vector 7), (66, markToken .vector 7)] = true := by
  refine ⟨?_, ?_, ?_, ?_, ?_, ?_, ?_, ?_⟩ <;> decide +kernel

theorem witness_AffineWalks : (walkOf (agF 1 64 0 ||| (1 : BitVec 256) <<< 37 ||| (1 : BitVec 256) <<< 151) rec1).counts = [64, 2] ∧
    (walkOf (agF 1 64 0 ||| (1 : BitVec 256) <<< 37 ||| (1 : BitVec 256) <<< 151) rec1).strides.length = 2 ∧
    0 < (walkOf (agF 1 64 0 ||| (1 : BitVec 256) <<< 37 ||| (1 : BitVec 256) <<< 151) rec1).e := by decide

def muRegion (f : BitVec 256) (st : MuState) (toks : List (Nat × Token)) : Region :=
  fabRegion [f] { onArcs toks with mus := if st = MuState.fresh then [] else [(0, st)] }
def muWith (f : BitVec 256) (st : MuState) (toks : List (Nat × Token)) : State := steering (muRegion f st toks)

/-- MU 0 acts in mode `m`, sees these tokens, and has room on its outputs. -/
def muOk (m : Nat) (f : BitVec 256) (st : MuState) (toks : List (Nat × Token)) : Bool :=
  let s := muWith f st toks
  let g := muRegion f st toks
  Machine.muOk f && decide (s.liveRegion 0 0 = some g) && decide (muFrame (g.frames 0) 0 = some f) && muMode f == m
    && decide (g.fab.mus.get MuState.fresh 0 = st) && (toks.all fun e => decide ((s.core 0).peek 0 g 0 e.1 = some (arc e.1, e.2)) && e.2.scale.isNone)
    && g.room 0 50 && g.room 0 51

theorem witness_FifoAndTable : muOk 2 (muF 2 0 0 0 3 10) MuState.fresh [(48, data1)] = true ∧
    muOk 2 (muF 2 0 0 0 3 10) { MuState.fresh with fifo := [data1] } [] = true ∧ muOk 5 (muF 5 7 0 0 3 10) MuState.fresh [(48, data1)] = true ∧
    muOk 5 (muF 5 7 0 0 3 10) MuState.fresh [(48, markToken .vector 2)] = true ∧ (63 + 1) * viewHalf 7 ≤ 128 * (3 + 1) ∧ 2 ≤ viewHalf 7 ∧
    128 * (3 + 1) < (64 + 1) * viewHalf 7 ∧
    (muWith (muF 5 7 0 0 3 10) MuState.fresh []).poisonedAt (2 ^ 47 + 63 * viewHalf 7 / 2) (viewHalf 7 / 2) = false := by
  refine ⟨?_, ?_, ?_, ?_, ?_, ?_, ?_, ?_⟩ <;> decide

theorem witness_WindowsAndReads : muOk 3 (muF 3 7 3 0 7 15) MuState.fresh [(48, data1)] = true ∧
    ((muWith (muF 3 7 3 0 7 15) MuState.fresh [(48, data1)]).core 0).peek 0 (muRegion (muF 3 7 3 0 7 15) MuState.fresh [(48, data1)]) 0 49 = none ∧
    muOk 3 (muF 3 7 3 0 7 15) MuState.fresh [(49, data1)] = true ∧
    ((muWith (muF 3 7 3 0 7 15) MuState.fresh [(49, data1)]).core 0).peek 0 (muRegion (muF 3 7 3 0 7 15) MuState.fresh [(49, data1)]) 0 48 = none ∧
    muOk 3 (muF 3 7 3 0 7 15) MuState.fresh [(48, markToken .vector 7)] = true ∧ muOk 3 (muF 3 7 3 0 7 15) MuState.fresh [(48, markToken .vector 6)] = true ∧
    muOk 3 (muF 3 7 3 0 7 15) { MuState.fresh with wset := true } [(48, scalarToken 7)] = true ∧
    muOk 4 (muF 4 8 0 0 0 10) MuState.fresh [(48, scalarToken 0xFFF)] = true ∧ 0xFFF / 16 % 64 + (0xFFF / 2 ^ 10 + 1) ≥ 64 ∧
    muOk 4 (muF 4 8 0 0 0 10) MuState.fresh [(48, scalarToken 0xC0F)] = true ∧ 0xC0F / 16 % 64 + (0xC0F / 2 ^ 10 + 1) ≤ 64 ∧
    muOk 4 (muF 4 8 0 0 0 10) { MuState.fresh with rows := [data1] } [] = true := by
  refine ⟨?_, rfl, ?_, rfl, ?_, ?_, ?_, ?_, ?_, ?_, ?_, ?_⟩ <;> decide

theorem witness_WindowFolds : (∀ a b c : Lane × Lane, (fun (x _y : Lane × Lane) => x) ((fun (x _y : Lane × Lane) => x) a b) c =
    (fun (x _y : Lane × Lane) => x) a ((fun (x _y : Lane × Lane) => x) b c)) ∧ 0 < 1 ∧ ([3, 4] : List Lane) ≠ [] := ⟨fun _ _ _ => rfl, by decide, by decide⟩

def lxRegion (conv : Nat) (st : LxState) (toks : List (Nat × Token)) : Region :=
  fabRegion [lxF conv] { onArcs toks with lxs := if st = LxState.fresh then [] else [(0, st)] }
def lxWith (conv : Nat) (st : LxState) (toks : List (Nat × Token)) : State := steering (lxRegion conv st toks)
def lxRun (conv : Nat) (st : LxState) (toks : List (Nat × Token)) : LxRun := ⟨lxWith conv st toks, 0, 0, 0, lxF conv, lxRegion conv st toks⟩

def lxOk (conv : Nat) (st : LxState) (toks : List (Nat × Token)) : Bool :=
  let s := lxWith conv st toks
  let g := lxRegion conv st toks
  Machine.lxOk (lxF conv) && decide (s.liveRegion 0 0 = some g) && decide (lxFrame (g.frames 0) = some (lxF conv))
    && decide (g.fab.lxs.get LxState.fresh 0 = st) && (toks.all fun e => decide ((s.core 0).peek 0 g 0 e.1 = some (arc e.1, e.2)) && e.2.scale.isNone)
    && g.room 0 90

/-- FP32 to FP16 with nothing held and with a full token to emit; PLANE with a block to regroup and with none. -/
theorem witness_Converters : lxOk 1 LxState.fresh [(88, data1)] = true ∧ (fmtOfCode (lxRun 1 LxState.fresh []).formats.1).isSome = true ∧
    (fmtOfCode (lxRun 1 LxState.fresh []).formats.2).isSome = true ∧ lxToDb (lxConv (lxF 1)) = false ∧ lxFromDb (lxConv (lxF 1)) = false ∧ lxMsrc (lxF 1) = false ∧
    0 < 128 / (lxRun 1 LxState.fresh []).eOut ∧ lxOk 1 { LxState.fresh with outs := List.replicate 32 1 } [] = true ∧
    128 / (lxRun 1 LxState.fresh []).eOut ≤ 32 ∧ lxOk 0x1F { LxState.fresh with ins := List.replicate 32 1 } [] = true ∧
    lxOk 0x1F LxState.fresh [(88, data1)] = true ∧ ((lxWith 0x1F LxState.fresh [(88, data1)]).core 0).peek 0 (lxRegion 0x1F LxState.fresh [(88, data1)]) 0 89 = none := by
  refine ⟨?_, ?_, ?_, ?_, ?_, ?_, ?_, ?_, ?_, ?_, ?_, rfl⟩ <;> decide

/-- To DB (0x10): a group of 256, a token to take in, a marker over a short group, a token and metadata to emit. From DB (0x18): a full token to
emit, elements with their metadata, the metadata, a data token. A marker with nothing left. -/
theorem witness_DbConverters : lxOk 0x10 { LxState.fresh with ins := List.replicate 256 1 } [] = true ∧ lxToDb (lxConv (lxF 0x10)) = true ∧
    (fmtOfCode (lxRun 0x10 LxState.fresh []).formats.1).isSome = true ∧ 0 < 128 / (lxRun 0x10 LxState.fresh []).eOut ∧
    lxOk 0x10 LxState.fresh [(88, data1)] = true ∧ lxOk 0x10 { LxState.fresh with ins := [1] } [(88, markToken .vector 1)] = true ∧
    lxOk 0x10 { LxState.fresh with outs := [1], metaOut := some 0 } [] = true ∧
    (lxRegion 0x10 { LxState.fresh with outs := [1], metaOut := some 0 } []).room 0 91 = true ∧ lxMsrc (lxF 0x10) = false := by
  refine ⟨?_, ?_, ?_, ?_, ?_, ?_, ?_, ?_, ?_⟩ <;> decide

theorem witness_DbConverters_from : lxFromDb (lxConv (lxF 0x18)) = true ∧ (fmtOfCode (lxRun 0x18 LxState.fresh []).formats.2).isSome = true ∧
    0 < 128 / (lxRun 0x18 LxState.fresh []).eOut ∧ 128 / (lxRun 0x18 LxState.fresh []).eOut ≤ 32 ∧
    lxOk 0x18 { LxState.fresh with outs := List.replicate 32 1 } [] = true ∧
    lxOk 0x18 { LxState.fresh with ins := [1], metaIn := some 0 } [] = true ∧ metaBad 0 = false ∧
    lxOk 0x18 { LxState.fresh with ins := [1] } [(89, data1)] = true ∧ lxOk 0x18 LxState.fresh [(88, data1)] = true ∧
    lxMsrc (lxF 0x18) = false ∧ lxOk 0x18 LxState.fresh [(88, markToken .vector 1)] = true := by
  refine ⟨?_, ?_, ?_, ?_, ?_, ?_, ?_, ?_, ?_, ?_, ?_⟩ <;> decide

/-- One whose metadata is attached. -/
theorem witness_DbConverters_attached : lxMsrc (lxF 0x10 ||| (1 : BitVec 256) <<< 239) = true ∧
    lxToDb (lxConv (lxF 0x10 ||| (1 : BitVec 256) <<< 239)) = true := by decide

/-! ### The matrix engine -/

/-- A token's first word: operation, tile, k; it raises no counter. -/
def mxW (op acc k : Nat) : Word := BitVec.ofNat 64 (op * 2 ^ 60 + acc * 2 ^ 56 + k * 2 ^ 31 + 1)

/-- Planed DB16 operands without offsets on page 7, and a linear FP32 target in page 2. -/
def mxRec : BitVec 256 := BitVec.ofNat 256 (0x12 * 2 ^ 247 + 2 ^ 244 + 0x70000 * 2 ^ 192 + 0x10000 * 2 ^ 152 + 0x180 * 2 ^ 120)
def drainRec : BitVec 256 := BitVec.ofNat 256 (0x08 * 2 ^ 247 + 0x20000 * 2 ^ 192 + 0x10000 * 2 ^ 152 + 256 * 2 ^ 120)

def mxTok (op : Nat) (r : BitVec 256) (phase : MxPhase) (zeroed : Bool) (resume : Nat) (halves : List Nat) (src : MxSource := .cp 0 0x1000) : MxToken :=
  ⟨3, mxW op 2 1, 0, r, r, src, some gang1, 0, false, phase, zeroed, resume, halves, none, 0, [], 0⟩

/-- Page 2 of FP32 elements, page 7 of planed DB16 elements with scales at 0. -/
def engine (t : MxToken) : State :=
  { onCore0 fun k => { stored 1 (reg1 .running) k with mxq := [t] } with
    tlb := [⟨0, 0, 7, pte 23 0x12 0 ||| (1 : BitVec 128) <<< 68⟩, ⟨0, 0, 2, pte 18 0x08 0⟩] }

/-- A vector token on mx.0 with a token's words, and one that is a marker; mx.0 offers; a done owed on mx.1. -/
def pinTok : Token := ⟨.vector, (mxW 3 2 1).setWidth 512, 0x000F, 0, none⟩
def pinReg (f : Fabric → Fabric) (t : Token := pinTok) : Region := { fabRegion [] (f (onArcs [(94, t)])) with base := 1 }
def pins (f : Fabric → Fabric) (t : Token := pinTok) : State := steering (pinReg f t)
def offering (f : Fabric) : Fabric := { f with offered := [0] }
def owed_ (l : List PinItem) (f : Fabric) : Fabric := { f with owed := [(0, l)] }

theorem witness_MatrixTokens : Passes g0 w ∧ Holds w 0 0 ∧ w.curSlot.spec = none ∧ mxTokenOk (mxW 3 2 1) 0 = true ∧ mxTokenOk 0 0 = false ∧
    w.curCore.mxq.length < 16 ∧ w.mxNext 0 true = some 0 ∧ w.curCore.mxWaits (mxW 3 2 1) = false ∧
    (pins offering).mxNext 0 ((pins offering).cpOffers 0) = some 1 ∧ (pins offering).offeredAt 0 1 = some (0, 0) ∧
    (pins offering).liveRegion 0 0 = some (pinReg offering) ∧ ((pins offering).core 0).peek 0 (pinReg offering) 0 94 = some (arc 94, pinTok) ∧
    (pinReg id).emitOwed 0 = none ∧ 0 ∉ (pinReg id).fab.offered ∧ mxTokenOk (pinTok.data.extractLsb' 0 64) (pinTok.data.extractLsb' 64 64) = true ∧
    (markToken .vector 2).mark ≠ 0 ∧ (pinReg (owed_ [.done])).room 0 95 = true := by
  refine ⟨rfl, rfl, rfl, ?_, ?_, by decide, by decide, by decide, by decide, by decide, by decide, by decide, by decide, by decide, by decide, by decide, by decide⟩ <;> decide

theorem witness_MatrixTokens_complete : let tok := mxTok 3 0 .complete true 0 [] (.pin 0 0)
    let s := (pins (owed_ [.pending 3])).onCore 0 fun k => { k with mxq := [tok] }
    (s.core 0).mxq[0]? = some tok ∧ (s.core 0).mxq.find? (fun u => u.id = tok.id) = some tok ∧ s.frozen tok.gang = false ∧
      (s.core 0).regions.find? 0 = some (pinReg (owed_ [.pending 3])) ∧ (pinReg (owed_ [.pending 3])).room 0 95 = true := by
  refine ⟨rfl, rfl, by decide, rfl, by decide⟩

/-- An MMAZ that starts, and a drain of FP32. -/
theorem witness_MatrixSteps : TokenRuns (engine (mxTok 3 0 .queued false 0 [])) 0 0 (mxTok 3 0 .queued false 0 []) [] ∧
    (engine (mxTok 3 0 .queued false 0 [])).mxHeld 0 (mxTok 3 0 .queued false 0 []) = false ∧
    (engine (mxTok 3 0 .queued false 0 [])).mxCheck 0 (mxTok 3 0 .queued false 0 []) = .ok () := by
  refine ⟨⟨rfl, by decide, by decide, by decide, by decide⟩, by decide, rfl⟩

/-- The handler's core, its record of another subject. -/
def resolving (r : Subject) : State := handled.onCore 0 fun k => { k with
  frecs := k.frecs.map fun e => (e.1, { e.2 with subject := r })
  regions := [(1, reg1 .faulted)], xus := [(0, { copyCmd with phase := .faulted })]
  mxq := [{ mxTok 1 mxRec .faulted true 4 [] with id := 5, w0 := mxW 1 2 1 &&& ~~~1 }] }

/-- One record of each subject; a second record of the region. -/
theorem witness_ResolvesUnits : Passes g0 (resolving (.region 1)) ∧ (resolving (.region 1)).curSlot.handler = some 0 ∧
    (resolving (.region 1)).curSlot.spec = none ∧ (∃ r, (resolving (.region 1)).curCore.frecs.find? 0 = some r ∧ r.subject = .region 1) ∧
    (∃ G, (resolving (.region 1)).curCore.regions.find? 1 = some G ∧ G.run = .faulted) ∧
    (∀ e ∈ (resolving (.region 1)).curCore.frecs, e.1 ≠ 0 → e.2.subject ≠ .region 1) ∧
    (∃ r, (resolving (.command 0)).curCore.frecs.find? 0 = some r ∧ r.subject = .command 0) ∧
    (resolving (.command 0)).curCore.xus.find? 0 = some { copyCmd with phase := .faulted } ∧
    (∃ r, (resolving (.token 5)).curCore.frecs.find? 0 = some r ∧ r.subject = .token 5) ∧
    (∃ x, (resolving (.token 5)).curCore.mxq.find? (fun t => t.id = 5) = some x ∧ x.counter ≠ none) ∧
    (∃ r, (resolving .report).curCore.frecs.find? 0 = some r ∧ r.subject = .report) :=
  ⟨rfl, rfl, rfl, ⟨_, rfl, rfl⟩, ⟨_, rfl, rfl⟩, by decide, ⟨_, rfl, rfl⟩, rfl, ⟨_, rfl, rfl⟩, ⟨_, rfl, by decide⟩, ⟨_, rfl, rfl⟩⟩

theorem witness_ResolvesUnits_others : ∃ e ∈ ((resolving (.region 1)).onCore 0 fun k => { k with frecs := k.frecs ++ k.frecs.map fun e => (1, e.2) }).curCore.frecs,
    e.1 ≠ 0 ∧ e.2.subject = .region 1 := ⟨_, .tail _ (.head _), by decide, rfl⟩

/-- An MMA whose k-group is due, over a record whose extent holds one row, the rest being 0; the machine with its bytes back. -/
def rowRec : BitVec 256 := mxRec ^^^ BitVec.ofNat 256 (0x10040 * 2 ^ 152 + 2 ^ 245)
def group1 : MxToken := mxTok 1 rowRec .started true 0 [0]
def grouping : State := engine group1
def grouped : State := served (then_ (.mma ⟨0, 0⟩) grouping)

/-- The spans of its block's operands are still to be asked for, and may be; they are back and make its operands, and it may be paid for. -/
def groupAsks (s : State) : Bool :=
  (s.blockSpans 0 group1 group1.opA 0).toOption.any fun as => (s.blockSpans 0 group1 group1.opB 0).toOption.any fun bs =>
    (spansOf ((as ++ bs).flatMap MxSpan.wants)).head?.any fun x =>
      ((s.core 0).asked (group1.unit 0).port x).isNone && (s.core 0).permitted 0 ((group1.unit 0).req .fetch x.target).dest
def groupDue (s : State) : Bool :=
  (s.blockSpans 0 group1 group1.opA 0).toOption.any fun as => (s.blockSpans 0 group1 group1.opB 0).toOption.any fun bs =>
    ((spansOf ((as ++ bs).flatMap MxSpan.wants)).all fun x => (((s.core 0).asked (group1.unit 0).port x).bind fun r => r.reply?).isSome) &&
      ((s.seen (group1.unit 0)).groupValues group1.opA 0 as).isOk && ((s.seen (group1.unit 0)).groupValues group1.opB 0 bs).isOk &&
      ((s.core 0).payGroup s.stitch group1).2

theorem witness_MatrixSteps_group : TokenRuns grouping 0 0 group1 [0] ∧ (grouping.core 0).portError (group1.unit 0).port = none ∧
    groupAsks grouping = true ∧ grouping.mxCheck 0 group1 = .ok () := by
  refine ⟨⟨rfl, by decide, by decide, by decide, by decide⟩, by decide, ?_, rfl⟩
  decide +kernel

theorem witness_MatrixSteps_grouped : (grouped.core 0).mxq[0]? = some group1 ∧ (grouped.core 0).mayRun 0 group1 = true ∧ groupDue grouped = true := by
  refine ⟨?_, ?_, ?_⟩ <;> decide +kernel

/-- A drain that starts, whose row is due, whose writes are to set out, and which is over. -/
def drainTok (zeroed : Bool) (resume : Nat) : MxToken := mxTok 4 drainRec (if zeroed then .started else .queued) zeroed resume [2]
def drained_ : State := then_ (.mdrain ⟨0, 0⟩) (engine (drainTok true 0))
def tokIn (s : State) : MxToken := ((s.core 0).mxq[0]?).getD group1

theorem witness_MatrixDrains : TokenRuns (engine (drainTok false 0)) 0 0 (drainTok false 0) [2] ∧ (drainTok false 0).op = 4 ∧
    (engine (drainTok false 0)).mxHeld 0 (drainTok false 0) = false ∧ (engine (drainTok false 0)).mxCheck 0 (drainTok false 0) = .ok () ∧
    ((engine (drainTok false 0)).core 0).mismatch (drainTok false 0) = none ∧
    TokenRuns (engine (drainTok true 0)) 0 0 (drainTok true 0) [2] ∧ ((engine (drainTok true 0)).core 0).portError ((drainTok true 0).unit 0).port = none ∧
    (drainTok true 0).view = 0x08 ∧ 0 < (drainTok true 0).rows ∧ (∀ n ∈ (drainTok true 0).tiles, (((engine (drainTok true 0)).core 0).tile n).poisoned = []) ∧
    ((engine (drainTok true 0)).drainSpan 0 (drainTok true 0) 0).isOk = true := by
  refine ⟨⟨rfl, by decide, by decide, by decide, by decide⟩, by decide, by decide, rfl, rfl,
    ⟨rfl, by decide, by decide, by decide, by decide⟩, by decide, by decide, by decide, by decide, ?_⟩
  decide +kernel

theorem witness_MatrixDrains_sends : (drained_.core 0).mayRun 0 (tokIn drained_) = true ∧ (tokIn drained_).zeroed = true ∧
    ((tokIn drained_).out.head?.any fun q => ((drained_.core 0).takeWritten ((tokIn drained_).unit 0).port).permitted 0
      (((tokIn drained_).unit 0).req q.op q.target).dest) = true ∧
    (drainTok true 128).rows ≤ 128 ∧ TokenRuns (engine (drainTok true 128)) 0 0 (drainTok true 128) [2] ∧
    (((engine (drainTok true 128)).core 0).takeWritten ((drainTok true 128).unit 0).port).portIdle ((drainTok true 128).unit 0).port = true := by
  refine ⟨?_, ?_, ?_, by decide, ⟨rfl, by decide, by decide, by decide, by decide⟩, by decide⟩ <;> decide +kernel

/-! ### Queues -/

/-- The machine with hem die 0's translations of pages 1, 2 and 4 buffered, open to hosts. -/
def hem (f : State → State) : State :=
  f { w with tlb := [⟨16, 0, 1, pte 17 0x1E 0⟩, ⟨16, 0, 2, pte 18 0 0⟩, ⟨16, 0, 4, pte 20 0x1D 0⟩, ⟨0, 0, 1, pte 17 0x1E 0⟩], opened := true, tables := [(0, 1)] }

/-- A queue whose ring of sixteen stands at 0x40000; its head entry published, with this value above its first word. -/
def ringQ (type : BitVec 2) : Queue := { Queue.reset with valid := true, type := type, prio := 3, weight := 2, logn := 4, ring := 0x100, tail := 1 }
def entryAt (v : Nat) (s : State) : State := s.storeBytes (20 * 65536) (leBytes 64 (1 + v * 2 ^ 64))

/-- A COMMAND queue of domain 0 whose head is this command; operands from byte 16 and from byte 32. -/
def commandOf (op a b : Nat) : Nat := op + a * 2 ^ 64 + b * 2 ^ 192
def commanded (op a b : Nat) (f : State → State := id) : State := hem fun s => f (entryAt (commandOf op a b) { s with queues := [(0, ringQ 2)] })
def commandEntry (op a b : Nat) : Nat := 1 + commandOf op a b * 2 ^ 64

def launch0 (placed : Bool) (r : BitVec 512) : Launch := ⟨16 * 2 ^ 48, 0, r, 0, placed, 1, false⟩
def gangOne : Gang := { (default : Gang) with id := ⟨16 * 2 ^ 48, 0⟩, dom := 0, members := [0] }

/-- A queue descriptor of domain 0, and a lining's. -/
def descr : Nat := 2 ^ 127 + 1 * 2 ^ 114 + 4 * 2 ^ 105
def linDescr : Nat := 2 ^ 255 + 2 * 2 ^ 188

abbrev IsCommand (op a b : Nat) (s : State := commanded op a b) : Prop := Commands s 0 op (commandEntry op a b)

theorem witness_QueueCommands : IsCommand 1 16 descr ∧ (commanded 1 16 descr).ownQueue 16 0 = true ∧ bits descr 127 127 = 1 ∧ descriptorOk descr 0 = true ∧
    ((commanded 1 16 descr).queue 16).valid = false ∧ IsCommand 1 16 0 ∧ IsCommand 1 15 0 ∧ IsCommand 2 4095 linDescr ∧ IsCommand 2 3 0 ∧
    bits linDescr 255 255 = 1 ∧ bits linDescr 135 132 = 0 ∧ IsCommand 3 16 0 ∧ (commanded 3 16 0).launches = [] := by
  refine ⟨⟨?_, ?_, ?_⟩, ?_, ?_, ?_, ?_, ⟨?_, ?_, ?_⟩, ⟨?_, ?_, ?_⟩, ⟨?_, ?_, ?_⟩, ⟨?_, ?_, ?_⟩, ?_, ?_, ⟨?_, ?_, ?_⟩, rfl⟩ <;> decide

theorem witness_QueueCommands_kill : let s := commanded 4 (16 * 2 ^ 48) 0 fun s => { s with launches := [launch0 true 0], gangs := [gangOne] }
    IsCommand 4 (16 * 2 ^ 48) 0 s ∧ s.savingLaunch (16 * 2 ^ 48) = false ∧ s.ownQueue (launchQueue (16 * 2 ^ 48)) 0 = true ∧
    s.launches.find? (fun x => x.id == 16 * 2 ^ 48) = some (launch0 true 0) ∧ IsCommand 5 0 0 ∧ (commanded 5 0 0).invalidating 0 ⟨0, 0, true⟩ = false := by
  refine ⟨⟨?_, ?_, ?_⟩, ?_, ?_, rfl, ⟨?_, ?_, ?_⟩, ?_⟩ <;> decide

def measured (s : State) : State := { s with meas := List.replicate 64 0 }

theorem witness_ReportCommands : (measured (commanded 7 0x20000 9)).meas.length = 64 ∧
    (measured (commanded 7 0x20000 9)).reportKey 0 0x20000 = some (18 * 65536) ∧ IsCommand 7 0x20000 9 (measured (commanded 7 0x20000 9)) ∧
    IsCommand 6 0x20000 0 (measured (commanded 6 0x20000 0)) ∧ (measured (commanded 6 0x20000 0)).gangs = [] ∧
    (measured (commanded 6 0x20000 0)).reportKey 0 0x20000 = some (18 * 65536) := by
  refine ⟨rfl, ?_, ⟨?_, ?_, ?_⟩, ⟨?_, ?_, ?_⟩, rfl, ?_⟩ <;> decide

def hostOp (op : HostOp) (va : Nat) : HostAccess := { (default : HostAccess) with va := va, size := 8, op := op, tag := 5 }

/-- A launch record: one core, one region of one patch, image page 1, completion page 2, argument in page 2; no awaits. -/
def lrec : BitVec 512 := BitVec.ofNat 512 (2 * 2 ^ 174 + (0x20000 / 64) * 2 ^ 128 + 1 * 2 ^ 64)

def queued (f : State → State) (q : Queue := ringQ 0) : State := hem fun s => f { s with queues := [(16, q)] }

theorem witness_HostsAndQueues : (∃ tgt, (hem id).hostTarget (hostOp .load 0x20FF8) = .ok tgt ∧ tgt.home = .mem (18 * 65536 + 0xFF8)) ∧
    (∃ tgt, (hem id).hostTarget (hostOp (.store [1, 2, 3, 4, 5, 6, 7, 8]) 0x20FF8) = .ok tgt ∧ tgt.home = .mem (18 * 65536 + 0xFF8)) ∧
    (∃ tgt, (hem id).hostTarget (hostOp (.atomic .add 1 0) 0x20FF8) = .ok tgt ∧ tgt.home = .mem (18 * 65536 + 0xFF8)) ∧
    (hem id).poisonedAt (18 * 65536 + 0xFF8) 8 = false ∧ (∃ e, (hem id).hostTarget (hostOp .load 0x20FF9) = .error e) ∧
    ((queued id).queue 16).valid = true ∧ ((queued id).queue 16).closed = false ∧ 0 < ((2 : Word) - ((queued id).queue 16).tail).toNat ∧
    ((2 : Word) - ((queued id).queue 16).tail).toNat < 2 ^ 63 ∧ 2 ^ 63 ≤ ((0 : Word) - ((queued id).queue 16).tail).toNat ∧
    (queued (entryAt 0)).dispensable 16 = true ∧ ((queued (entryAt 0)).queue 16).type = 0 := by
  refine ⟨⟨_, rfl, rfl⟩, ⟨_, rfl, rfl⟩, ⟨_, rfl, rfl⟩, ?_, ⟨_, rfl⟩, rfl, rfl, ?_, ?_, ?_, ?_, rfl⟩ <;> decide

/-- A well-formed head launch, a malformed one, one that an LKILL marked; one whose await of counter 0 for 0 is satisfied. -/
theorem witness_HostsAndQueues_launches :
    (queued fun s => withImage (entryAt 0 s)).launchBad 16 lrec = none ∧
    (queued (entryAt 0)).launchBad 16 (1#512 <<< 500) = some .illegal ∧
    (16 * 2 ^ 48 ∈ (queued fun s => { s with marks := [(0, [16 * 2 ^ 48])] }).marks.get [] (16 / 16384)) ∧
    lrNawait (lrec ||| 1#512 <<< 121) = 1 ∧ (lrAwait (lrec ||| 1#512 <<< 121) 0).2 ≤ (queued id).load (18 * 65536) 8 ∧
    ((queued id).translate ((queued id).hemIssuer 0 0) .counter true false none (lrCpage lrec * 2 ^ 16)).toOption.isSome = true := by
  refine ⟨?_, ?_, ?_, ?_, ?_, ?_⟩ <;> decide

/-- The head launch taken up; its image, of domain 0 at page 1, resident on core 0. -/
def schedulable : State := queued (fun s => { withImage (entryAt 0 s) with launches := [launch0 false lrec] } |>.onCore 0 fun k =>
    { k with store := [{ image1 1 with page := 1, regions := [⟨[0], [1]⟩], pages := [1], nfrm := 1 }], slots := [], chans := [] }) { ringQ 0 with headSeen := true }

theorem witness_PlacementEvents : schedulable.decision = none ∧ (schedulable.chooseQueue []).any (fun e =>
      e.2 == 16 && (e.1.headLaunch 16).any fun l => match e.1.tryPlace l { Decision.fresh [] [] with launch := l.id } with
        | .placed d => d.held.length == 1 && d.held.all fun x => (e.1.core x.1).basesOk l x.2 &&
            ((e.1.core x.1).imageOf 0 1).any fun im => !im.poisoned && listsFit im l.record
        | _ => false) = true ∧ (w.decision = none ∧ (w.chooseQueue []).isNone = true) := by
  refine ⟨rfl, ?_, rfl, rfl⟩
  decide

theorem witness_PlacementEvents_gangs : let s := hem fun s => { s with gangs := [gangOne], launches := [{ launch0 true lrec with next := 1 }] }
    s.gangs.find? (fun x => x.id == gangOne.id) = some gangOne ∧ gangOne.job = none ∧ (∀ m ∈ gangOne.members, (s.core m).gangOver gangOne.id = true) ∧
    (s.launches.find? (fun x => x.id == gangOne.id.launch)).isSome = true ∧
    (s.translate (s.hemIssuer 0 0) .counter true true none (lrCpage lrec * 2 ^ 16)).toOption.isSome = true ∧
    ((s.removeGang gangOne.id).translate ((s.removeGang gangOne.id).hemIssuer 0 0) .counter true true none (lrCpage lrec * 2 ^ 16)).toOption.isSome = true := by
  refine ⟨rfl, rfl, ?_, rfl, ?_, ?_⟩ <;> decide

/-- The image of the launch is wanted on core 0; with a store that holds only an image in use; with all that it needs read. -/
def wanted : State := queued fun s => { withImage s with launches := [launch0 false lrec] }
def wantedFull : State := wanted.onCore 0 fun k =>
  { k with regions := [(0, { reg1 .running with page := 9 })], store := [{ image1 1 with page := 9, nfrm := 8192 }] }
def fetching (n : Nat) : State := (List.range n).foldl (fun s _ => served (then_ (.imageFetchDone ⟨0, 0, 1⟩) s)) wanted
def fetchAll : State := fetching 7

/-- Whether the fetch of that image has been begun. -/
def fetchAsked (s : State) : Bool := (s.core 0).fetches.any fun x => x.dom == 0 && x.page == 1

theorem witness_PlacementEvents_fetches : (let v := wanted.onCore 0 fun k => k.dropPoisoned 0 1;
      (v.core 0).domain.toNat = 0 ∧ (v.core 0).imageOf 0 1 = none ∧ v.imageWanted 0 0 1 = true ∧ fetchAsked v = false ∧
      ((v.core 0).makeRoom (v.imageFrames 0 1)).isSome = true) ∧
    (let v := wantedFull.onCore 0 fun k => k.dropPoisoned 0 1;
      (v.core 0).imageOf 0 1 = none ∧ fetchAsked v = false ∧ ((v.core 0).makeRoom (v.imageFrames 0 1)).isNone = true) := by
  refine ⟨⟨rfl, by decide, by decide, by decide, ?_⟩, by decide, by decide, ?_⟩ <;> decide +kernel

theorem witness_PlacementEvents_fetched : (let v := fetchAll.onCore 0 fun k => k.dropPoisoned 0 1;
      (v.core 0).imageOf 0 1 = none ∧ v.imageWanted 0 0 1 = true ∧ fetchAsked v = true ∧
      (match v.fetchImage 0 0 1 with | .done im => (((v.core 0).endFetch 0 0 1).makeRoom im.nfrm).isSome | _ => false) = true) := by
  refine ⟨?_, ?_, ?_, ?_⟩ <;> decide +kernel

/-- Slot 0's page buffered as CODE. -/
def coded : State := { w with tlb := [⟨0, 0, 0, pte 17 0x1E 0⟩] }

theorem witness_PlacementEvents_lines : ((coded.core 0).slot 0).status = .occupied ∧ (coded.core 0).fetchWord ((coded.core 0).slot 0).pc = none ∧
    coded.frozen ((coded.core 0).slot 0).gang = false ∧
    (coded.fetchSpan 0 0).toOption.any (fun x => ((coded.core 0).asked (coded.fetcher 0 0).port x).isNone &&
      (coded.core 0).permitted 0 ((coded.fetcher 0 0).req .fetch x.target).dest) = true ∧
    (let s := served (then_ (.ifetchLine ⟨0, 0⟩) coded);
      (s.fetchSpan 0 0).toOption.any (fun x => (((s.core 0).asked (s.fetcher 0 0).port x).bind fun r => r.reply?).any fun p =>
        p.error.isNone && p.marred.isEmpty) && ((s.core 0).fetchWord ((s.core 0).slot 0).pc).isNone) = true ∧
    ((steering { reg1 .held with moving := true, target := 2 }).core 0).regions.find? 0 = some { reg1 .held with moving := true, target := 2 } := by
  refine ⟨rfl, rfl, rfl, ?_, ?_, rfl⟩ <;> decide

/-- Tables of three levels in pages 32, 33 and 34. -/
def tables3 : State :=
  let s : State := { State.reset with cores := [(0, { core0 with ptbase := 32 * 65536 + 1 })] }
  ((s.storeBytes (32 * 65536) (leBytes 16 (1 + 33 * 2 ^ 16))).storeBytes (33 * 65536) (leBytes 16 (1 + 34 * 2 ^ 16))).storeBytes
    (34 * 65536) (leBytes 16 (pte 16 0 0).toNat)

/-- A walk in flight for slot 0 of core 0, of page 0, which the tables map, or of page 1, which they do not. -/
def walkFor (page : Nat) : TableWalk := ⟨0, 0, page, 32 * 65536 + 1, [.slot 0 0 0], none⟩
def walking (page : Nat) : State := { tables3 with walks := [walkFor page] }

theorem witness_PlacementEvents_walk : (walking 0).walks.find? (fun w => w.inFlight (dieOf 0) ((walking 0).core 0).domain.toNat (0 / 2 ^ 16)) = some (walkFor 0) ∧
    ((walking 0).walk (walkFor 0).ptbase ((walkFor 0).page * 2 ^ 16)).isOk = true ∧
    (walking 1).walks.find? (fun w => w.inFlight (dieOf 0) ((walking 1).core 0).domain.toNat (65536 / 2 ^ 16)) = some (walkFor 1) ∧
    (walkFor 1).ports ≠ [] ∧ ((walking 1).walk (walkFor 1).ptbase ((walkFor 1).page * 2 ^ 16)).isOk = false := by
  refine ⟨rfl, ?_, rfl, by decide, ?_⟩ <;> decide

/-! ### Mesh, clock, cloak, management -/

theorem witness_ArbiterIsFair : ([3] : List Nat) ≠ [] ∧ (∀ k ∈ ([3] : List Nat), k < 20) ∧ (chooseQueueAt OutPort.reset [3] fun _ => false).isSome = true ∧
    (chooseQueueAt OutPort.reset [3, 4] fun k => k == 4).any (fun e => e.1 == 4) = true := by decide

/-- Core 0's request 7, and its packet in input queue 16 of router 0 with these destination and flits. -/
def carried (op : ReqOp) (ph : ReqPhase) (p : Packet) : State :=
  (pending op (tgt 8) ph).onCore 0 fun k => { k with router := { k.router with queues := [(16, [p])] } }

def eastward : Packet := ⟨0, 7, false, 3, 0, 1, 0⟩
def arriving0 : Packet := ⟨0, 7, false, 0, 0, 1, 0⟩
def answering : Packet := ⟨0, 7, true, 0, 0, 1, 0⟩
def data0 : Reply := (Reply.of [(30, 9)])

theorem witness_RouterRounds : (∀ k < 20, w.candidate 0 0 k = false) ∧ ((w.core 0).router.outs.get OutPort.reset 0).busy = 0 ∧
    Wins (carried (.load 30 false) .sent eastward) 0 .east 16 eastward (req 7 (.load 30 false) (tgt 8) .sent) ∧ eastward.x ≠ coreX 0 ∧
    neighbour 0 2 = some (1, 3) ∧
    (∃ out, Wins (carried (.load 30 false) .sent arriving0) 0 out 16 arriving0 (req 7 (.load 30 false) (tgt 8) .sent)) ∧
    Wins (carried (.load 30 false) (.done data0) answering) 0 .here 16 answering (req 7 (.load 30 false) (tgt 8) (.done data0)) ∧
    Wins (carried (.load 30 false) .sent { eastward with flits := 3 }) 0 .east 16 { eastward with flits := 3 } (req 7 (.load 30 false) (tgt 8) .sent) := by
  refine ⟨by decide, rfl, ⟨rfl, rfl, rfl, by decide, rfl, ⟨_, rfl⟩⟩, by decide, by decide, ?_, ⟨rfl, rfl, rfl, by decide, rfl, ⟨_, rfl⟩⟩,
    ⟨rfl, rfl, rfl, by decide, rfl, ⟨_, rfl⟩⟩⟩
  exact ⟨.here, rfl, rfl, rfl, by decide, rfl, ⟨_, rfl⟩⟩

theorem witness_RouterRounds_homes : (∃ out r, Wins ((carried (.load 30 false) .sent arriving0).onCore 0 fun k => { k with reqs := [req 7 (.load 30 false) (tgt 8) .sent] }) 0 out 16 arriving0 r ∧ ∃ n, r.dest = .stack n) ∧
    (∃ out r n, Wins ((carried (.load 30 false) .sent arriving0).onCore 0 fun k => { k with
      reqs := [req 7 (.load 30 false) ⟨.mem (5 * 2 ^ 48), 0x20000, 8, 0, 8, none⟩ .sent] }) 0 out 16 arriving0 r ∧ r.dest = .node n) := by
  refine ⟨⟨.here, _, ⟨rfl, rfl, rfl, by decide, rfl, ⟨_, rfl⟩⟩, ⟨_, rfl⟩⟩, ⟨.west, _, 5, ⟨rfl, rfl, rfl, by decide, rfl, ⟨_, rfl⟩⟩, by decide⟩⟩

theorem witness_DrainMovesPackets : ({ w with stitch := 256 } : State).stitch.toNat % 256 = 0 ∧ ({ w with stitch := 256 } : State).drains ≠ 256 ∧
    ({ w with stitch := 255 } : State).stitch.toNat % 256 ≠ 0 ∧ eastward ∈ queueAt (carried (.load 30 false) .sent eastward) 0 16 ∧
    ({ w with stitch := 256, drains := 256 } : State).drains = ({ w with stitch := 256 } : State).stitch.toNat := by
  refine ⟨by decide, by decide, by decide, .head _, by decide⟩

/-- A request of an age, the core's limit being 100 ticks. -/
def aged (op : ReqOp) (n : Nat) (prog : Prog := .idle) : State :=
  (pending op (tgt 8) .sent prog).onCore 0 fun k => { k with memto := 100, reqs := [{ req 7 op (tgt 8) .sent with age := n }] }

/-- A request to core 1, of domain 3. -/
def foreign (op : ReqOp) : State :=
  (pending op ⟨.mem (2 ^ 47 + 2 ^ 24), 0x20000, 8, 0, 8, none⟩ .sent).onCore 1 fun k => { k with domain := 3 }

theorem witness_RequestsThatFail : ((aged (.load 30 false) 100).core 0).memto ≠ 0 ∧ ((aged (.load 30 false) 100).core 0).memto.toNat ≤ 100 ∧
    99 < ((aged (.load 30 false) 99).core 0).memto.toNat ∧ (((aged (.load 30 false) 100).core 0).req? 7).isSome = true ∧
    (((aged (.load 30 false) 100).core 0).slot 0).awaits 7 = false ∧ (((aged (.load 30 false) 100).core 0).slot 0).spec = none ∧
    (req 7 (.load 30 false) (tgt 8) .sent).live = true ∧ (req 7 (.load 30 false) (tgt 8) .sent).unperformed = true ∧
    ({ req 7 .fetch (tgt 8) .sent with unit := some (.command 0 1), age := 100 } : Req).unit = some (.command 0 1) ∧ (((aged .barv 100 (.awaiting 7)).core 0).slot 0).awaits 7 = true ∧
    ((((foreign (.load 30 false)).core 0).req? 7).bind ((foreign (.load 30 false)).refused 0)).isSome = true ∧
    ((((foreign (.store [1])).core 0).req? 7).bind ((foreign (.store [1])).refused 0)).isSome = true ∧ ((foreign (.store [1])).core 0).freeFrec = some 0 ∧
    ((foreign (.store [1])).core 0).heldReports = [] ∧ (((foreign (.store [1])).core 0).chan 63).valid = true ∧
    ((((aged (.load 30 false) 100).core 0).req? 7).bind ((aged (.load 30 false) 100).refused 0)) = none ∧
    ({ req 7 (.load 30 false) (tgt 8) .sent with remote := some 3, resend := 5000 }).remote.isSome = true ∧ w.resendLimit ≤ 5000 := by
  refine ⟨by decide, by decide, by decide, rfl, rfl, rfl, rfl, rfl, rfl, rfl, by decide, by decide, rfl, rfl, rfl, by decide, rfl, by decide⟩

def levelled : State :=
  { onCore0 (fun k => { k with gangs := [(gang1, default)] }) with gangs := [{ (default : Gang) with id := gang1, members := [0], change := some (1, 5), floor := 3 }] }

theorem witness_StitchHeartbeat : ((w.core 0).chan 6).valid = true ∧ ({ w with power := .hold 3 false } : State).power = .hold 3 false ∧
    (levelled.gangs.filter fun x => x.id == gang1).length = 1 ∧ ((levelled.core 0).gangInfo? gang1).isSome = true ∧
    (1 : Word).toNat ≤ (levelled.stitch + 1).toNat ∧ (steering { reg1 .running with moved := true }).frozen (some gang1) = false ∧
    ((steering { reg1 .running with moved := true }).core 0).clasped 0 = false ∧ (reg1 .running).moving = false ∧
    ({ (default : Cont) with left := some 9 } : Cont).left = some 9 := by
  refine ⟨rfl, rfl, rfl, rfl, ?_, ?_, ?_, rfl, rfl⟩ <;> decide

theorem witness_TimersFire : ((w.core 0).chan 6).valid = true ∧ ((w.core 0).chan 6).src = 4 ∧ 0 < ((w.core 0).chan 6).param.toNat % 2 ^ 32 ∧
    0 < ((w.core 0).chan 6).timerLeft ∧ ((w.core 0).chan 6).timerLeft ≤ ((w.core 0).chan 6).param.toNat % 2 ^ 32 := by decide

theorem witness_RatesPerStitch : ({ w with stitch := 1 } : State).stitch.toNat ≠ ((w.core 0).refilled) ∧ ({ w with stitch := 1 } : State).stitch.toNat ≠ ((w.core 0).reloaded) ∧
    ((steering (reg1 .running)).core 0).regions.find? 0 = some (reg1 .running) := by
  refine ⟨by decide, by decide, rfl⟩

theorem witness_ThrottlesAndGates : (levelled.gangs.find? (fun x => x.id == gang1)).isSome = true ∧ .matrix ∉ (w.core 0).gated ∧ w.isIdle 0 .matrix = true ∧
    65 ≤ ((onCore0 fun k => { k with idle := [(gateKey .matrix, 65)] }).core 0).idle.get 0 (gateKey .matrix) ∧
    ((onCore0 fun k => { k with idle := [(gateKey .matrix, 64)] }).core 0).idle.get 0 (gateKey .matrix) < 65 ∧ ((onCore0 fun k => { k with sgate := true }).core 0).sgate = true ∧ (w.core 0).regions = [] ∧
    (onCore0 fun k => { k with sgate := true }).sliceBusy 0 = false ∧ ((steering { reg1 .running with watch := 10000 }).core 0).wdog.toNat ≤ 10000 ∧
    ((steering (reg1 .running)).core 0).wdog ≠ 0 ∧ 9999 < ((steering (reg1 .running)).core 0).wdog.toNat ∧
    ((steering (reg1 .running)).core 0).freeFrec = some 0 ∧ (((steering (reg1 .running)).core 0).chan 63).valid = true := by
  refine ⟨rfl, ?_, ?_, ?_, ?_, rfl, rfl, ?_, ?_, ?_, ?_, ?_, rfl⟩ <;> decide

/-! ### Saved gangs -/

/-- A save area of one member at VA 0x1000000, and a gang of core 1 in it, with a job or none. The saver runs on core 0, in no gang. -/
def gangB (job : Option SaveJob) : Gang := { (default : Gang) with id := ⟨2, 0⟩, members := [1], job := job }
def area (f : State → State) (job : Option SaveJob := none) : State :=
  f (({ (onSlot fun x => { x with priv := true }) with
      tlb := (List.range (areaPages 1)).map (fun n => ⟨0, 0, 0x100 + n, pte (0x1000 + n) 0x1F 0⟩)
      gangs := [gangB job], launches := [{ (default : Launch) with id := 2 }] }).onCore 1 fun k =>
    { k with gangs := [(⟨2, 0⟩, default)], slots := [(0, { slot0 with gang := some ⟨2, 0⟩ })] })

def job1 : SaveJob := ⟨0, 0x1000000, 0x1000 * 65536, 0, 0⟩
def regA (v : Word) (f : State → State) (job : Option SaveJob := none) : State := area (fun s => f (s.setCurSlot (s.curSlot.write 20 v))) job

/-- gA names launch 2, gB instance 0, gC the area. -/
theorem witness_SaveResults : let s := regA 0x1000000 id
    let o : OpsDABC := ⟨g0, 21, 2, 0, 20, false, false, false⟩
    SavesArea s o 2 0 0x1000000 ∧ SavesArea (regA 0x1000008 id) o 2 0 0x1000008 ∧ SavesArea (regA 0x1000000 id (some job1)) o 2 0 0x1000000 ∧
    s.gangs.find? (fun g => g.id == ⟨2, 0⟩ && g.dom == 0) = some (gangB none) ∧ s.curSlot.gang = none ∧
    s.areaKey s.cloakIssuer 0x1000000 = .ok (0x1000 * 65536) ∧
    ((gangB none).members.zipIdx.all fun e => (s.pageList s.cloakIssuer (0x1000000 + memberOff e.2) e.1 0).isSome) = true := by
  refine ⟨⟨rfl, rfl, rfl, rfl, rfl, rfl, rfl⟩, ⟨rfl, rfl, rfl, rfl, rfl, rfl, rfl⟩, ⟨rfl, rfl, rfl, rfl, rfl, rfl, rfl⟩, rfl, rfl, ?_, ?_⟩ <;> decide

theorem witness_SaveResults_area : (regA 0x1000000 id).areaCheck (regA 0x1000000 id).cloakIssuer 0x1000000 1 = .ok () ∧
    (∃ e, w.areaCheck w.cloakIssuer 0x1000000 1 = .error e) := by
  refine ⟨?_, ⟨_, rfl⟩⟩
  decide

theorem witness_SealsLogs : (area id (some job1)).gangs.find? (fun g => g.id == (gangB (some job1)).id) = some (gangB (some job1)) ∧
    (area id (some job1)).sealable (gangB (some job1)) = true ∧
    ((area id (some job1)).onCore 1 fun k => { k with reqs := [{ req 7 (.store [1]) (tgt 1) .sent with gang := some ⟨2, 0⟩ }] }).sealable (gangB (some job1)) = false ∧
    (((area id (some job1)).core 1).gangInfo? ⟨2, 0⟩).isSome = true ∧ 0 < (gangB none).members.length ∧ job1.why < 4 := by
  refine ⟨rfl, ?_, ?_, rfl, ?_, ?_⟩ <;> decide

/-- The area holds a sealed header of gang 2; the gang is saved and not resident. -/
def sealed : State := regA 0x1000000 (fun s =>
  { (s.storeBytes (0x1000 * 65536) (leBytes 64 (1 + 2 * 2 ^ 192))) with
    gangs := [], saves := [⟨gangB none, 0, 0x1000 * 65536, 0x1000000, [], 0⟩] })

theorem witness_RestoreResults : Passes g0 sealed ∧ Holds sealed 20 0x1000000 ∧ sealed.curSlot.priv = true ∧ sealed.curSlot.spec = none ∧ Free sealed 21 ∧
    sealed.areaKey sealed.cloakIssuer 0x1000000 = .ok (0x1000 * 65536) ∧ sealed.load (0x1000 * 65536) 64 % 2 = 1 ∧
    bits (sealed.load (0x1000 * 65536) 64) 143 140 = sealed.curCore.domain.toNat ∧ (∃ l ∈ sealed.launches, l.id = bits (sealed.load (0x1000 * 65536) 64) 255 192) ∧
    (match sealed.restoreArea sealed.cloakIssuer 0x1000000 with
      | .resumed _ => true
      | _ => false) = true ∧ (regA 0x1000000 id).load (0x1000 * 65536) 64 % 2 = 0 := by
  refine ⟨rfl, rfl, rfl, rfl, rfl, ?_, ?_, ?_, ⟨{ (default : Launch) with id := 2 }, .head _, ?_⟩, ?_, ?_⟩ <;> decide

/-- Cells of bytes from a key up, the zero ones listed too. -/
def cells : Nat → List Byte → List Host.Cell
  | _, [] => []
  | a, b :: bs => (a, b) :: cells (a + 1) bs

theorem mem_cells {bs : List Byte} {a : Nat} {e : Host.Cell} (h : e ∈ cells a bs) : a ≤ e.1 ∧ e.1 < a + bs.length := by
  induction bs generalizing a with
  | nil => cases h
  | cons b bs ih =>
    rcases List.mem_cons.mp h with rfl | h
    · simp
    · have := ih h
      simp only [List.length_cons]
      omega

theorem takeBlock_cells (bs : List Byte) (a : Nat) (rest : List Host.Cell) : takeBlock a bs.length (cells a bs ++ rest) = bs := by
  induction bs generalizing a with
  | nil => cases rest <;> rfl
  | cons b bs ih =>
    simp only [cells, List.cons_append, List.length_cons, takeBlock, if_true]
    rw [ih]

/-- The cloak's own bytes of member slot 0 whose first byte has key `k`. -/
def ownCells (k seed : Nat) (ps : List (Nat × Nat)) : List Host.Cell := ps.flatMap fun e => cells (k + e.1) (privateBytes seed 0 e)

theorem privateBytes_length (seed m : Nat) (e : Nat × Nat) : (privateBytes seed m e).length = e.2 := by simp [privateBytes]

/-- They are read back. -/
theorem readBlock_ownCells (k seed : Nat) (ps : List (Nat × Nat)) (pre : List Host.Cell) (hp : ps.Pairwise fun a b => a.1 + a.2 ≤ b.1)
    (hpre : ∀ x ∈ pre, ∀ e ∈ ps, x.1 < k + e.1) : ∀ e ∈ ps, readBlock (pre ++ ownCells k seed ps) (k + e.1) e.2 = privateBytes seed 0 e := by
  induction ps generalizing pre with
  | nil => intro e h; cases h
  | cons p ps ih =>
    have hlt := List.pairwise_cons.mp hp
    have e0 : pre ++ ownCells k seed (p :: ps) = (pre ++ cells (k + p.1) (privateBytes seed 0 p)) ++ ownCells k seed ps := by
      simp [ownCells]
    intro e he
    rcases List.mem_cons.mp he with rfl | he
    · have h1 : pre.filter (fun x => decide (k + e.1 ≤ x.1)) = [] :=
        List.filter_eq_nil_iff.mpr fun x hx => by have := hpre x hx e (List.mem_cons_self ..); simp; omega
      have h2 : (cells (k + e.1) (privateBytes seed 0 e)).filter (fun x => decide (k + e.1 ≤ x.1)) = cells (k + e.1) (privateBytes seed 0 e) :=
        List.filter_eq_self.mpr fun x hx => by simpa using (mem_cells hx).1
      unfold readBlock
      rw [e0, List.filter_append, List.filter_append, h1, h2, List.nil_append]
      have := takeBlock_cells (privateBytes seed 0 e) (k + e.1) ((ownCells k seed ps).filter fun x => decide (k + e.1 ≤ x.1))
      rwa [privateBytes_length] at this
    · rw [e0]
      refine ih _ hlt.2 (fun x hx f hf => ?_) e he
      rcases List.mem_append.mp hx with hx | hx
      · exact hpre x hx f (List.mem_cons_of_mem _ hf)
      · have h1 := (mem_cells hx).2
        have h2 := hlt.1 f hf
        rw [privateBytes_length] at h1
        omega

/-- The same with the member's header and list in the area, saved for `why`; the list's one entry, if any, is page 5 of core 1's slice by its PTE at
0x20000. -/
def listed (why header entry : Nat) (pages : List Nat) : State :=
  { sealed with
    tlb := sealed.tlb ++ [⟨0, 0, 2, pte 18 0 0⟩]
    mem := cells (18 * 65536) (leBytes 16 (pte (2 ^ 31 + 256 + 5) 0 0).toNat) ++ (cells (0x1000 * 65536) (leBytes 64 (1 + 2 * 2 ^ 192)) ++
      (cells (0x1001 * 65536) (leBytes 16 header) ++ (cells (0x1001 * 65536 + 0x800) (leBytes 8 entry) ++ ownCells (0x1001 * 65536) 0 privateParts)))
    saves := [⟨gangB none, why, 0x1000 * 65536, 0x1000000, [{ (default : MemberSave) with core := 1, pages := pages }], 0⟩] }

theorem listed_intact {s : State} (why header entry : Nat) (pages : List Nat) (hs : s.mem = (listed why header entry pages).mem)
    (keys : ∀ e ∈ privateParts, s.areaKey sealed.cloakIssuer (0x1010000 + e.1) = .ok (0x1001 * 65536 + e.1)) :
    s.slotIntact sealed.cloakIssuer 0x1010000 0 0 = true := by
  refine List.all_eq_true.mpr fun e he => ?_
  have hp : privateParts.Pairwise fun a b => a.1 + a.2 ≤ b.1 := by decide
  have h0 : ∀ e ∈ privateParts, 0x1000 ≤ e.1 := by decide
  rw [keys e he]
  have := readBlock_ownCells (0x1001 * 65536) 0 privateParts
    (cells (18 * 65536) (leBytes 16 (pte (2 ^ 31 + 256 + 5) 0 0).toNat) ++ (cells (0x1000 * 65536) (leBytes 64 (1 + 2 * 2 ^ 192)) ++
      (cells (0x1001 * 65536) (leBytes 16 header) ++ cells (0x1001 * 65536 + 0x800) (leBytes 8 entry)))) hp (fun x hx f hf => by
        have h1 := h0 f hf
        simp only [List.mem_append] at hx
        rcases hx with hx | hx | hx | hx <;> have h2 := (mem_cells hx).2 <;> rw [leBytes_length] at h2 <;> omega) e he
  simp only [List.append_assoc] at this
  simp only [hs, listed, this, beq_self_eq_true]

def outcome : Restored → Nat
  | .trapped _ => 9
  | .status n => n
  | .waits => 8
  | .resumed _ => 0

/-- Saved by the scheduler, with another core named as the target; saved by SAVE, with an access to the page that moves still to be performed. -/
def retargeted : State := listed 1 (2 ^ 62 + 2 ^ 72) 0 []
def moving_ : State := (listed 0 (2 ^ 32 + 2 ^ 62 + 0x1FF * 2 ^ 71) 0x20000 [5]).onCore 0 fun k =>
  { k with reqs := [req 7 (.store [1]) ⟨.mem (2 ^ 47 + 2 ^ 24 + 5 * 2 ^ 16), 0x20000, 1, 0, 1, none⟩ .sent] }

/-- A member slot that is as it was saved. -/
theorem memberList_eq {s : State} {i : Issuer} {v : Saved} {m : MemberSave} {rank h : Nat} {list : List Listed}
    (h1 : s.areaLoad i (v.va + memberOff rank) 16 = some h) (h2 : s.pageList i (v.va + memberOff rank) m.core v.gang.dom = some list)
    (h3 : bits h 70 62 = m.core) (h4 : savedPages list = m.pages) (h5 : s.slotIntact i (v.va + memberOff rank) rank v.seed = true)
    (h6 : (m.pages.all fun p => (s.areaKey i (savedPageVa (v.va + memberOff rank) (p / 256))).toOption.isSome) = true) :
    s.memberList i v m rank = some list := by
  unfold State.memberList
  simp only [h1, h2]
  rw [if_pos ⟨h3, h4, h5, h6⟩]

/-- What a RESTORE of an area of one member comes to, once its list is read. -/
theorem restoreArea_one {s : State} {i : Issuer} {va key : Nat} {v : Saved} {m : MemberSave} {l : List Listed}
    (hk : s.areaKey i va = .ok key) (hh : ¬ (s.load key 64 % 2 = 0 ∨ bits (s.load key 64) 143 140 ≠ i.dom))
    (hl : (!s.launches.any fun l => l.id == bits (s.load key 64) 255 192) = false)
    (hv : s.saves.find? (fun v => v.key == key && v.gang.id == ⟨bits (s.load key 64) 255 192, bits (s.load key 64) 191 168⟩ && v.gang.dom == i.dom) = some v)
    (hm : v.members = [m]) (hlist : s.memberList i { v with va := va } m 0 = some l) (hc : s.targetCore i (va + memberOff 0) m < Config.numCores) :
    (v.why ≠ 0 → s.namesTarget i (va + memberOff 0) = true → outcome (s.restoreArea i va) = 2) ∧
    (∀ d, v.why = 0 → s.land v.gang.dom m (s.targetCore i (va + memberOff 0) m) l = some d → s.pageBusy m l = true →
      outcome (s.restoreArea i va) = 8) := by
  simp only [hm] at hlist
  have hc : ¬ Config.numCores ≤ s.targetCore i (va + memberOff 0) m := by omega
  refine ⟨fun hw hn => ?_, fun d hw hd hb => ?_⟩ <;> unfold State.restoreArea <;>
    simp only [hk, hh, hl, hv, hm, hlist, if_false, List.zipIdx_cons, List.zipIdx_nil, List.mapM_cons, List.mapM_nil, Option.map_some,
      Option.bind_eq_bind, Option.bind_some, Option.pure_def, Bool.false_eq_true]
  · simp [hc, hw, hn, outcome]
  · simp [hc, hw, hd, hb, outcome]

/-- A save of the scheduler's that another core is to take; an access to the page that moves. -/
theorem witness_RestoreResults_refused : (∀ l ∈ ({ sealed with launches := [] } : State).launches, l.id ≠ 2) ∧
    (∀ v ∈ ({ sealed with saves := [] } : State).saves, v.key ≠ 0x1000 * 65536) ∧
    outcome (retargeted.restoreArea sealed.cloakIssuer 0x1000000) = 2 ∧
    outcome (moving_.restoreArea sealed.cloakIssuer 0x1000000) = 8 ∧
    (∀ v ∈ sealed.saves, ∀ m ∈ v.members, m.frecs = [] ∧ m.posts = []) := by
  refine ⟨fun l h => (nomatch h), fun v h => (nomatch h), ?_, ?_, ?_⟩
  · refine (restoreArea_one (key := 0x1000 * 65536) (v := retargeted.saves.headD default) (m := { (default : MemberSave) with core := 1 })
      (l := []) (by decide +kernel) (by decide +kernel) (by decide +kernel) (by decide +kernel) rfl
      (memberList_eq (h := 2 ^ 62 + 2 ^ 72) (by decide +kernel) (by decide +kernel) (by decide) (by decide)
        (listed_intact 1 (2 ^ 62 + 2 ^ 72) 0 [] rfl (by decide +kernel)) (by decide)) (by decide +kernel)).1 (by decide) (by decide +kernel)
  · refine (restoreArea_one (key := 0x1000 * 65536) (v := moving_.saves.headD default) (m := { (default : MemberSave) with core := 1, pages := [5] })
      (l := [.sliced (18 * 65536) 5]) (by decide +kernel) (by decide +kernel) (by decide +kernel) (by decide +kernel) (by decide +kernel)
      (memberList_eq (h := 2 ^ 32 + 2 ^ 62 + 0x1FF * 2 ^ 71) (by decide +kernel) (by decide +kernel) (by decide) (by decide)
        (listed_intact 0 (2 ^ 32 + 2 ^ 62 + 0x1FF * 2 ^ 71) 0x20000 [5] (by unfold moving_; rfl) (by decide +kernel)) (by decide +kernel)) (by decide +kernel)).2
      ((moving_.land 0 { (default : MemberSave) with core := 1, pages := [5] } 1 [.sliced (18 * 65536) 5]).getD ⟨0, 0, [], [], [], [], [], 0, 0, 0, []⟩) (by decide +kernel)
      (by decide +kernel) (by decide +kernel)
  · decide +kernel

/-- Gang 2, placed at stitch 0; pre-emption enabled with a slice of 4 stitches and a pool of the one area. -/
def pooled : State := area fun s => { s with
  stitch := 9, tables := [(0, 1)], slicing := [(0, ⟨true, 4, [0x1000000]⟩)]
  tlb := (List.range (areaPages 1)).map (fun n => ⟨16, 0, 0x100 + n, pte (0x1000 + n) 0x1F 0⟩) }

theorem witness_Preemption : pooled.gangs.find? (fun g => g.id == ⟨2, 0⟩) = some (gangB none) ∧ (gangB none).job = none ∧ (pooled.freeArea 0 1).isSome = true ∧
    (w.freeArea 0 1).isNone = true ∧ (pooled.slices 0).enabled = true ∧ pooled.preemptible 1 (gangB none) = true ∧
    ({ w with power := .hold 2000000 false } : State).power = .hold 2000000 false ∧ schedulable.eligibleQueue 16 = true ∧ (schedulable.headLaunch 16).isSome = true := by
  refine ⟨rfl, rfl, ?_, ?_, rfl, ?_, rfl, ?_, ?_⟩ <;> decide

/-! ### Management -/

theorem witness_LinksAndNodes : (3 : Nat) ∈ ({ w with retraining := [3] } : State).retraining ∧ (3 : Nat) < 26 ∧ (26 : Nat) ∈ ({ w with retraining := [26] } : State).retraining ∧
    (5 : Nat) ∈ ({ w with unreachable := [5] } : State).unreachable ∧ (5 : Nat) ∉ w.unreachable ∧ (w.cores.map fun e => e.1).Nodup ∧ core0.freeFrec = some 0 ∧ core0.heldReports = [] ∧
    (core0.chan 63).valid = true ∧ ({ req 7 (.load 30 false) ⟨.mem (5 * 2 ^ 48), 0x20000, 8, 0, 8, none⟩ .sent with slot := 0 } : Req).dest = .node 5 := by
  refine ⟨.head _, by decide, .head _, .head _, by decide, by decide, rfl, rfl, rfl, by decide⟩

/-- An active frame that can be poisoned, and a tile with a check copy. -/
theorem witness_ScrubPoisons : let k := (steering (rolling [0, 1])).core 0
    k.regions.find? 0 = some (rolling [0, 1]) ∧ (rolling [0, 1]).base ≤ 0 ∧ 0 < (rolling [0, 1]).base + (rolling [0, 1]).len ∧
    ((rolling [0, 1]).active.find? 0).any (fun b => 0 < b.frames.length) = true ∧
    (((onCore0 fun k => { k with tiles := [(2, { Tile.zero with check := some [] })] }).core 0).tile 2).check.isSome = true := by
  refine ⟨rfl, by decide, by decide, by decide, rfl⟩

theorem witness_SupplyEvents : ({ w with power := .on } : State).power = .on ∧ ({ w with power := .hold 7 true } : State).power = .hold 7 true := ⟨rfl, rfl⟩

theorem witness_PowerAndHeat : ({ w with over10 := 8, over12 := 0 } : State).over10 + 1 < 10 ∧ 10 ≤ ({ w with over10 := 9 } : State).over10 + 1 ∧
    2 ≤ ({ w with over12 := 1 } : State).over12 + 1 ∧ (10000 : Nat) < 12000 ∧ (w.thermal.get ⟨0, none⟩ 3).since = none ∧
    (({ w with thermal := [(3, ⟨7, some 0⟩)], tick := 19999 } : State).tick - 0).toNat < 20000 ∧ (500 : Nat) % 5 = 0 ∧ (503 : Nat) % 5 ≠ 0 := by
  refine ⟨by decide, by decide, by decide, by decide, rfl, by decide, by decide, by decide⟩

/-- Two domains, of cores 0 and 1. -/
def plan : BringUp := { (default : BringUp) with
  domains := [{ (default : DomainPlan) with dom := 0, cores := [0] }, { (default : DomainPlan) with dom := 3, cores := [1] }]
  handlers := [(0, { (default : HandlerBind) with entry62 := 0x1000, entry63 := 0x2000 })] }

theorem witness_ColdResetResults : w.shockSinceTest = false ∧ (bootImage plan = none ∨ ∃ image, bootImage plan = some image) ∧
    (plan.domains.find? (fun d => d.cores.contains 1)).isSome = true ∧ (plan.handlers.find? 0).isSome = true ∧
    (∀ d ∈ plan.domains, ∀ e ∈ plan.domains, e.dom = d.dom → e = d) := by
  refine ⟨rfl, ?_, rfl, rfl, ?_⟩
  · cases h : bootImage plan with
    | none => exact .inl rfl
    | some image => exact .inr ⟨image, rfl⟩
  · decide

theorem witness_ResetsAndTakeover : w.h1 = false ∧ w.stitch.toNat < 80 / 8 + 1 ∧ 80 / 8 + 1 < 2 ^ 61 ∧ w.tick.toNat ≤ 8 * (80 / 8 + 1) ∧ (51 : Nat) > 50 ∧ (50 : Nat) ≤ 50 ∧
    levelled.gangs.length = 1 ∧ levelled.saves = [] := by
  refine ⟨rfl, by decide, by decide, by decide, by decide, by decide, rfl, rfl⟩

/-! ### Digests and signatures (R35) -/

/-- FIPS 202: SHAKE256 of the empty message begins so. -/
theorem test_shake256 : shake256 8 [] = [0x46, 0xb9, 0xdd, 0x2b, 0x0b, 0xa8, 0x8d, 0x13] := by decide +kernel

/-- RFC 8032: a signature that OpenSSL made of a message of 64 bytes verifies under its key. -/
theorem test_ed448 : edVerify (leBytes 57 0x8037092a1dd98448354152ddf3c59b6efe4c3c37088177dd12b385ba057391d5e3634307080bfc6b2fe52a54ca8a729270826b2f27c6fd96f2) (leBytes 64
    0xe38b7ed0e36674126dd8a4929f91135821131278a55e9a340239e60d4f4e596f6221f2304c3983dbd1e3a7bcebb943a381459700802dcf1673e7a1e45a073412) (leBytes 114
    0x3dc30ea88bc9a2d133618aa0441fa6a48af70124407a5a7b962bb21bddef426c364e6f503297638c237e0ea29f7aa33eec173a216fa80e70000260ca94a5534b1773c581edceb2b089b6a74cfb39da2c2629cec57e316dfa06dfd38cf9cb20b6aaaea8ac2858d5dd04bf91380208a5ebda) = true := by
  decide +kernel

/-! ### Further clauses of the statements above -/

/-- A read of slot 0's log that is still to be issued again; a shock while the power is off. -/
theorem witness_SlotsInTurn_replays : ((onCore0 fun k => { k with reqs := [req 7 (.load 30 false) (tgt 8) .unsent] }).core 0).replaying 0 = true ∧
    (eventNext (.shockEvent ⟨0, 51⟩) .off).power = .off ∧ (eventNext (.shockEvent ⟨0, 51⟩) .off).agenda = [.event (.shockEvent ⟨0, 51⟩)] := by decide

/-- A message at c5's home, whose FIFO is full. -/
def crowded : State := (pending (.send 0 5 [1, 2, 3, 4, 5, 6, 7] 0) noTarget .home).onCore 0 fun k => k.setChan 5 { k.chan 5 with fifo := List.replicate 16 message }

theorem witness_SendResults_full : (crowded.core 0).req? 7 = some (req 7 (.send 0 5 [1, 2, 3, 4, 5, 6, 7] 0) noTarget .home) ∧
    AtHome crowded 0 7 (req 7 (.send 0 5 [1, 2, 3, 4, 5, 6, 7] 0) noTarget .home) ∧
    ((crowded.core 0).chan 5).valid = true ∧ 16 ≤ ((crowded.core 0).chan 5).fifo.length := ⟨rfl, ⟨rfl, rfl, by decide, by decide⟩, rfl, by decide⟩

/-- Every continuation record in use; POP with a kept register empty. -/
def contsFull : State := onCore0 fun k => { k with conts := (List.range 256).map fun i => (i, default) }

theorem witness_WaitResults_stops : contsFull.curSlot.keptFull = true ∧
    contsFull.condChecks [⟨0, 0, none⟩, ⟨0, 0, none⟩, ⟨0, 0, none⟩, ⟨0, 0, none⟩] = .ok () ∧
    (let s := withQueue work (onSlot fun x => (x.write 20 20).markEmpty 48);
      Passes g0 s ∧ Holds s 20 20 ∧ s.curSlot.keptFull = false) := by
  refine ⟨by decide, rfl, rfl, rfl, by decide⟩

/-- A queued store to a page that can be written; to one that is not mapped in the buffers; to a BARRIER page. -/
def storeTo (va : Nat) : List (Req × Option Nat) := [(req 8 (.store [1]) { tgt 1 with va := va } .sent, none)]

theorem witness_SpecResults_stores : (w.retranslated (w.slotIssuer 0 0) (storeTo 0x20000)).isOk = true ∧ ({ spec9 with outcome := some true } : Spec).committing = false ∧
    ({ spec9 with outcome := some true, committing := true } : Spec).committing = true ∧
    ((match w.retranslated (w.slotIssuer 0 0) (storeTo 0x80000) with | .error e => e.isMiss | .ok _ => false) = true) ∧
    ((match w.retranslated (w.slotIssuer 0 0) (storeTo 0x30000) with | .error e => !e.isMiss | .ok _ => false) = true) := by
  refine ⟨?_, rfl, rfl, ?_, ?_⟩ <;> decide

/-- The modes of bounds: rec1 in mode 0, 1 and 2; offsets beyond either end, across the end, and of an access longer than the extent. -/
def boundsRec (m : Nat) : BitVec 256 := rec1 ||| BitVec.ofNat 256 (m * 2 ^ 245)

theorem witness_BoundsModes_all : (∀ m < 3, recBounds (boundsRec m) = m ∧ recBad (boundsRec m) = false ∧ recKind (boundsRec m) ≠ 2 ∧
      spotOf (boundsRec m) 1 4089 true false = .ok ⟨0, 4089, 4096, none⟩) ∧ (4096 : Int) < 4089 + 8 ∧
    ((4096 : Int) ≤ 4096 ∧ (-8 : Int) + 8 ≤ 0) ∧ ((0 : Int) < -7 + 8 ∧ (0 : Int) < 4089 + 8 ∧ (4089 : Int) < 4096) ∧
    (recExtent (boundsRec 2) = 4096 ∧ 8 ≤ 4096 ∧ recExtent (BitVec.ofNat 256 (4 * 2 ^ 152) : BitVec 256) < 8) ∧
    (∃ sp, spotOf (ring ||| BitVec.ofNat 256 (4096 * 2 ^ 152)) 1 0 true false = .ok sp) := by
  refine ⟨by decide, by decide, by decide, by decide, by decide, ⟨_, rfl⟩⟩

/-- A word that publishes: the question at its hem die for a lining that is valid, and for one that is not; the answer back. -/
def pubWordReq (ph : ReqPhase) : Req := { req 7 (.publishWord 0 (19 * 65536)) noTarget ph with slot := 16 }
def publishingWord (ph : ReqPhase) (valid : Bool) : State :=
  { withBar (bar 0 0 (2 ^ 39)) (onCore0 fun k => { k with reqs := [pubWordReq ph] }) with
    linings := [(0, ⟨valid, false, 0, 1, 0, 0⟩)], completing := [⟨19 * 65536, 0x30000, bar 0 0 (2 ^ 39)⟩] }

theorem witness_PhaseCompletion_publish : (∀ b, AtHome (publishingWord .home b) 0 7 (pubWordReq .home)) ∧
    (publishingWord .home true).barWord (19 * 65536) = bar 0 0 (2 ^ 39) ∧ barLid (bar 0 0 (2 ^ 39)) = 0 ∧
    ((publishingWord .home true).lining 0).valid = true ∧ ((publishingWord .home true).lining 0).dom = ((publishingWord .home true).core 0).domain ∧
    ((publishingWord .home false).lining 0).valid = false ∧
    ((publishingWord (.back Reply.empty) true).core 0).req? 7 = some (pubWordReq (.back Reply.empty)) ∧
    (publishingWord (.back Reply.empty) true).frozen (pubWordReq (.back Reply.empty)).gang = false ∧
    ((publishingWord (.back Reply.empty) true).completing.find? fun x => x.key == 19 * 65536) = some ⟨19 * 65536, 0x30000, bar 0 0 (2 ^ 39)⟩ := by
  refine ⟨fun b => ⟨rfl, rfl, ?_⟩, by decide, by decide, rfl, rfl, rfl, rfl, rfl, rfl⟩
  cases b <;> decide

/-- A set clasp of a region that the task's gang does not hold. -/
theorem witness_ClaspResults_foreign : let s := onCore0 fun k => { k with clasps := [(7, ⟨true, false, 0, 1, 0x4000⟩)] }
    (s.curCore.clasp ((7 : Word).toNat % 8)).en = true ∧ s.ownRegion (s.curCore.clasp ((7 : Word).toNat % 8)).hdl.toNat = false ∧ s.curSlot.priv = false ∧
    ((0x4000000000000000 : Word).extractLsb' 60 4 = 4 ∧ (0x4000000000000000 : Word).toNat % 2 ^ 32 = 0) := by decide

/-- A PUBLISH that is not held; a held read whose slot's translation is buffered, and one whose is not. -/
theorem witness_CommandsComplete_looks : (pubReq .home).tgt.hold = none ∧ (pubReq .home).phase ≠ .unsent ∧
    (let u := (collared 1).lookHold 0 (((collared 1).core 0).reqPort 0 (req 7 (.load 30 false) { tgt 8 with hold := some 0x30000 } .home)) (some 0x30000);
      u.collarKey 0 ((u.core 0).reqPort 0 (req 7 (.load 30 false) { tgt 8 with hold := some 0x30000 } .home)) 0x30000 = some (19 * 65536) ∧
        barSect (u.barWord (19 * 65536)) ≠ 0) ∧
    (let s := onCore0 fun k => { k with reqs := [req 7 (.load 30 false) { tgt 8 with hold := some 0x80000 } .home] };
      let u := s.lookHold 0 ((s.core 0).reqPort 0 (req 7 (.load 30 false) { tgt 8 with hold := some 0x80000 } .home)) (some 0x80000);
      u.collarKey 0 ((u.core 0).reqPort 0 (req 7 (.load 30 false) { tgt 8 with hold := some 0x80000 } .home)) 0x80000 = none) := by
  refine ⟨rfl, by decide, ⟨?_, ?_⟩, ?_⟩ <;> decide

theorem witness_ConfigLoads_free : (steering (reg1 .held)).curCore.acquiring (steering (reg1 .held)).cur.slot = false ∧ (reg1 .held).moving = false ∧
    walkState.failed = [] ∧ AgState.idle.failed = [] ∧ (let x := { data1 with data := 0 }; lxOk 0x18 { LxState.fresh with ins := [1] } [(89, x)] = true ∧ metaBad (x.asVector.data.extractLsb' 0 128) = false) := by decide

/-- The half bytes of a drained row are distinct. -/
theorem witness_MatrixDrains_nodup : (((engine (drainTok true 0)).drainSpan 0 (drainTok true 0) 0).toOption.any fun sp =>
    decide (((sp.bytes.filterMap id).map fun e => e.1).Nodup)) = true := by decide +kernel

/-- No opcode; a QDESC of queue 15, of a queue of domain 3, with a descriptor of weight 0, of a valid queue with a partly placed launch, of none. -/
def partLaunch : Launch := { launch0 false (1#512 <<< 56) with next := 1 }
def ownedBy (dom : Nat) (s : State) : State := { s with queues := s.queues ++ [(16, { ringQ 0 with dom := BitVec.ofNat 4 dom })] }

theorem witness_QueueCommands_refused : (commanded 8 0 0).headCommand 0 = some (commandEntry 8 0 0) ∧ commandOk (commandEntry 8 0 0) = false ∧
    (commanded 1 16 descr (ownedBy 3)).ownQueue 16 0 = false ∧ IsCommand 1 16 descr (commanded 1 16 descr (ownedBy 3)) ∧
    (bits (2 ^ 127) 127 127 = 1 ∧ descriptorOk (2 ^ 127) 0 = false) ∧ IsCommand 2 4096 0 ∧ IsCommand 3 15 0 ∧
    IsCommand 3 16 0 (commanded 3 16 0 (ownedBy 3)) ∧ (commanded 3 16 0 (ownedBy 3)).ownQueue 16 0 = false ∧
    bits (2 ^ 255 + 2 ^ 132) 255 255 = 1 ∧ bits (2 ^ 255 + 2 ^ 132) 135 132 ≠ 0 := by
  refine ⟨?_, ?_, ?_, ⟨?_, ?_, ?_⟩, ⟨?_, ?_⟩, ⟨?_, ?_, ?_⟩, ⟨?_, ?_, ?_⟩, ⟨?_, ?_, ?_⟩, ?_, ?_, ?_⟩ <;> decide

theorem witness_QueueCommands_abandons : let s := commanded 1 16 descr fun s => { ownedBy 0 s with launches := [partLaunch] }
    IsCommand 1 16 descr s ∧ s.ownQueue 16 0 = true ∧ (s.queue 16).valid = true ∧
    s.launches.find? (fun l => l.id == launchId 16 (s.queue 16).head && !l.placed) = some partLaunch ∧ partLaunch.next ≠ 0 := by
  refine ⟨⟨?_, ?_, ?_⟩, ?_, ?_, ?_, ?_⟩ <;> decide

/-- LKILL of an entry behind the head, at the head and dispensable, ahead of it with a mark free and with none, of another domain's queue. -/
def killing (id head : Nat) (ms : List Nat) (dom : Nat := 0) : State :=
  commanded 4 id 0 fun s => { s with
    queues := s.queues ++ [(16, { ringQ 0 with dom := BitVec.ofNat 4 dom, head := BitVec.ofNat 64 head, tail := BitVec.ofNat 64 (head + 1) })]
    marks := [(0, ms)] }

theorem witness_QueueCommands_marks : let id := 16 * 2 ^ 48
    IsCommand 4 id 0 (killing id 0 []) ∧ (killing id 0 []).savingLaunch id = false ∧ (killing id 0 []).ownQueue (launchQueue id) 0 = true ∧
    (killing id 0 []).launches.find? (fun x => x.id == id) = none ∧ launchId 16 ((killing id 0 []).queue 16).head = id ∧ (killing id 0 []).dispensable 16 = true ∧
    (killing id 0 [] 3).ownQueue (launchQueue id) 0 = false ∧ ¬ (id % 2 ^ 48 + 2 ^ 48 - ((killing id 1 []).queue 16).head.toNat % 2 ^ 48) % 2 ^ 48 < 2 ^ 47 ∧
    (let far := id + 1;
      (far % 2 ^ 48 + 2 ^ 48 - ((killing far 0 []).queue 16).head.toNat % 2 ^ 48) % 2 ^ 48 < 2 ^ 47 ∧ launchId 16 ((killing far 0 []).queue 16).head ≠ far ∧
        ((killing far 0 []).marks.get [] 0).length < 64 ∧ far ∉ (killing far 0 []).marks.get [] 0 ∧
        64 ≤ ((killing far 0 (List.range 64)).marks.get [] 0).length ∧ far ∉ (killing far 0 (List.range 64)).marks.get [] 0) := by
  refine ⟨⟨?_, ?_, ?_⟩, ?_, ?_, ?_, ?_, ?_, ?_, ?_, ?_, ?_, ?_, ?_, ?_, ?_⟩ <;> decide

theorem witness_ReportCommands_refused : (commanded 7 0x80000 9).reportKey 0 0x80000 = none ∧ IsCommand 7 0x80000 9 ∧ IsCommand 6 0x80000 0 := by
  refine ⟨?_, ⟨?_, ?_, ?_⟩, ⟨?_, ?_, ?_⟩⟩ <;> decide

/-- Whether the placement of the head launch waits for the walk of an entry's first line: no entry; an entry of a page that no buffer holds. -/
theorem witness_PlacementEvents_walks : (schedulable.firstLines [(0, [0])] 0 1).2 = false ∧
    ((schedulable.onCore 0 fun k => { k with store := k.store.map fun im => { im with entries := [{ (default : TaskEntry) with off := 0x80000 }] } }).firstLines
      [(0, [0])] 0 1).2 = true := by decide

/-- A watchdog's region that has moved, and one that owes nothing. -/
theorem witness_ThrottlesAndGates_watch : ((steering (reg1 .running)).core 0).clasped 0 = false ∧ (reg1 .running).moved = false ∧
    (steering (reg1 .running)).awaiting 0 0 (reg1 .running) = false ∧ ({ reg1 .running with moved := true } : Region).moved = true := by decide

/-- The saver on core 0 waits for the seal of a gang of core 1; where its area's header is written. -/
theorem witness_SealsLogs_saver : let s := (area id (some job1)).onCore 0 fun k => k.setSlot 0 { k.slot 0 with prog := .saving ⟨2, 0⟩ }
    (gangB (some job1)).members.Nodup ∧ job1.core ∉ (gangB (some job1)).members ∧ ((s.core job1.core).slot job1.slot).prog = .saving (gangB (some job1)).id ∧
    (slotsWritten s (gangB (some job1)) job1).areaKey (s.saveIssuer (gangB (some job1)) job1) job1.va = .ok (0x1000 * 65536) ∧
    s.areaHeader (gangB (some job1)) job1 7 < 2 ^ 512 := by
  refine ⟨by decide, by decide, by decide, ?_, by decide⟩
  decide +kernel

theorem witness_SaveResults_sealed : SavesArea ((regA 0x1000000 id).setCurSlot { (regA 0x1000000 id).curSlot with prog := .sealed })
    ⟨g0, 21, 2, 0, 20, false, false, false⟩ 2 0 0x1000000 := ⟨rfl, rfl, rfl, rfl, rfl, rfl, rfl⟩

/-- Domain 3 with tables that map their own page 32 at VA 0 and its command queue's ring and line in pages 1 and 2; a plan without tables. -/
def tablesOf : State :=
  let leaf (ppn fmt : Nat) : BitVec 128 := pte ppn fmt 3 ||| (1 : BitVec 128) <<< 66
  (((((State.reset.storeBytes (32 * 65536) (leBytes 16 (1 + 33 * 2 ^ 16))).storeBytes (33 * 65536) (leBytes 16 (1 + 34 * 2 ^ 16))).storeBytes
    (34 * 65536) (leBytes 16 (leaf 32 0).toNat)).storeBytes (34 * 65536 + 16) (leBytes 16 (leaf 40 0x1D).toNat)).storeBytes
    (34 * 65536 + 32) (leBytes 16 (leaf 41 0x1D).toNat))
def dom3 : DomainPlan := { (default : DomainPlan) with dom := 3, base := 32 * 65536, tableVa := 0, command := BitVec.ofNat 128 (0x40 * 2 ^ 63 + 0x800 * 2 ^ 17) }

theorem witness_DomainsOpen : tablesOf.planOk dom3 = true ∧ State.reset.planOk dom3 = false ∧
    ({ State.reset with agenda := [.manage (.tables 3 0x200000)] } : State).agenda = [.manage (.tables 3 0x200000)] ∧ State.reset.power = .on ∧ coreOk 383 = true := by
  refine ⟨?_, ?_, rfl, rfl, by decide⟩ <;> decide +kernel

end Sys2Proof.Tests
end

section
/-! What the operand forms of R199 come to, in the words of the claims: a word whose guard passes, whose operands are full and whose
destination is free completes, and nothing but its destination and the pc is changed. -/

namespace Sys2Proof.Machine

/-- What a register reads after a write to it; one to g0 is discarded (R200). -/
theorem Slot.cell_write_same (sl : Slot) (d : Reg) (v : Word) :
    (sl.write d v).cell d = if d = 0 then RegCell.zero else ⟨v, false, none⟩ := by
  by_cases h : d = 0
  · rw [if_pos h, h, Slot.cell_zero]
  · rw [if_neg h, Slot.cell_write, if_pos ⟨rfl, h⟩]

/-- What a predicate reads after a write to it; one to p0 is discarded (R212). -/
theorem Slot.pcell_setPred_same (sl : Slot) (p : PReg) (c : PredCell) :
    (sl.setPred p c).pcell p = if p = 0 then ⟨true, false⟩ else c := by
  by_cases h : p = 0
  · rw [if_pos h, h, Slot.pcell_zero]
  · rw [if_neg h, Slot.pcell_setPred, if_pos ⟨rfl, h⟩]

/-- A taken transfer leaves the entries that end elsewhere (R218). -/
theorem Slot.jump_loops_ne (sl : Slot) (a : Word) : (sl.jump a).loops = sl.loops.filter fun e => e.last ≠ sl.pc := by
  simp [Slot.jump_loops, bne, Bool.beq_eq_decide_eq]

end Sys2Proof.Machine

namespace Sys2Proof.Claims

open Sys2Proof.Machine

/-! ### The running slot replaced -/

theorem onlySlot_setCurSlot (s : State) (sl : Slot) : OnlySlot s (s.setCurSlot sl) :=
  ⟨by rw [State.curSlot_setCurSlot], fun _ => rfl⟩

/-- A word that retires with the pc and loop stack of its slot as they were is end-processed (R218). -/
theorem onward_advance {s : State} {sl : Slot} (hpc : sl.pc = s.curSlot.pc) (hl : sl.loops = s.curSlot.loops) :
    Onward s (s.setCurSlot sl.advance) := by
  simp [Onward, Slot.advance_pc, Slot.advance_loops, hpc, hl]

theorem wroteReg_writeReg {s : State} {d : Reg} (v : Word) (hd : Free s d) : WroteReg (writeReg d v s) s d v := by
  refine ⟨s.setCurSlot (s.curSlot.write d v).advance, by rw [writeReg, withDest_free hd, retire], ?_, fun r hr => ?_, fun p _ => ?_,
    onward_advance (by simp) (by simp), by simp [SameTask], onlySlot_setCurSlot ..⟩
  · simp [Slot.cell_write_same]
  · have hrd : r ≠ d := by simpa using hr
    simp [Slot.cell_write, hrd]
  · simp

theorem wrotePred_writePred {s : State} {d : PReg} (v : Bool) (hd : PFree s d) : WrotePred (writePred d v s) s d v := by
  refine ⟨s.setCurSlot (s.curSlot.setPred d ⟨v, false⟩).advance, by rw [writePred, withPDest_free hd, retire], ?_, fun r _ => ?_,
    fun p hp => ?_, onward_advance (by simp) (by simp), by simp [SameTask], onlySlot_setCurSlot ..⟩
  · simp [Slot.pcell_setPred_same]
  · simp
  · have hpd : p ≠ d := by simpa using hp
    simp [Slot.pcell_setPred, hpd]

/-! ### The register forms (R205) -/

theorem wroteReg_alu1 {o : OpsDA} {f : Word → Word} {s : State} {x : Word} (hg : Passes o.g s) (ha : Holds s o.a x) (hd : Free s o.d) :
    WroteReg (alu1 o f s) s o.d (f x) := by
  rw [alu1, guarded_acts hg, withReg_full ha]
  exact wroteReg_writeReg _ hd

theorem wroteReg_alu2 {o : OpsDAB} {f : Word → Word → Word} {s : State} {x y : Word} (hg : Passes o.g s) (ha : Holds s o.a x)
    (hb : Holds s o.b y) (hd : Free s o.d) : WroteReg (alu2 o f s) s o.d (f x y) := by
  rw [alu2, guarded_acts hg, withReg_full ha, withReg_full hb]
  exact wroteReg_writeReg _ hd

theorem wroteReg_alu2u {o : OpsDABu} {f : Bool → Word → Word → Word} {s : State} {x y : Word} (hg : Passes o.g s)
    (ha : Holds s o.a x) (hb : Holds s o.b y) (hd : Free s o.d) : WroteReg (alu2u o f s) s o.d (f o.uns x y) := by
  rw [alu2u, guarded_acts hg, withReg_full ha, withReg_full hb]
  exact wroteReg_writeReg _ hd

theorem wroteReg_alu3 {o : OpsDABC} {f : Word → Word → Word → Word} {s : State} {x y z : Word} (hg : Passes o.g s)
    (ha : Holds s o.a x) (hb : Holds s o.b y) (hc : Holds s o.c z) (hd : Free s o.d) :
    WroteReg (alu3 o f s) s o.d (f x y z) := by
  rw [alu3, guarded_acts hg, withReg_full ha, withReg_full hb, withReg_full hc]
  exact wroteReg_writeReg _ hd

/-! ### The predicate forms (R213) -/

theorem wrotePred_pred1 {o : OpsPred1} {f : Bool → Bool} {s : State} {x : Bool} (hg : Passes o.g s) (ha : PHolds s o.a x)
    (hd : PFree s o.d) : WrotePred (pred1 o f s) s o.d (f x) := by
  rw [pred1, guarded_acts hg, withPred_read ha]
  exact wrotePred_writePred _ hd

theorem wrotePred_pred2 {o : OpsPred2} {f : Bool → Bool → Bool} {s : State} {x y : Bool} (hg : Passes o.g s) (ha : PHolds s o.a x)
    (hb : PHolds s o.b y) (hd : PFree s o.d) : WrotePred (pred2 o f s) s o.d (f x y) := by
  rw [pred2, guarded_acts hg, withPred_read ha, withPred_read hb]
  exact wrotePred_writePred _ hd

/-! ### Control transfer (R214 to R219) -/

/-- A slot whose pc and loop stack alone are replaced has gone to them. -/
theorem wentTo_setCurSlot (s : State) (pc : Word) (loops : List LoopEntry) :
    WentTo (s.setCurSlot { s.curSlot with pc := pc, loops := loops }) s pc loops [] := by
  refine ⟨by simp, by simp, fun r _ => ?_, fun p _ => ?_, by simp [SameTask], onlySlot_setCurSlot ..⟩
  · rw [State.curSlot_setCurSlot]; rfl
  · rw [State.curSlot_setCurSlot]; rfl

/-- A taken transfer (R218) by a slot that has written gd. -/
theorem wentTo_jump_write (s : State) (d : Reg) (v target : Word) :
    WentTo (s.setCurSlot ((s.curSlot.write d v).jump target)) s target (s.curSlot.loops.filter fun e => e.last ≠ s.curSlot.pc) [d] := by
  refine ⟨by simp, ?_, fun r hr => ?_, fun p _ => by simp, by simp [SameTask], onlySlot_setCurSlot ..⟩
  · simp [Slot.jump_loops_ne]
  · have hrd : r ≠ d := by simpa using hr
    simp [Slot.cell_write, hrd]

/-- A taken transfer (R218). -/
theorem wentTo_jump (s : State) (target : Word) :
    WentTo (s.setCurSlot (s.curSlot.jump target)) s target (s.curSlot.loops.filter fun e => e.last ≠ s.curSlot.pc) [] := by
  rw [← Slot.jump_loops_ne s.curSlot target]
  exact wentTo_setCurSlot s target _

end Sys2Proof.Claims
end

section
/-! MULH, DIV, REM, MIN and MAX against the values s() and u() of R205 and R206. -/

namespace Sys2Proof.Claims

open Sys2Proof.Machine

theorem extractLsb'_ofInt_128 (z : Int) : (BitVec.ofInt 128 z).extractLsb' 64 64 = BitVec.ofInt 64 (z / 2 ^ 64) := by
  apply BitVec.eq_of_toNat_eq
  simp only [BitVec.extractLsb'_toNat, BitVec.toNat_ofInt, Nat.shiftRight_eq_div_pow]
  omega

theorem mulHigh_eq (uns : Bool) (x y : Word) :
    mulHigh uns x y = (BitVec.ofInt 128 (val uns x * val uns y)).extractLsb' 64 64 := by
  rw [extractLsb'_ofInt_128]
  cases uns
  case false => rfl
  case true =>
    have h : ((x.toNat : Int) * y.toNat / 2 ^ 64) = ((x.toNat * y.toNat / 2 ^ 64 : Nat) : Int) := by push_cast; rfl
    simp only [mulHigh, val, if_true, h, BitVec.ofInt_natCast]

theorem wordOfNat_div (m n : Nat) : BitVec.ofNat 64 (m / n) = BitVec.ofInt 64 ((m : Int).tdiv n) := by
  rw [← Int.ofNat_tdiv, BitVec.ofInt_natCast]

theorem wordOfNat_mod (m n : Nat) : BitVec.ofNat 64 (m % n) = BitVec.ofInt 64 ((m : Int).tmod n) := by
  rw [← Int.ofNat_tmod, BitVec.ofInt_natCast]

/-- The remainder of R206's pseudocode is that of the division that rounds towards zero. -/
theorem sub_tdiv_mul (a b : Int) : a - a.tdiv b * b = a.tmod b := by rw [Int.tmod_def, mul_comm]

/-- The model's two words of a division are R206's. -/
theorem quotient_remainder_eq (uns : Bool) (x y : Word) : (quotient uns x y, remainder uns x y) = divRem uns x y := by
  simp only [quotient, remainder, divRem, sub_tdiv_mul]
  by_cases hy : y = 0
  · simp only [if_pos hy]; rfl
  cases uns
  case true =>
    simp only [if_neg hy, Bool.true_eq_false, false_and, if_true, if_false, val, wordOfNat_div, wordOfNat_mod]
  case false =>
    simp only [if_neg hy, Bool.false_eq_true, true_and, if_false, val]
    split_ifs <;> rfl

theorem minWord_eq (uns : Bool) (x y : Word) : minWord uns x y = if val uns y < val uns x then y else x := by
  cases uns <;> simp [minWord, val, BitVec.ult, BitVec.slt]

theorem maxWord_eq (uns : Bool) (x y : Word) : maxWord uns x y = if val uns x < val uns y then y else x := by
  cases uns <;> simp [maxWord, val, BitVec.ult, BitVec.slt]

/-- Settles O12: each word is `alu2u` of a function that gives R205's and R206's value. -/
theorem signedAluResults : Obligations.SignedAluResults := by
  intro s g d a b fea feb uns x y hg ha hb hd
  have wrote (f : Bool → Word → Word → Word) : WroteReg (alu2u ⟨g, d, a, b, fea, feb, uns⟩ f s) s d (f uns x y) :=
    wroteReg_alu2u hg ha hb hd
  rw [← mulHigh_eq, ← quotient_remainder_eq, ← minWord_eq, ← maxWord_eq]
  exact ⟨wrote mulHigh, wrote quotient, wrote remainder, wrote minWord, wrote maxWord⟩

end Sys2Proof.Claims
end

section
/-! The counting words (R205) and the field words (R207), bit by bit. -/

namespace Sys2Proof.Machine

variable {m : Nat} (w : BitVec m)

/-! ### Counts -/

theorem leadingZeros_le (n : Nat) : leadingZeros w n ≤ n := by
  induction n with
  | zero => simp [leadingZeros]
  | succ n ih => simp only [leadingZeros]; split <;> omega

theorem getLsbD_above_leadingZeros (n i : Nat) (hi : i < n) (h : n ≤ i + leadingZeros w n) : w.getLsbD i = false := by
  induction n with
  | zero => omega
  | succ n ih =>
    simp only [leadingZeros] at h
    split at h
    · omega
    next hb =>
      by_cases hin : i = n
      · simpa [hin] using hb
      · exact ih (by omega) (by omega)

theorem getLsbD_at_leadingZeros (n : Nat) (h : leadingZeros w n < n) : w.getLsbD (n - 1 - leadingZeros w n) = true := by
  induction n with
  | zero => omega
  | succ n ih =>
    simp only [leadingZeros] at h ⊢
    split at h <;> rename_i hb
    · simp [hb]
    · have := ih (by omega)
      simpa [hb, show n - (leadingZeros w n + 1) = n - 1 - leadingZeros w n by omega] using this

theorem trailingZeros_le (i n : Nat) : trailingZeros w i n ≤ n := by
  induction n generalizing i with
  | zero => simp [trailingZeros]
  | succ n ih => have := ih (i + 1); simp only [trailingZeros]; split <;> omega

theorem getLsbD_below_trailingZeros (i n j : Nat) (hij : i ≤ j) (h : j < i + trailingZeros w i n) : w.getLsbD j = false := by
  induction n generalizing i with
  | zero => simp only [trailingZeros] at h; omega
  | succ n ih =>
    simp only [trailingZeros] at h
    split at h
    · omega
    next hb =>
      by_cases hj : j = i
      · simpa [hj] using hb
      · exact ih (i + 1) (by omega) (by omega)

theorem getLsbD_at_trailingZeros (i n : Nat) (h : trailingZeros w i n < n) : w.getLsbD (i + trailingZeros w i n) = true := by
  induction n generalizing i with
  | zero => omega
  | succ n ih =>
    simp only [trailingZeros] at h ⊢
    split at h <;> rename_i hb
    · simp [hb]
    · have := ih (i + 1) (by omega)
      simpa [hb, show i + (trailingZeros w (i + 1) n + 1) = i + 1 + trailingZeros w (i + 1) n by omega] using this

theorem popCount_eq_countP (n : Nat) : popCount w n = (List.range n).countP fun i => w.getLsbD i := by
  induction n with
  | zero => rfl
  | succ n ih => simp [popCount, ih, List.range_succ, List.countP_append, List.countP_singleton]

/-! ### Fields -/

theorem fieldPos_eq (desc : Word) : fieldPos desc = (desc.extractLsb' 0 6).toNat := by
  simp [fieldPos]

theorem fieldWidth_eq (desc : Word) : fieldWidth desc = min (desc.extractLsb' 8 7).toNat (64 - fieldPos desc) := by
  simp [fieldWidth, Nat.shiftRight_eq_div_pow]

theorem fieldU_eq_setWidth (a desc : Word) :
    fieldU a desc = (a.extractLsb' (fieldPos desc) (fieldWidth desc)).setWidth 64 := by
  apply BitVec.eq_of_toNat_eq
  simp [fieldU, Nat.shiftRight_eq_div_pow]

/-- Sign extension, by the number that a field holds (R207). -/
theorem signExtend_eq_of_toNat {n : Nat} (v : BitVec n) :
    v.signExtend 64 = if n = 0 then 0 else
      if v.toNat / 2 ^ (n - 1) = 1 then BitVec.ofInt 64 ((v.toNat : Int) - 2 ^ n) else BitVec.ofNat 64 v.toNat := by
  cases n with
  | zero => simp [BitVec.of_length_zero (x := v)]
  | succ n =>
    have hmsb : v.toNat / 2 ^ n = 1 ↔ v.msb = true := by
      have := v.isLt
      rw [BitVec.msb_eq_decide, Nat.div_eq_iff (by positivity), decide_eq_true_eq, Nat.add_sub_cancel]
      omega
    rw [BitVec.signExtend, BitVec.toInt_eq_msb_cond, Nat.add_sub_cancel, if_neg (Nat.succ_ne_zero n)]
    simp only [hmsb]
    split_ifs <;> simp

theorem fieldS_eq_signExtend (a desc : Word) :
    fieldS a desc = (a.extractLsb' (fieldPos desc) (fieldWidth desc)).signExtend 64 := by
  rw [signExtend_eq_of_toNat, BitVec.extractLsb'_toNat, Nat.shiftRight_eq_div_pow]
  rfl

theorem getLsbD_fieldU (a desc : Word) (i : Nat) (hi : i < 64) :
    (fieldU a desc).getLsbD i = (decide (i < fieldWidth desc) && a.getLsbD (fieldPos desc + i)) := by
  simp [fieldU_eq_setWidth, hi]

theorem getLsbD_fieldS (a desc : Word) (i : Nat) (hi : i < 64) :
    (fieldS a desc).getLsbD i =
      (decide (0 < fieldWidth desc) && a.getLsbD (fieldPos desc + min i (fieldWidth desc - 1))) := by
  rw [fieldS_eq_signExtend, BitVec.getLsbD_signExtend, BitVec.msb_eq_getLsbD_last]
  by_cases h : i < fieldWidth desc
  · simp [hi, h, show min i (fieldWidth desc - 1) = i by omega, show 0 < fieldWidth desc by omega]
  · by_cases hw : 0 < fieldWidth desc
    · simp [hi, h, hw, show min i (fieldWidth desc - 1) = fieldWidth desc - 1 by omega]
    · simp [hi, h, hw]

theorem getLsbD_fieldInsert (a b desc : Word) (i : Nat) (hi : i < 64) :
    (fieldInsert a b desc).getLsbD i =
      if fieldPos desc ≤ i ∧ i < fieldPos desc + fieldWidth desc then b.getLsbD (i - fieldPos desc) else a.getLsbD i := by
  have hmask (j : Nat) :
      (BitVec.ofNat 64 (2 ^ fieldWidth desc - 1)).getLsbD j = (decide (j < 64) && decide (j < fieldWidth desc)) := by
    rw [BitVec.getLsbD_ofNat, Nat.testBit_two_pow_sub_one]
  simp only [fieldInsert, BitVec.getLsbD_or, BitVec.getLsbD_and, BitVec.getLsbD_not, BitVec.getLsbD_shiftLeft, hmask]
  by_cases hlo : fieldPos desc ≤ i
  · by_cases hhi : i < fieldPos desc + fieldWidth desc
    · simp [hi, hlo, hhi, show ¬ i < fieldPos desc by omega, show i - fieldPos desc < fieldWidth desc by omega,
        show i - fieldPos desc < 64 by omega]
    · simp [hi, hlo, hhi, show ¬ i < fieldPos desc by omega, show ¬ i - fieldPos desc < fieldWidth desc by omega]
  · simp [hi, hlo, show i < fieldPos desc by omega]

end Sys2Proof.Machine

namespace Sys2Proof.Claims

open Sys2Proof.Machine

/-- R205's counting words. -/
theorem bitCounts : BitCounts := by
  intro s g d a fea x hg ha hd
  have wrote (f : Word → Word) : WroteReg (alu1 ⟨g, d, a, fea⟩ f s) s d (f x) := wroteReg_alu1 hg ha hd
  refine ⟨⟨leadingZeros x 64, leadingZeros_le .., wrote _, getLsbD_above_leadingZeros x 64, getLsbD_at_leadingZeros x 64⟩,
    ⟨trailingZeros x 0 64, trailingZeros_le .., wrote _, fun i hi => ?_, fun h => ?_⟩, ?_⟩
  · exact getLsbD_below_trailingZeros x 0 64 i (Nat.zero_le i) (by omega)
  · simpa using getLsbD_at_trailingZeros x 0 64 h
  · rw [← popCount_eq_countP]
    exact wrote _

/-- R207's field words. -/
theorem fieldResults : FieldResults := by
  intro s g d a b c fea feb fec x y z p w hg ha hb hc hd
  constructor
  · rintro rfl rfl
    rw [← fieldPos_eq, ← fieldWidth_eq]
    exact ⟨⟨fieldU x y, wroteReg_alu2 hg ha hb hd, getLsbD_fieldU x y⟩, ⟨fieldS x y, wroteReg_alu2 hg ha hb hd, getLsbD_fieldS x y⟩⟩
  · rintro rfl rfl
    rw [← fieldPos_eq, ← fieldWidth_eq]
    exact ⟨fieldInsert x y z, wroteReg_alu3 hg ha hb hc hd, getLsbD_fieldInsert x y z⟩

/-- Settles O14: the model's counts by induction on the bits counted, its fields by the bits of an extraction. -/
theorem bitFields : Obligations.BitFields := ⟨bitCounts, fieldResults⟩

end Sys2Proof.Claims
end

section
/-! Compares and predicate words (R211 to R213). -/

namespace Sys2Proof.Claims

open Sys2Proof.Machine

/-- Table 5-11: a condition code and the comparison of words that it names. -/
def Condition (code : BitVec 4) (f : Word → Word → Prop) : Prop :=
  (code, f) ∈ ([(0, fun u v => u = v), (1, fun u v => u ≠ v), (2, fun u v => u.toInt < v.toInt),
    (3, fun u v => v.toInt ≤ u.toInt), (4, fun u v => u.toInt ≤ v.toInt), (5, fun u v => v.toInt < u.toInt),
    (6, fun u v => u.toNat < v.toNat), (7, fun u v => v.toNat ≤ u.toNat), (8, fun u v => u.toNat ≤ v.toNat),
    (9, fun u v => v.toNat < u.toNat)] : List (BitVec 4 × (Word → Word → Prop)))

theorem condHolds_iff {code : BitVec 4} {f : Word → Word → Prop} (h : Condition code f) (x y : Word) :
    condHolds code x y = true ↔ f x y := by
  simp only [Condition, List.mem_cons, Prod.mk.injEq, List.not_mem_nil, or_false] at h
  rcases h with ⟨rfl, rfl⟩ | ⟨rfl, rfl⟩ | ⟨rfl, rfl⟩ | ⟨rfl, rfl⟩ | ⟨rfl, rfl⟩ | ⟨rfl, rfl⟩ | ⟨rfl, rfl⟩ | ⟨rfl, rfl⟩ |
    ⟨rfl, rfl⟩ | ⟨rfl, rfl⟩ <;>
    simp [condHolds, BitVec.slt, BitVec.sle, BitVec.ult, BitVec.ule]

/-- CMP and CMPI (R211, R212). -/
theorem compareResults : CompareResults := by
  intro s g d a b fea feb x y imm hg hd ha hb code f hf
  refine ⟨⟨condHolds code x y, condHolds_iff hf x y, ?_⟩, ⟨condHolds code x (sext imm), condHolds_iff hf x _, ?_⟩⟩
  · show WrotePred (execCmp ⟨g, d, a, b, fea, feb, code⟩ s) s d _
    rw [execCmp, guarded_acts hg, withReg_full ha, withReg_full hb]
    exact wrotePred_writePred _ hd
  · show WrotePred (execCmpi ⟨g, d, a, fea, code, imm⟩ s) s d _
    rw [execCmpi, guarded_acts hg, withReg_full ha]
    exact wrotePred_writePred _ hd

/-- The predicate words (R213). -/
theorem predicateResults : PredicateResults := by
  intro s g d a b x y hg hd ha hb
  have wrote1 (f : Bool → Bool) : WrotePred (pred1 ⟨g, d, a⟩ f s) s d (f x) := wrotePred_pred1 hg ha hd
  have wrote2 (f : Bool → Bool → Bool) : WrotePred (pred2 ⟨g, d, a, b⟩ f s) s d (f x y) := wrotePred_pred2 hg ha hb hd
  exact ⟨wrote2 _, wrote2 _, wrote2 fun a b => a != b, wrote1 _, wrote1 _⟩

/-- Settles O16: the model's condition is the comparison of Table 5-11, and a compare or predicate word writes it to pD. -/
theorem comparesAndPredicates : Obligations.ComparesAndPredicates := ⟨compareResults, predicateResults⟩

end Sys2Proof.Claims
end

section
/-! Transfers, hardware loops and end processing (R214 to R219). -/

namespace Sys2Proof.Claims

open Sys2Proof.Machine

theorem targetOf_eq (pc : Word) (off : BitVec 32) : targetOf pc off = pc + BitVec.ofInt 64 (8 * off.toInt) := by
  have h : sext off = BitVec.ofInt 64 off.toInt := rfl
  rw [targetOf, h, BitVec.ofInt_mul]
  rfl

/-- NOP, BR, JAL and JR (R214, R215). -/
theorem transferResults : TransferResults := by
  intro s g d a fea off x hg
  refine ⟨?nop, ?br, fun hd => ?jal, fun ha hal hlt => ?jr, fun ha hal => ?align, fun ha hal hge => ?xlate⟩
  case nop =>
    exact ⟨s.setCurSlot s.curSlot.advance, guarded_acts hg, fun r _ => by simp, fun p _ => by simp, onward_advance rfl rfl,
      by simp [SameTask], onlySlot_setCurSlot ..⟩
  case br =>
    rw [← targetOf_eq]
    exact ⟨_, guarded_acts hg, wentTo_jump s _⟩
  case jal =>
    rw [← targetOf_eq]
    exact ⟨_, (guarded_acts hg).trans (withDest_free hd), by simp [Slot.cell_write_same], wentTo_jump_write s d _ _⟩
  case jr =>
    refine ⟨s.setCurSlot (s.curSlot.jump x), ?_, wentTo_jump s x⟩
    show execJr _ s = _
    rw [execJr, guarded_acts hg, withReg_full ha, if_neg (by omega), if_neg (by simp [Config.vaLimit]; omega)]
    rfl
  case align =>
    show execJr _ s = _
    rw [execJr, guarded_acts hg, withReg_full ha, if_pos hal]
    rfl
  case xlate =>
    show execJr _ s = _
    rw [execJr, guarded_acts hg, withReg_full ha, if_neg (by omega), if_pos (by simpa [Config.vaLimit] using hge)]
    rfl

/-- R217's cases, in the order in which the model decides them; that a count of 0 leaves the loop stack as it is, is the model's choice
(log 42). -/
theorem looped_pushLoop (s : State) (w n : Word) (imm : BitVec 32) : Looped (pushLoop w n imm s) s w n imm := by
  simp only [Looped, pushLoop, ← targetOf_eq]
  by_cases himm : imm.toInt < 1
  · simp only [if_pos himm]; rfl
  by_cases hn : n = 0
  · simp only [if_neg himm, if_pos hn]
    exact ⟨_, rfl, wentTo_setCurSlot ..⟩
  by_cases hdepth : 4 ≤ s.curSlot.loops.length
  · simp only [if_neg himm, if_neg hn, if_pos hdepth, ge_iff_le, Config.loopDepth]; rfl
  have hnest : (s.curSlot.loops.head?.any fun e => decide (e.last.toNat < (targetOf s.curSlot.pc imm).toNat)) = true ↔
      ∃ top, s.curSlot.loops.head? = some top ∧ top.last.toNat < (targetOf s.curSlot.pc imm).toNat := by
    simp [Option.any_eq_true]
  simp only [if_neg himm, if_neg hn, if_neg hdepth, ge_iff_le, Config.loopDepth, hnest]
  split_ifs
  · rfl
  · exact ⟨_, rfl, wentTo_setCurSlot ..⟩

/-- LOOP, LOOPI and LBRK (R217, R219). -/
theorem loopResults : LoopResults := by
  intro s g a fea imm count x hg
  refine ⟨fun ha => ?_, ?_, fun top rest h => ?_, fun h => ?_⟩
  · show Looped (execLoop _ s) _ _ _ _
    rw [execLoop, guarded_acts hg, withReg_full ha]
    exact looped_pushLoop ..
  · show Looped (execLoopi _ s) _ _ _ _
    rw [execLoopi, guarded_acts hg, BitVec.ofNat_toNat]
    exact looped_pushLoop ..
  · refine ⟨_, ?_, wentTo_setCurSlot s (top.last + 8) rest⟩
    show execLbrk _ s = _
    rw [execLbrk, guarded_acts hg, h]
  · show execLbrk _ s = _
    rw [execLbrk, guarded_acts hg, h]
    rfl

/-- Entries that end at the word with one pass left are popped, whatever lies under them (R218). -/
theorem endProcess_spent {a : Word} {spent : List LoopEntry} (h : ∀ x ∈ spent, x.last = a ∧ x.count = 1) (t : List LoopEntry) :
    endProcess a (spent ++ t) = endProcess a t := by
  induction spent with
  | nil => rfl
  | cons e spent ih =>
    obtain ⟨hlast, hcount⟩ := h e (List.mem_cons_self ..)
    rw [List.cons_append, endProcess_done _ hlast (by simp [hcount])]
    exact ih fun x hx => h x (List.mem_cons_of_mem _ hx)

/-- End processing (R218). -/
theorem endProcessing : EndProcessing := by
  intro a spent rest e h
  refine ⟨?_, fun hlast hcount => ?_, fun hlast => ?_⟩
  · simpa using endProcess_spent h []
  · rw [endProcess_spent h, endProcess_again _ hlast]
    exact sub_ne_zero.mpr hcount
  · rw [endProcess_spent h, endProcess_other _ hlast]

/-- Settles O17: transfers and loop words by their checks in order (a count of 0 as the model has it, log 42), end processing by
induction on the entries popped. -/
theorem controlFlow : Obligations.ControlFlow := ⟨transferResults, loopResults, endProcessing⟩

end Sys2Proof.Claims
end

section
/-! Rounding of an exact value that a format holds (R61, R64, R66): the code comes back, with no status. -/

namespace Sys2Proof.Machine

/-- A code without its sign bit. -/
def Fmt.magnitude (F : Fmt) (c : Nat) : Nat := c % 2 ^ (F.mant + F.expo)

/-- Whether a code's sign bit is set. -/
def Fmt.isNeg (F : Fmt) (c : Nat) : Bool := c / 2 ^ (F.mant + F.expo) % 2 == 1

/-- A code's biased exponent. -/
def Fmt.exponent (F : Fmt) (c : Nat) : Nat := c / 2 ^ F.mant % 2 ^ F.expo

theorem Fmt.signBit_isNeg_add_magnitude {F : Fmt} {c : Nat} (hc : c < 2 ^ (1 + F.expo + F.mant)) :
    F.signBit (F.isNeg c) + F.magnitude c = c := by
  have hsign : c / 2 ^ (F.mant + F.expo) < 2 := by
    rw [Nat.div_lt_iff_lt_mul (by positivity), ← pow_succ']
    exact lt_of_lt_of_eq hc (by ring_nf)
  have hbit : F.signBit (F.isNeg c) = 2 ^ (F.mant + F.expo) * (c / 2 ^ (F.mant + F.expo)) := by
    rw [Fmt.signBit, Fmt.isNeg, Nat.mod_eq_of_lt hsign]
    interval_cases c / 2 ^ (F.mant + F.expo) <;> simp
  rw [hbit, Fmt.magnitude, Nat.div_add_mod]

theorem Fmt.exponent_mul_add_mod (F : Fmt) (c : Nat) : F.exponent c * 2 ^ F.mant + c % 2 ^ F.mant = F.magnitude c := by
  rw [Fmt.magnitude, pow_add, Nat.mod_mul, Fmt.exponent]
  ring

/-- R66: a finite code is subnormal (or zero) or normal. -/
theorem Fmt.dec_fin {F : Fmt} {c : Nat} {neg : Bool} {m : Nat} {e : Int} (h : F.dec c = .fin neg m e) :
    neg = F.isNeg c ∧ ((F.exponent c = 0 ∧ m = c % 2 ^ F.mant ∧ e = 1 - F.bias - F.mant) ∨
      (0 < F.exponent c ∧ m = c % 2 ^ F.mant + 2 ^ F.mant ∧ e = F.exponent c - F.bias - F.mant)) := by
  unfold Fmt.dec at h
  simp only at h
  split_ifs at h with _ _ _ hx <;> cases h
  · exact ⟨rfl, .inl ⟨hx, rfl, rfl⟩⟩
  · exact ⟨rfl, .inr ⟨Nat.pos_of_ne_zero hx, rfl, rfl⟩⟩

/-- The codes above the largest finite one are the infinities and NaNs. -/
theorem Fmt.magnitude_le_maxCode {F : Fmt} {c : Nat} {neg : Bool} {m : Nat} {e : Int} (h : F.dec c = .fin neg m e) :
    F.magnitude c ≤ F.maxCode := by
  have hx : F.exponent c < 2 ^ F.expo := Nat.mod_lt _ (by positivity)
  have hfrac : c % 2 ^ F.mant < 2 ^ F.mant := Nat.mod_lt _ (by positivity)
  rw [← F.exponent_mul_add_mod]
  unfold Fmt.exponent at hx ⊢
  unfold Fmt.dec at h
  generalize c / 2 ^ F.mant % 2 ^ F.expo = x at *
  generalize c % 2 ^ F.mant = f at *
  cases F <;> simp [Fmt.maxCode, Fmt.mant, Fmt.expo] at h hx hfrac ⊢ <;> split_ifs at h <;> omega

theorem roundMag_zero (mode : BitVec 2) (neg : Bool) (m : Nat) : roundMag mode neg m 0 = (m, false) := by
  simp [roundMag]

/-- A value at the exponent that its format rounds to is not rounded; a subnormal one has biased exponent 1 here. -/
theorem Fmt.rnd_fin_of_exponent {F : Fmt} {mode : BitVec 2} {sat neg : Bool} {m x : Nat} (hm : m ≠ 0) (hx : 0 < x)
    (hlog : Nat.log2 m = F.mant ∨ (Nat.log2 m < F.mant ∧ x = 1)) (hmax : (x - 1) * 2 ^ F.mant + m ≤ F.maxCode) :
    F.rnd mode sat (.fin neg m (x - F.bias - F.mant)) = (F.signBit neg + ((x - 1) * 2 ^ F.mant + m), 0) := by
  have he : max (Nat.log2 m + (x - F.bias - F.mant) - F.mant) (1 - F.bias - F.mant) = x - F.bias - F.mant := by omega
  have hcode : (x - F.bias - F.mant + F.mant + F.bias : Int).toNat = x := by omega
  simp only [Fmt.rnd, if_neg hm, he, Int.sub_self, roundMag_zero, hcode, if_neg (Nat.not_lt.mpr hmax)]
  rfl

/-- R64, R66: a finite code, decoded exactly, rounds to itself under every mode with no status. -/
theorem Fmt.rnd_dec_fin {F : Fmt} {mode : BitVec 2} {sat neg : Bool} {c m : Nat} {e : Int} (hc : c < 2 ^ (1 + F.expo + F.mant))
    (h : F.dec c = .fin neg m e) : F.rnd mode sat (.fin neg m e) = (c, 0) := by
  have hmax := Fmt.magnitude_le_maxCode h
  have hmag := F.exponent_mul_add_mod c
  have hfrac : c % 2 ^ F.mant < 2 ^ F.mant := Nat.mod_lt _ (by positivity)
  have hsign := Fmt.signBit_isNeg_add_magnitude hc
  obtain ⟨rfl, ⟨hx, hm, rfl⟩ | ⟨hx, hm, rfl⟩⟩ := Fmt.dec_fin h
  case inl =>
    have hm' : m = F.magnitude c := by simpa [hx, ← hm] using hmag
    by_cases hm0 : m = 0
    · rw [Fmt.rnd, if_pos hm0]
      rw [← hm', hm0] at hsign
      exact Prod.ext hsign rfl
    have hlog : Nat.log2 m < F.mant := (Nat.log2_lt hm0).mpr (hm ▸ hfrac)
    have hround := Fmt.rnd_fin_of_exponent (mode := mode) (sat := sat) (neg := F.isNeg c) hm0 one_pos (.inr ⟨hlog, rfl⟩)
      (by simpa [hm'])
    simpa [hm', hsign] using hround
  case inr =>
    have hm0 : m ≠ 0 := by omega
    have hlog : Nat.log2 m = F.mant := (Nat.log2_eq_iff hm0).mpr (by rw [pow_succ]; omega)
    have hcode : (F.exponent c - 1) * 2 ^ F.mant + m = F.magnitude c := by
      have := Nat.le_mul_of_pos_left (2 ^ F.mant) hx
      rw [Nat.sub_one_mul, ← hmag, hm]
      omega
    rw [Fmt.rnd_fin_of_exponent hm0 hx (.inl hlog) (hcode ▸ hmax), hcode, hsign]

theorem f32_inf {l : Lane} {neg : Bool} (h : f32 l = .inf neg) : Fmt.fp32.signBit neg + 0x7F800000 = l.toNat := by
  have hsign := Fmt.signBit_isNeg_add_magnitude (F := .fp32) l.isLt
  rw [← Fmt.fp32.exponent_mul_add_mod] at hsign
  unfold Fmt.exponent Fmt.isNeg at hsign
  unfold f32 Fmt.dec at h
  simp only at h
  split_ifs at h with hones hfrac
  cases h
  have hexp : l.toNat / 2 ^ Fmt.fp32.mant % 2 ^ Fmt.fp32.expo = 255 := by simpa [Fmt.expo] using hones
  rwa [hexp, hfrac] at hsign

/-- R64, R68: rounding gives an FP32 word back, a NaN as the canonical one. -/
theorem toF32_f32 (mode : BitVec 2) (l : Lane) : toF32 mode (f32 l) = if (f32 l).isNan then 0x7FC00000 else l := by
  cases h : f32 l with
  | nan neg => rfl
  | inf neg => simp [toF32, Fmt.rnd, f32_inf h, Exact.isNan]
  | fin neg m e =>
    have hround : Fmt.fp32.rnd mode false (.fin neg m e) = (l.toNat, 0) := Fmt.rnd_dec_fin l.isLt h
    simp [toF32, hround, Exact.isNan]

end Sys2Proof.Machine
end

section
/-! The cell operations on integers, lanes and hold registers (R255, R260, R261). -/

namespace Sys2Proof.Machine

/-! ### Choices between two words -/

theorem apply_smaller {α : Type} [LinearOrder α] (f : Lane → α) (a b : Lane) : f (if f b < f a then b else a) = min (f a) (f b) := by
  rw [apply_ite f, min_comm, min_def_lt]

theorem apply_larger {α : Type} [LinearOrder α] (f : Lane → α) (a b : Lane) : f (if f a < f b then b else a) = max (f a) (f b) := by
  rw [apply_ite f, max_def_lt]

/-- The larger of two words by s(). -/
def largerLane (a b : Lane) : Lane := if a.toInt < b.toInt then b else a

theorem toInt_largerLane (a b : Lane) : (largerLane a b).toInt = max a.toInt b.toInt := apply_larger BitVec.toInt a b

theorem largerLane_eq_or (a b : Lane) : largerLane a b = a ∨ largerLane a b = b := by
  unfold largerLane
  split_ifs
  · exact .inr rfl
  · exact .inl rfl

/-- No word is smaller than 0x8000_0000 by s(). -/
theorem largerLane_min (l : Lane) : largerLane 0x80000000 l = l := by
  apply BitVec.eq_of_toInt_eq
  rw [toInt_largerLane]
  exact max_eq_right (BitVec.le_toInt l)

/-! ### Results modulo 2^32 and their carries (R255) -/

theorem ofNat_toNat_add_carry {t : Nat} (h : t < 2 ^ 64) :
    (BitVec.ofNat 32 t).toNat + 2 ^ 32 * (BitVec.ofNat 32 (t / 2 ^ 32)).toNat = t := by
  simp only [BitVec.toNat_ofNat]
  omega

theorem ofInt_toNat_sub_borrow {t : Int} (hlo : -2 ^ 33 ≤ t) (hhi : t < 2 ^ 32) :
    ((BitVec.ofInt 32 t).toNat : Int) - 2 ^ 32 * (BitVec.ofInt 32 (-(t / 2 ^ 32))).toNat = t := by
  simp only [BitVec.toNat_ofInt]
  omega

theorem mul_add_add_lt (a b h c : Lane) : a.toNat * b.toNat + h.toNat + c.toNat < 2 ^ 64 := by
  have hmul : a.toNat * b.toNat ≤ (2 ^ 32 - 1) * (2 ^ 32 - 1) :=
    Nat.mul_le_mul (Nat.le_sub_one_of_lt a.isLt) (Nat.le_sub_one_of_lt b.isLt)
  omega

theorem toInt_mulHigh32 (a b : Lane) : (BitVec.ofInt 32 (a.toInt * b.toInt / 2 ^ 32)).toInt = a.toInt * b.toInt / 2 ^ 32 := by
  have hlo : -2 ^ 62 ≤ a.toInt * b.toInt := BitVec.le_toInt_mul_toInt
  have hhi : a.toInt * b.toInt ≤ 2 ^ 62 := BitVec.toInt_mul_toInt_le
  exact BitVec.toInt_ofInt_eq_self (by decide) (by omega) (by omega)

/-- A shift count uses B[4:0]. -/
theorem toNat_mod_32 (b : Lane) : b.toNat % 32 = (b.extractLsb' 0 5).toNat := by simp

theorem absLane_eq (a : Lane) :
    (if a.toInt < 0 then -a else a) = if a = 0x80000000 then 0x80000000 else BitVec.ofInt 32 a.toInt.natAbs := by
  by_cases hmin : a = 0x80000000
  · simp [hmin]
  rw [if_neg hmin]
  split_ifs with hneg
  · rw [Int.ofNat_natAbs_of_nonpos hneg.le, BitVec.ofInt_neg, BitVec.ofInt_toInt]
  · rw [Int.natAbs_of_nonneg (not_lt.mp hneg), BitVec.ofInt_toInt]

/-! ### Counts of bits (R255) -/

theorem length_filter_getLsbD (a : Lane) (l : List Nat) :
    (l.filter fun n => a.getLsbD n).length = (l.map fun n => (a.getLsbD n).toNat).sum := by
  induction l with
  | nil => rfl
  | cons n l ih => cases hb : a.getLsbD n <;> simp [hb, ih, Nat.add_comm]

theorem toNat_popLane (a : Lane) : (BitVec.ofNat 32 (popLane a)).toNat = ((List.range 32).map fun n => (a.getLsbD n).toNat).sum := by
  have hle : popLane a ≤ 32 := by simpa [popLane] using List.length_filter_le a.getLsbD (List.range 32)
  rw [BitVec.toNat_ofNat, Nat.mod_eq_of_lt (by omega)]
  exact length_filter_getLsbD ..

theorem clzLane_le (a : Lane) : clzLane a ≤ 32 := by
  unfold clzLane
  split_ifs <;> omega

theorem getLsbD_above_clzLane {a : Lane} {n : Nat} (hn : n < 32) (h : 32 ≤ n + clzLane a) : a.getLsbD n = false := by
  by_cases ha : a = 0
  · simp [ha]
  rw [clzLane, if_neg ha] at h
  exact Nat.testBit_lt_two_pow (Nat.lt_log2_self.trans_le (Nat.pow_le_pow_right (by decide) (by omega)))

theorem getLsbD_at_clzLane {a : Lane} (h : clzLane a < 32) : a.getLsbD (31 - clzLane a) = true := by
  have ha : a ≠ 0 := fun ha => by simp [clzLane, ha] at h
  have ha' : a.toNat ≠ 0 := fun h0 => ha (BitVec.eq_of_toNat_eq h0)
  have hlog : Nat.log2 a.toNat < 32 := (Nat.log2_lt ha').mpr a.isLt
  rw [clzLane, if_neg ha, show 31 - (31 - Nat.log2 a.toNat) = Nat.log2 a.toNat by omega]
  exact Nat.testBit_log2 ha'

/-! ### Which operations carry, and which write a hold register -/

/-- A cell that neither carries nor writes a hold register itself. -/
def CellOut.Plain (o : CellOut) : Prop := o.carry = 0 ∧ o.hold = none

theorem cellInt_carry {op : Nat} {x : CellIn} (h12 : op ≠ 0x12) (h13 : op ≠ 0x13) (h16 : op ≠ 0x16) : (cellInt op x).carry = 0 := by
  unfold cellInt
  split <;> simp_all [CellOut.of]

theorem cellInt_hold (op : Nat) (x : CellIn) : (cellInt op x).hold = none := by
  unfold cellInt
  split <;> rfl

theorem cellFloat_plain (op : Nat) (x : CellIn) : (cellFloat op x).Plain := by
  unfold cellFloat
  split <;> exact ⟨rfl, rfl⟩

theorem cellPair_plain (op : Nat) (x : CellIn) : (cellPair op x).Plain := by
  unfold cellPair
  split <;> exact ⟨rfl, rfl⟩

theorem cellConv_plain (op : Nat) (x : CellIn) : (cellConv op x).Plain := by
  unfold cellConv
  split <;> exact ⟨rfl, rfl⟩

theorem cellSfu_plain (op : Nat) (x : CellIn) : (cellSfu op x).Plain := ⟨rfl, rfl⟩

theorem cellLanes_plain (op : Nat) (x : CellIn) : (cellLanes op x).Plain := by
  unfold cellLanes
  split
  · exact ⟨rfl, rfl⟩
  · simp only
    split <;> exact ⟨rfl, rfl⟩

theorem cellHold_carry (op : Nat) (x : CellIn) : (cellHold op x).carry = 0 := by
  unfold cellHold
  split <;> rfl

/-- Tables 10-9 to 10-13. -/
theorem cellOp_plain {op : Nat} (x : CellIn) (hlo : 0x30 ≤ op) (hhi : op < 0x78) : (cellOp op x).Plain := by
  rw [cellOp, if_neg (by omega)]
  split_ifs
  · exact cellFloat_plain ..
  · exact cellPair_plain ..
  · exact cellConv_plain ..
  · exact cellSfu_plain ..
  · exact cellLanes_plain ..

theorem cellOp_of_hold {op : Nat} (x : CellIn) (h : 0x78 ≤ op) : cellOp op x = cellHold op x := by
  rw [cellOp, if_neg (by omega), if_neg (by omega), if_neg (by omega), if_neg (by omega), if_neg (by omega), if_neg (by omega)]

theorem cellOp_carry {op : Nat} {x : CellIn} (h12 : op ≠ 0x12) (h13 : op ≠ 0x13) (h16 : op ≠ 0x16) : (cellOp op x).carry = 0 := by
  rcases lt_or_ge op 0x30 with hint | hlo
  · rw [cellOp, if_pos hint]
    exact cellInt_carry h12 h13 h16
  rcases lt_or_ge op 0x78 with hhi | hhold
  · exact (cellOp_plain x hlo hhi).1
  · rw [cellOp_of_hold x hhold]
    exact cellHold_carry ..

theorem cellOp_hold {op : Nat} {x : CellIn} (h : op < 0x78) : (cellOp op x).hold = none := by
  rcases lt_or_ge op 0x30 with hint | hlo
  · rw [cellOp, if_pos hint]
    exact cellInt_hold ..
  · exact (cellOp_plain x hlo h).2

/-! ### The valid lanes of a token (R260) -/

theorem mem_validLanes {ls : List Lane} (hlen : ls.length = 16) (mask : BitVec 16) (l : Lane) :
    l ∈ validLanes ls mask ↔ ∃ n < 16, mask.getLsbD n = true ∧ ls[n]? = some l := by
  have hzip : List.zip ls (List.range 16) = ls.zipIdx := by
    rw [List.zipIdx_eq_zip_range', hlen, List.range_eq_range']
  simp only [validLanes, hzip, List.mem_filterMap, Prod.exists, List.mem_zipIdx_iff_getElem?]
  constructor
  · rintro ⟨k, n, hget, hk⟩
    split at hk <;> simp at hk
    next hm => exact ⟨n, hlen ▸ (List.getElem?_eq_some_iff.mp hget).1, hm, hk ▸ hget⟩
  · rintro ⟨n, -, hm, hget⟩
    exact ⟨l, n, hget, by simp [hm]⟩

/-- XADD: the sum modulo 2^32. -/
theorem foldl_add_eq (ls : List Lane) (acc : Lane) :
    ls.foldl (fun acc l => acc + l) acc = acc + BitVec.ofNat 32 (ls.map BitVec.toNat).sum := by
  induction ls generalizing acc with
  | nil => simp
  | cons l ls ih => simp [ih, BitVec.ofNat_add, BitVec.add_assoc]

theorem toInt_foldl_largerLane (ls : List Lane) (acc : Lane) :
    acc.toInt ≤ (ls.foldl largerLane acc).toInt ∧ ∀ l ∈ ls, l.toInt ≤ (ls.foldl largerLane acc).toInt := by
  induction ls generalizing acc with
  | nil => simp
  | cons k ls ih =>
    obtain ⟨hacc, hmem⟩ := ih (largerLane acc k)
    rw [toInt_largerLane, max_le_iff] at hacc
    exact ⟨hacc.1, List.forall_mem_cons.mpr ⟨hacc.2, hmem⟩⟩

theorem foldl_largerLane_mem (ls : List Lane) (acc : Lane) : ls.foldl largerLane acc ∈ acc :: ls := by
  induction ls generalizing acc with
  | nil => simp
  | cons k ls ih =>
    rw [List.foldl_cons]
    rcases List.mem_cons.mp (ih (largerLane acc k)) with h | h
    · rw [h]
      rcases largerLane_eq_or acc k with h | h <;> simp [h]
    · simp [h]

/-- XMAX: with a lane valid, one of them. -/
theorem foldl_largerLane_min_mem {ls : List Lane} (h : ls ≠ []) : ls.foldl largerLane 0x80000000 ∈ ls := by
  obtain ⟨l, ls, rfl⟩ := List.exists_cons_of_ne_nil h
  rw [List.foldl_cons, largerLane_min]
  exact foldl_largerLane_mem ls l

end Sys2Proof.Machine

namespace Sys2Proof.Claims

open Sys2Proof.Machine

/-- Table 10-8. -/
theorem integerCells : IntegerCells := by
  intro x
  refine ⟨rfl, rfl, rfl, rfl, ofNat_toNat_add_carry (by omega), ofInt_toNat_sub_borrow (by omega) (by omega), rfl, toInt_mulHigh32 ..,
    ofNat_toNat_add_carry (mul_add_add_lt ..), rfl, rfl, rfl, rfl, ?ishl, ?ishr, ?isar, apply_smaller BitVec.toInt ..,
    apply_larger BitVec.toInt .., apply_smaller BitVec.toNat .., apply_larger BitVec.toNat .., ?icmp, rfl, ?dot4, absLane_eq ..,
    toNat_popLane .., ?iclz, fun op => cellOp_carry⟩
  case ishl => rw [← toNat_mod_32]; rfl
  case ishr => rw [← toNat_mod_32]; rfl
  case isar =>
    rw [← toNat_mod_32]
    show (x.a.sshiftRight (x.b.toNat % 32)).toInt = _
    rw [BitVec.toInt_sshiftRight, Int.shiftRight_eq_div_pow]
    push_cast
    rfl
  case icmp =>
    show boolLane (decide (x.a.toInt < x.b.toInt)) = _
    simp [boolLane]
  case dot4 =>
    show x.h + BitVec.ofInt 32 (dot4Sum x.a x.b) = _
    simp [dot4Sum, List.range_succ]
  case iclz =>
    have hr : (cellOp 0x27 x).r.toNat = clzLane x.a :=
      Nat.mod_eq_of_lt (Nat.lt_of_le_of_lt (clzLane_le x.a) (by decide))
    rw [hr]
    exact ⟨clzLane_le x.a, fun n => getLsbD_above_clzLane, getLsbD_at_clzLane⟩

/-- Tables 10-13 and 10-14. -/
theorem laneAndHoldCells : LaneAndHoldCells := by
  intro x hlen hn
  refine ⟨rfl, ?shufr, rfl, ?xadd, ⟨fun h => ?xmaxNone, foldl_largerLane_min_mem, (toInt_foldl_largerLane _ _).2⟩, ?xfadd,
    mem_validLanes hlen x.mask, rfl, rfl, rfl, rfl, rfl, fun op h => ?hold⟩
  case shufr =>
    have hlane : (x.n + 16 - x.b.toNat % 16) % 16 = (((x.n : Int) - x.b.toNat % 16) % 16).toNat := by omega
    rw [← hlane]
    rfl
  case xadd => exact (foldl_add_eq _ _).trans (BitVec.zero_add _)
  case xmaxNone =>
    show (validLanes x.lanes x.mask).foldl largerLane 0x80000000 = _
    rw [h]
    rfl
  case xfadd =>
    rcases hv : validLanes x.lanes x.mask with _ | ⟨l, _ | ⟨k, ls⟩⟩ <;>
      simp [cellOp, cellLanes, shuffleFrom, CellOut.of, hv, toF32_f32]
  case hold =>
    by_contra hop
    simp [cellOp_hold (x := x) (Nat.lt_of_not_le hop)] at h

/-- Settles O42: Table 10-8 by the value of each result, the lane operations by induction on the valid lanes, XFADD of one lane because
a code of FP32 rounds to itself. -/
theorem cellOperations : Obligations.CellOperations := ⟨integerCells, laneAndHoldCells⟩

end Sys2Proof.Claims
end
